-- ==== Sys2Proof/Word.lean ====
section
/-! DEFINITION. Word types and the plainest arithmetic. -/

namespace Sys2Proof

/-- One byte. -/
abbrev Byte := BitVec 8
/-- One 16-bit lane or cell. -/
abbrev Lane := BitVec 16
/-- One 64-bit word. -/
abbrev Word := BitVec 64
/-- One 32-byte sector (10, opening text). -/
abbrev Sector := BitVec 256
/-- One 128-byte line (10, opening text). -/
abbrev Line := BitVec 1024

/-- A sparse table: keys strictly rising, no entry equal to the value an unlisted key reads as. -/
abbrev Tbl (α : Type) := List (Nat × α)

/-- Number of a scalar register x0 to x31 (R64). -/
abbrev Reg := BitVec 5
/-- Device core number 64 × d + 8 × c + k (R15). -/
abbrev CoreId := Fin 128
/-- A compute die: 0 CD0, 1 CD1 (R15). -/
abbrev DieId := Fin 2
/-- A partition number 0 to 16 (R23). -/
abbrev PartId := Fin 17

/-- The die of a core (R15). -/
def coreDie (c : CoreId) : DieId := ⟨c.val / 64, by omega⟩

/-- The device cluster number 8d + c of a core (R15). -/
def coreCluster (c : CoreId) : Fin 16 := ⟨c.val / 8, by omega⟩

/-- The die of a device cluster number (R15). -/
def clusterDie (c : Fin 16) : DieId := ⟨c.val / 8, by omega⟩

end Sys2Proof
end

