-- ==== Sys2Proof/Syntax.lean ====
section
/-! DEFINITION. The commands of the block: one constructor of `Instr` per row of spec/opcode_table.json,
with the row's operands. Core instructions carry the core that issues them and the fields of their encoding;
events carry the unit they happen at. -/

namespace Sys2Proof

/-- What every core instruction carries besides its fields: the issuing core and the bits that its word holds
in fields its format marks RsvZ (R9, R66). Nonzero bits raise ILLEGAL_INSN. -/
structure Issue where
  core : CoreId
  rsvz : BitVec 32 := 0
  deriving DecidableEq, Repr

/-- ADD, SUB, AND, OR, XOR, SLL, SRL, SRA (Table 4.3). `unassigned w` is a word whose major opcode or func no
table assigns (R66). -/
inductive AluOp where
  | add | sub | and | or | xor | sll | srl | sra
  | unassigned (w : BitVec 32)
  deriving DecidableEq, Repr

/-- MIN, MAX, MINU, MAXU. -/
inductive MinMaxOp where
  | min | max | minu | maxu
  deriving DecidableEq, Repr

/-- CLZ, CTZ, POPC. -/
inductive CountOp where
  | clz | ctz | popc
  deriving DecidableEq, Repr

/-- ADDI, ANDI, ORI, XORI, SLTI, SLTIU. -/
inductive ImmOp where
  | addi | andi | ori | xori | slti | sltiu
  deriving DecidableEq, Repr

/-- MUL, MULH, MULHU. -/
inductive MulOp where
  | mul | mulh | mulhu
  deriving DecidableEq, Repr

/-- DIV, DIVU, REM, REMU. -/
inductive DivOp where
  | div | divu | rem | remu
  deriving DecidableEq, Repr

/-- The load sizes of Table 4.5 that go through the L1. -/
inductive LoadSize where
  | lb | lbu | lh | lhu | lw | lwu | ld
  deriving DecidableEq, Repr

/-- FADD, FSUB, FMUL. -/
inductive FArith where
  | fadd | fsub | fmul
  deriving DecidableEq, Repr

/-- FCMP EQ, LT, LE. -/
inductive FCmpOp where
  | eq | lt | le
  deriving DecidableEq, Repr

/-- The control-register writes, ops 1 to 4 of the C format. -/
inductive CrOp where
  | put | swap | bset | bclr
  deriving DecidableEq, Repr

/-- Operands of a control-register write. `rd` of a CRPUT is RsvZ and must be 0 in a well-formed command. -/
structure CrArgs where
  op  : CrOp
  rd  : Reg
  rs1 : Reg
  deriving DecidableEq, Repr

/-- Second operand of a vector instruction: a group (VV) or a scalar register (VX). -/
inductive VSrc where
  | vec (v : BitVec 6)
  | sca (r : Reg)
  deriving DecidableEq, Repr

/-- The vm and MK fields (Table 6.4). -/
structure VMask where
  vm : BitVec 3
  masked : Bool
  deriving DecidableEq, Repr

/-- Majors 0x21 and 0x22, func 0 to 11. -/
inductive VAluOp where
  | add | sub | and | or | xor | sll | srl | sra | min | max | minu | maxu
  deriving DecidableEq, Repr

/-- VQADD, VQADDU, VQSUB, VQSUBU. -/
inductive VQAddOp where
  | qadd | qaddu | qsub | qsubu
  deriving DecidableEq, Repr

/-- VQSHR, VQSHRN, VQSHL. -/
inductive VQShOp where
  | qshr | qshrn | qshl
  deriving DecidableEq, Repr

/-- VFMIN, VFMAX, VFSGN. -/
inductive VFMinOp where
  | fmin | fmax | fsgn
  deriving DecidableEq, Repr

/-- The compares of major 0x27. -/
inductive VCmpOp where
  | seq | sne | slt | sle | sltu | sleu | feq | flt | fle
  deriving DecidableEq, Repr

/-- VMAND, VMOR, VMXOR, VMANDN. -/
inductive MaskOp where
  | and | or | xor | andn
  deriving DecidableEq, Repr

/-- VREDMAX, VREDMIN, VREDAMAX. -/
inductive VRedOp where
  | max | min | amax
  deriving DecidableEq, Repr

/-- A direction bit: .R or .C (R166). -/
inductive Dir where
  | row | col
  deriving DecidableEq, Repr

/-- A queue: its die, its partition and its number (R302). -/
structure QId where
  die  : DieId
  part : PartId
  q    : Fin 64
  deriving DecidableEq, Repr

/-- A packet that a queue has read, by its position (R304). -/
structure PktRef where
  queue : QId
  pos   : BitVec 64
  deriving DecidableEq, Repr

/-- A stream context (R262): the device cluster number 8d + c and the context number. -/
structure CtxId where
  cluster : Fin 16
  ctx     : Fin 32
  deriving DecidableEq, Repr

/-- A sync object: its die and its number (R245). -/
structure ObjId where
  die : DieId
  obj : BitVec 12
  deriving DecidableEq, Repr

/-- The three marks an accumulator can report (R165). -/
inductive AccMark where
  | ovf | nf | pe
  deriving DecidableEq, Repr

/-- What one census count adds (R187). -/
structure Counts where
  elems  : Nat := 0
  zero   : Nat := 0
  ufl    : Nat := 0
  sat    : Nat := 0
  nonfin : Nat := 0
  deriving DecidableEq, Repr

/-- A Lumette frame (Table 16.1, Table 16.2), less its CRC. H0 to H3 are the header words; the payload is LEN
sectors of 32 bytes. -/
structure Frame where
  h0 : Word
  h1 : Word
  h2 : Word
  h3 : Word
  payload : List Sector := []
  deriving DecidableEq, Repr

/-- An access to an L2 slice: a read, or a masked write of a line (R220). -/
inductive L2Req where
  | read
  | write (mask : BitVec 128) (data : Line)
  deriving DecidableEq, Repr

/-- What a host request does (R334, R336). -/
inductive HostAcc where
  | read (bytes : Nat)
  | write (bytes : List Byte) (ep : Bool)
  deriving DecidableEq, Repr

/-- What a completion of a host-window read carries (R338). -/
inductive HostCompl where
  | ok (bytes : List Byte)
  | ur
  | ca
  | ep
  deriving DecidableEq, Repr

/-- What training a Lumette port found: which of the lanes 0 to 15 both ends lock (R343). -/
abbrev LaneMask := BitVec 16

/-- A cell that a defect makes read wrong in the known-answer test: the engine of the core, the pass (0 to 3 ILO, 4 to 7 IHI,
8 CRE, 9 CIM), the cell number and the bits that ACC.RD brings (R404). -/
structure KatCell where
  engine : Fin 4
  pass   : Fin 10
  cell   : BitVec 12
  read   : BitVec 16
  deriving DecidableEq, Repr

/-- What is wrong in a core as its known-answer test finds it: the cells of its engines that read wrong, and whether the scalar or
the vector test, run alongside, fails (R404). -/
structure KatDefects where
  cells  : List KatCell := []
  scalar : Bool := false
  vector : Bool := false
  deriving DecidableEq, Repr

/-- The codewords of a frame that FEC corrected, and those that it could not correct (R345, Table 16.6). -/
structure Fec where
  fixed  : Nat := 0
  uncorr : Nat := 0
  deriving DecidableEq, Repr

/-- A contribution to a reduction group (R229). -/
structure Contribution where
  line : BitVec 48
  mask : BitVec 4
  data : Line
  part : PartId
  g    : BitVec 8
  rank : BitVec 4
  step : BitVec 32
  deriving DecidableEq, Repr

/-- The commands. Every constructor is one row of spec/opcode_table.json, in the table's order. -/
inductive Instr where
  -- integer (04)
  | addSubLogicShift (h : Issue) (op : AluOp) (rd rs1 rs2 : Reg)
  | sltSltu (h : Issue) (uns : Bool) (rd rs1 rs2 : Reg)
  | minMax (h : Issue) (op : MinMaxOp) (rd rs1 rs2 : Reg)
  | addoSubo (h : Issue) (sub : Bool) (rd rs1 rs2 : Reg)
  | clzCtzPopc (h : Issue) (op : CountOp) (rd rs1 : Reg)
  | sextWZextW (h : Issue) (zero : Bool) (rd rs1 : Reg)
  | addiAndiOriXoriSlti (h : Issue) (op : ImmOp) (rd rs1 : Reg) (imm : BitVec 16)
  | shi (h : Issue) (kind : BitVec 2) (amount : BitVec 6) (rd rs1 : Reg)
  | lsi (h : Issue) (rd rs1 : Reg) (imm : BitVec 16)
  | mulMulhMulhu (h : Issue) (op : MulOp) (rd rs1 rs2 : Reg)
  | mulo (h : Issue) (rd rs1 rs2 : Reg)
  | divDivuRemRemu (h : Issue) (op : DivOp) (rd rs1 rs2 : Reg)
  -- scalar memory (04, 10)
  | load (h : Issue) (size : LoadSize) (rd rs1 : Reg) (off : BitVec 13)
  | ldk (h : Issue) (rd rs1 : Reg) (off : BitVec 13)
  | store (h : Issue) (size : BitVec 3) (rs2 rs1 : Reg) (off : BitVec 13)
  | wcbIdleDrain (core : CoreId) (line : BitVec 41)
  -- control transfer (04)
  | branch (h : Issue) (cond : BitVec 3) (rs1 rs2 : Reg) (woff : BitVec 13)
  | jal (h : Issue) (rd : Reg) (woff : BitVec 21)
  | jalr (h : Issue) (rd rs1 : Reg) (imm : BitVec 16)
  | loop (h : Issue) (level : Fin 2) (rs1 : Reg) (lenM1 : BitVec 10)
  | loopX (h : Issue) (level : Fin 2)
  -- control registers (04, 05)
  | crget (h : Issue) (rd : Reg) (creg : BitVec 12)
  | crput (h : Issue) (creg : BitVec 12) (rs1 : Reg)
  | crswap (h : Issue) (rd : Reg) (creg : BitVec 12) (rs1 : Reg)
  | crbset (h : Issue) (rd : Reg) (creg : BitVec 12) (rs1 : Reg)
  | crbclr (h : Issue) (rd : Reg) (creg : BitVec 12) (rs1 : Reg)
  | lbcfgWrite (h : Issue) (a : CrArgs)
  | coreCfgWrite (h : Issue) (a : CrArgs)
  | tlbInvPage (h : Issue) (rs1 rs2 : Reg)
  | tlbInvAsid (h : Issue) (rs1 rs2 : Reg)
  | tlbInvAll (h : Issue) (rs1 rs2 : Reg)
  -- scalar floating point (04)
  | faddFsubFmul (h : Issue) (fp16 : Bool) (op : FArith) (rd rs1 rs2 : Reg)
  | fminFmax (h : Issue) (fp16 : Bool) (max : Bool) (rd rs1 rs2 : Reg)
  | fma (h : Issue) (fp16 : Bool) (rd rs1 rs2 : Reg)
  | fcmp (h : Issue) (fp16 : Bool) (op : FCmpOp) (rd rs1 rs2 : Reg)
  | fcvtF (h : Issue) (fp16 : Bool) (rd rs1 : Reg)
  | fcvtFi (h : Issue) (fp16 : Bool) (rd rs1 : Reg)
  | fcvtIf (h : Issue) (fp16 : Bool) (rd rs1 : Reg)
  | fdiv (h : Issue) (fp16 : Bool) (rd rs1 rs2 : Reg)
  | fsqrt (h : Issue) (fp16 : Bool) (rd rs1 : Reg)
  -- traps, gates, waiting (05)
  | interrupt (core : CoreId)
  | tret (h : Issue)
  | gate (h : Issue) (n : BitVec 10)
  | gret (h : Issue)
  | wfe (h : Issue)
  | halt (h : Issue) (rs1 : Reg)
  | watchdog (core : CoreId)
  | wdkickWrite (h : Issue) (a : CrArgs)
  | ctcmpMatch (core : CoreId)
  | ctcmpWrite (h : Issue) (a : CrArgs)
  -- vector unit (06)
  | vsetn (h : Issue) (rd rs1 : Reg)
  | vshapeWrite (h : Issue) (a : CrArgs)
  | vaddVsubLogicShift (h : Issue) (op : VAluOp) (vd vs1 : BitVec 6) (src : VSrc) (m : VMask)
  | vmulVmulhVmulhu (h : Issue) (op : MulOp) (vd vs1 : BitVec 6) (src : VSrc) (m : VMask)
  | vqaddVqsub (h : Issue) (op : VQAddOp) (vd vs1 : BitVec 6) (src : VSrc) (m : VMask)
  | vqrmul (h : Issue) (vd vs1 : BitVec 6) (src : VSrc) (m : VMask)
  | vqshrVqshrnVqshl (h : Issue) (op : VQShOp) (vd vs1 : BitVec 6) (src : VSrc) (m : VMask)
  | vfaddVfsubVfmul (h : Issue) (op : FArith) (s : Bool) (vd vs1 : BitVec 6) (src : VSrc) (m : VMask)
  | vfmaVfms (h : Issue) (sub s : Bool) (vd vs1 : BitVec 6) (src : VSrc) (m : VMask)
  | vfdivVfsqrt (h : Issue) (sqrt s : Bool) (vd vs1 : BitVec 6) (src : VSrc) (m : VMask)
  | vfminVfmaxVfsgn (h : Issue) (op : VFMinOp) (s : Bool) (vd vs1 : BitVec 6) (src : VSrc) (m : VMask)
  | vmseqVmfleCompare (h : Issue) (op : VCmpOp) (md : BitVec 3) (vs1 vs2 : BitVec 6) (m : VMask)
  | vmandVmorVmxorVmandn (h : Issue) (op : MaskOp) (md ms1 ms2 : BitVec 3)
  | vmsetVmclr (h : Issue) (clr : Bool) (md : BitVec 3)
  | vmpopc (h : Issue) (rd : Reg) (ms1 : BitVec 3)
  | vmfirst (h : Issue) (rd : Reg) (ms1 : BitVec 3)
  | vcvt (h : Issue) (dst : BitVec 4) (vd vs1 vs2 : BitVec 6) (m : VMask)
  | vmv (h : Issue) (vd vs1 : BitVec 6) (m : VMask)
  | vmvVx (h : Issue) (vd : BitVec 6) (rs2 : Reg) (m : VMask)
  | vmvXv (h : Issue) (rd : Reg) (vs1 : BitVec 6) (m : VMask)
  | vslidedn (h : Issue) (vd vs1 : BitVec 6) (rs2 : Reg) (m : VMask)
  | vslideup (h : Issue) (vd vs1 : BitVec 6) (rs2 : Reg) (m : VMask)
  | vmerge (h : Issue) (vd vs1 vs2 : BitVec 6) (m : VMask)
  | vredsum (h : Issue) (s : Bool) (vd vs1 : BitVec 6) (m : VMask)
  | vredmaxVredminVredamax (h : Issue) (op : VRedOp) (s : Bool) (vd vs1 : BitVec 6) (m : VMask)
  | vldVst (h : Issue) (st : Bool) (vd : BitVec 6) (rs1 : Reg) (m : VMask)
  | vldsVsts (h : Issue) (st : Bool) (vd : BitVec 6) (rs1 rs2 : Reg) (m : VMask)
  | vldscVstsc (h : Issue) (st : Bool) (vd : BitVec 6) (rs1 : Reg) (m : VMask)
  | vemit (h : Issue) (vs : BitVec 6) (ta : BitVec 4) (rs1 : Reg)
  | vemitD (h : Issue) (vs : BitVec 6) (ta tb : BitVec 4) (rs1 : Reg)
  | vgather (h : Issue) (vd vs2 : BitVec 6) (rs1 : Reg) (m : VMask) (iw sh : BitVec 2)
  | vscatter (h : Issue) (vs3 vs2 : BitVec 6) (rs1 : Reg) (m : VMask) (iw sh : BitVec 2)
  -- tile registers (07)
  | tldR (h : Issue) (tn : BitVec 4) (rs1 rs2 : Reg)
  | tstR (h : Issue) (tn : BitVec 4) (rs1 rs2 : Reg)
  | tldS (h : Issue) (tn : BitVec 4) (rs1 : Reg)
  | tstS (h : Issue) (tn : BitVec 4) (rs1 : Reg)
  | tzero (h : Issue) (tn : BitVec 4)
  | tcfgWrite (h : Issue) (n : BitVec 4) (a : CrArgs)
  -- engines (08)
  | kStep (core : CoreId)
  | opa (h : Issue) (acc : Fin 4) (ta : BitVec 4) (da : Dir) (tb : BitVec 4) (db : Dir) (rs1 : Reg)
  | opaP (h : Issue) (hp : Fin 2) (s : Bool) (ts : BitVec 4) (ds : Dir) (tx ty : BitVec 4) (dxy : Dir) (rs1 : Reg)
  | opaQ (h : Issue) (ta0 ta1 : BitVec 4) (da : Dir) (tb0 tb1 : BitVec 4) (db : Dir) (rs1 : Reg)
  | opaW (h : Issue) (acc : Fin 4) (tb : BitVec 4) (db : Dir) (vs vsc : BitVec 6) (rs1 : Reg)
  | accClr (h : Issue) (acc : Fin 4) (wide : Bool)
  | accRd (h : Issue) (acc : Fin 4) (td : BitVec 4) (rs1 : Reg)
  | accRdD (h : Issue) (acc : Fin 4) (td te : BitVec 4) (rs1 rs2 : Reg)
  | accWr (h : Issue) (acc : Fin 4) (ta : BitVec 4) (rs1 : Reg)
  | accEmulMul (h : Issue) (acc : Fin 4) (ta : BitVec 4) (rs1 : Reg)
  | accEmulAdd (h : Issue) (acc : Fin 4) (ta : BitVec 4) (rs1 : Reg)
  | accEmulMulB (h : Issue) (acc : Fin 4) (ta : BitVec 4) (rs1 : Reg)
  | accEmulAddB (h : Issue) (acc : Fin 4) (ta : BitVec 4) (rs1 : Reg)
  | accGets (h : Issue) (acc : Fin 4) (rd : Reg) (sel : Bool)
  | accPuts (h : Issue) (acc : Fin 4) (rs1 : Reg) (sel : Bool)
  | opaMpIlo (h : Issue) (acc : Fin 4) (ta : BitVec 4) (da : Dir) (tb : BitVec 4) (db : Dir) (rs1 : Reg)
  | opaMpIhi (h : Issue) (acc : Fin 4) (ta : BitVec 4) (da : Dir) (tb : BitVec 4) (db : Dir) (rs1 : Reg)
  | opaMpCre (h : Issue) (acc : Fin 4) (ta : BitVec 4) (da : Dir) (tb : BitVec 4) (db : Dir) (rs1 : Reg)
  | opaMpCim (h : Issue) (acc : Fin 4) (ta : BitVec 4) (da : Dir) (tb : BitVec 4) (db : Dir) (rs1 : Reg)
  | engineParity (core : CoreId)
  -- census and regions (09)
  | harnessReport (core : CoreId) (acc : Fin 4) (mark : AccMark)
  | censusCount (die : DieId) (slot : BitVec 10) (part : PartId) (queue : Fin 64) (n : Counts)
  | censusCfg (p : PktRef)
  | censusRead (p : PktRef)
  | layerBegin (p : PktRef)
  | layerCommit (p : PktRef)
  | acknowledgedSignal (src : BitVec 14) (part : PartId) (o : ObjId) (v : Word) (tag : BitVec 16)
  -- caches and reductions (10)
  | l1Fill (core : CoreId) (line : BitVec 41)
  | l2Access (pa : BitVec 48) (req : L2Req)
  | l2Fill (pa : BitVec 48)
  | controlCacheAccess (die : DieId) (side : Fin 2) (pa : BitVec 48)
  | flush (p : PktRef)
  | inval (p : PktRef)
  | flushInval (p : PktRef)
  | dead (p : PktRef)
  | lock (p : PktRef)
  | unlock (p : PktRef)
  | unlockDiscard (p : PktRef)
  | groupOpen (p : PktRef)
  | groupAbort (p : PktRef)
  | contribution (c : Contribution)
  | groupTimeout (die : DieId) (part : PartId) (g : BitVec 8)
  -- ordering and sync (11)
  | fenceM (h : Issue)
  | fenceMInv (h : Issue)
  | fenceT (h : Issue)
  | fenceS (h : Issue)
  | fenceI (h : Issue)
  | syncSig (h : Issue) (op : BitVec 3) (ord : BitVec 2) (rs1 rs2 : Reg)
  | syncWait (h : Issue) (cond : BitVec 3) (ord : BitVec 2) (rs1 rs2 : Reg)
  | syncArm (h : Issue) (slot : Fin 4) (cond : BitVec 3) (rs1 rs2 : Reg)
  | syncDisarm (h : Issue) (slot : Fin 4)
  | syncRd (h : Issue) (rd rs1 : Reg)
  | signalApply (o : ObjId) (op : BitVec 3) (v : Word)
  | synValWrite (o : ObjId) (v : Word)
  -- streams (12)
  | streamBind (p : PktRef)
  | streamRun (p : PktRef)
  | streamUnbind (p : PktRef)
  | descriptorRun (x : CtxId)
  | runComplete (x : CtxId)
  | chroupNop (x : CtxId)
  | chEnd (x : CtxId)
  | chroupLoop (x : CtxId)
  | seta (x : CtxId)
  | pat (x : CtxId)
  | strd (x : CtxId)
  | ind (x : CtxId)
  | chroupCopy (x : CtxId)
  | emit (x : CtxId)
  | mcast (x : CtxId)
  | mcastDetach (x : CtxId)
  | red (x : CtxId)
  | redRetry (x : CtxId)
  | pref (x : CtxId)
  | chroupWait (x : CtxId)
  | chroupSig (x : CtxId)
  | tanneryTransfer (die : DieId)
  | offload (p : PktRef)
  | prefetch (p : PktRef)
  -- steps (13) and command packets (14)
  | stepBegin (p : PktRef)
  | stepEnd (p : PktRef)
  | hrnQtailWrite (q : QId) (v : Word)
  | hrnQrdoneWrite (q : QId) (v : Word)
  | hrnQresumeWrite (q : QId) (v : Word)
  | packetRead (q : QId)
  | replyWrite (q : QId)
  | nop (p : PktRef)
  | launch (p : PktRef)
  | taskEnd (core : CoreId)
  | copy (p : PktRef)
  | fill (p : PktRef)
  | syncSignal (p : PktRef)
  | syncWaitPacket (p : PktRef)
  | syncWaitTimeout (p : PktRef)
  | fence (p : PktRef)
  | partCreate (p : PktRef)
  | partDestroy (p : PktRef)
  | map (p : PktRef)
  | unmap (p : PktRef)
  | linkQuery (p : PktRef)
  | linkCtrlDown (p : PktRef)
  | linkCtrlUp (p : PktRef)
  | linkCtrlRetrain (p : PktRef)
  | linkCtrlHalf (p : PktRef)
  | linkCtrlFull (p : PktRef)
  | linkCtrlTimeout (p : PktRef)
  | powerSet (p : PktRef)
  | health (p : PktRef)
  | logRead (p : PktRef)
  | calRead (p : PktRef)
  | calWrite (p : PktRef)
  | attest (p : PktRef)
  | fwUpdate (p : PktRef)
  | inject (p : PktRef)
  -- host ports and memory (15, 18)
  | hostApertureAccess (port : Fin 4) (f : PartId) (off : BitVec 32) (a : HostAcc)
  | hostQueuePageAccess (port : Fin 4) (f : PartId) (off : BitVec 23) (a : HostAcc)
  | hostWindowAccess (part : PartId) (pa : BitVec 48) (a : HostAcc)
  | hostCompletion (port : Fin 4) (tag : Nat) (r : HostCompl)
  | hostCompletionTimeout (port : Fin 4) (tag : Nat)
  | inboundHostWrite (port : Fin 4) (f : PartId) (lpa : BitVec 48) (bytes : List Byte) (ep : Bool)
  | msiWrite (port : Fin 4) (addr : Word)
  | secRecovWrite (v : Word)
  | patrolScrub (die : DieId) (ch : Fin 128) (sub : Fin 2)
  | refresh (die : DieId) (ch : Fin 128) (sub : Fin 2) (bank : Fin 16)
  | selfRefreshEntry (die : DieId) (ch : Fin 128)
  | selfRefreshExit (die : DieId) (ch : Fin 128)
  -- fabric (16)
  | frameReceive (port : Fin 8) (f : Frame) (crcOk : Bool) (fec : Fec)
  | put (f : Frame)
  | get (f : Frame)
  | getr (f : Frame)
  | reduce (f : Frame)
  | signal (f : Frame)
  | mcastFrame (f : Frame)
  | resp (f : Frame)
  | fabE2eTimeout (tag : BitVec 16)
  | psnSignalResend (tag : BitVec 16)
  | nak (port : Fin 8) (seq : BitVec 16)
  | credit (port : Fin 8) (vc : BitVec 3) (n : BitVec 13)
  | hello (port : Fin 8) (payload : Sector)
  | helloSend (port : Fin 8)
  | helloTimeout (port : Fin 8)
  | trainingAttempt (port : Fin 8) (lanes : LaneMask)
  | fecLock (port : Fin 8)
  | lossOfLock (port : Fin 8)
  | lsa (port : Fin 8) (payload : Sector)
  | routeUpdate (org : BitVec 14)
  | ethernetTransmit (eth : Fin 2) (part : PartId)
  | ethernetReceive (eth : Fin 2) (frame : List Byte) (fcs : BitVec 32)
  -- power (17)
  | inputSample (mv : BitVec 16) (ma : BitVec 16)
  | powerLoss
  | fastCurrentLimitEnd
  | clusterOff (cluster : Fin 16)
  | l2HalfOff (die : DieId) (half : Fin 2)
  | domainWake (domain : Fin 30)
  | dvfsChange
  | capEvaluation (tick : Unit)
  | sensorRead (temps : List (BitVec 16)) (lpddrC : BitVec 16)
  | thermalStep
  -- reset and boot (18, 20)
  | porst (ticks : Nat) (fcfg : BitVec 30) (hmode : BitVec 4) (dbgen : Bool)
  | romBoot
  | firmwareBoot
  | ready
  | leafReserve
  -- service (19)
  | logRecord (type : Byte) (part : BitVec 5) (src : BitVec 3) (payload : List Word)
  | logFlush
  | injGoWrite (unit : Fin 8) (v : Word)
  | knownAnswerTest (core : CoreId) (d : KatDefects)
  | retirementCommit
  | healthEvaluation
  | dbgReset (core : CoreId)
  | dbgRestart (core : CoreId)
  | dbgreq (core : CoreId)
  -- test port (20)
  | regacc (addr : BitVec 48) (write : Option Word)
  | idcode
  | bypass
  | samplePreload (preload : Option (List Bool))
  | extest
  | registerWrite (addr : BitVec 48) (bytes : Nat) (v : Word)
  | powerUp
  | hostLinkUp (port : Fin 4) (widthLog rate : BitVec 3) (cxl : Bool)
  | hostLinkDown (port : Fin 4)
  | ethernetLinkChange (eth : Fin 2) (rate : BitVec 2)
  | bottomTreeBuilt
  deriving DecidableEq, Repr

end Sys2Proof
end

