-- ==== Sys2Proof/Decode.lean ====
section
/-! DEFINITION. Commands by the bits of the opcode table. Every row of the table has an empty list of fields: no command
is spelt by bits, so no word spells one. The words of core instructions, from the encoding tables of 04 to 11, stand in
Machine/Encode.lean. -/

namespace Sys2Proof

/-- The command that a word spells by the table's bits: the table gives no row any bits. -/
def decodeTableWord (_nbits _w : Nat) : Option Instr := none

end Sys2Proof
end

