-- ==== Sys2Proof/Config.lean ====
section
/-! DEFINITION. What one part fixes and the spec leaves open: constants without a body. No proof can see a value of
them, so a claim holds whatever they are. -/

namespace Sys2Proof

/-- The stream of free values: the n-th value the spec leaves open in a run is `freeValue n`, with n the counter
`State.freeCtr` (log 5). -/
opaque Config.freeValue : Nat → BitVec 64

/-- DEVINFO.STEPPING, fixed per stepping, 0x01 for the first (Table 4.13; log 6). -/
opaque Config.stepping : BitVec 8

/-- DEVINFO.MINOR, fixed per part (Table 4.13; log 6). -/
opaque Config.minor : BitVec 8

/-- The digest of the boot ROM, fixed per stepping (R388; log 6). -/
opaque Config.romDigest : BitVec 256

/-- The serial number, fused (Table 20.6; log 6). -/
opaque Config.serial : BitVec 128

/-- The fused SHA-256 digests of the Rinlys keys 0 to 3 (R379; log 6). -/
opaque Config.keyDigest : Nat → BitVec 256

/-- Their revocation bits (R379; log 6). -/
opaque Config.keyRevoked : BitVec 4

/-- The channels, by 128d + n, that fail training (R332; log 6). -/
opaque Config.chanFails : Nat → Bool

/-- SEC_MACBASE, fused per part: the first of 64 MAC addresses (20, R365; log 6). -/
opaque Config.macBase : BitVec 48

/-- The private values that the device's HSS seed gives (R379, R380; log 7): the start of chain i of one-time key q of a tree,
0 the top tree and 1 + t the bottom tree t. -/
opaque Config.hssSecret : Nat → Nat → Nat → BitVec 256

/-- The identifier of a tree (R380; log 7). -/
opaque Config.hssId : Nat → BitVec 128

/-- The randomizer of the signature that one-time key q of a tree makes (R380; log 7). -/
opaque Config.hssRandom : Nat → Nat → BitVec 256

/-- The table in the firmware image of the complex cells of the known-answer test: pass 8 (CRE) or 9 (CIM), and the cell
number (R404; log 6). -/
opaque Config.katTable : Nat → Nat → BitVec 16

end Sys2Proof
end

