-- ==== Sys2Proof/Machine/Tbl.lean ====
section
/-! DEFINITION. Operations over sparse tables and the bit and byte helpers every unit uses. -/

namespace Sys2Proof.Machine

/-- What key `i` of a table reads as; an unlisted key reads as `d`. -/
def tget {α : Type} (d : α) : Tbl α → Nat → α
  | [], _ => d
  | (k, v) :: t, i => if i = k then v else tget d t i

/-- Insert a value that is not the default, keeping the keys rising. -/
def tins {α : Type} : Tbl α → Nat → α → Tbl α
  | [], i, v => [(i, v)]
  | (k, w) :: t, i, v =>
    if i < k then (i, v) :: (k, w) :: t
    else if i = k then (i, v) :: t
    else (k, w) :: tins t i v

/-- Write key `i`. Writing the default removes the entry, so equal tables are equal data. -/
def tset {α : Type} [DecidableEq α] (d : α) (t : Tbl α) (i : Nat) (v : α) : Tbl α :=
  if v = d then t.filter (fun e => !decide (e.1 = i)) else tins t i v

/-- Apply `f` to the value of key `i`. -/
def tmod {α : Type} [DecidableEq α] (d : α) (t : Tbl α) (i : Nat) (f : α → α) : Tbl α :=
  tset d t i (f (tget d t i))

/-- The table of `f 0` to `f (n - 1)`. -/
def ttab {α : Type} [DecidableEq α] (d : α) (n : Nat) (f : Nat → α) : Tbl α :=
  (List.range n).filterMap (fun i => if f i = d then none else some (i, f i))

/-- Give every key in [lo, lo + n) the default. -/
def tclear {α : Type} (t : Tbl α) (lo n : Nat) : Tbl α :=
  t.filter (fun e => !(decide (lo ≤ e.1) && decide (e.1 < lo + n)))

/-- Keys rise strictly from `lo` on and no entry holds the default. -/
def twfFrom {α : Type} [DecidableEq α] (d : α) : Nat → Tbl α → Bool
  | _, [] => true
  | lo, (k, v) :: t => decide (lo ≤ k) && !decide (v = d) && twfFrom d (k + 1) t

/-- The canonical form of a table. -/
def twf {α : Type} [DecidableEq α] (d : α) (t : Tbl α) : Bool := twfFrom d 0 t

/-- Add to a 64-bit counter that saturates at 2^64 − 1 (R186, R237). -/
def satAdd (a b : Nat) : Nat := min (a + b) (2 ^ 64 - 1)

/-- Add to a counter that saturates at 2^16 − 1 (Table 10.5). -/
def sat16 (a b : Nat) : Nat := min (a + b) 65535

/-- Bits `lo` to `lo + n - 1` of a word, as a number. -/
def field {w : Nat} (x : BitVec w) (lo n : Nat) : Nat := x.toNat / 2 ^ lo % 2 ^ n

/-- Bit `i` of a word. -/
def bitAt {w : Nat} (x : BitVec w) (i : Nat) : Bool := x.getLsbD i

/-- A field of `n` bits placed at `lo` of a 64-bit word. -/
def place (v lo n : Nat) : Word := BitVec.ofNat 64 (v % 2 ^ n * 2 ^ lo)

/-- A flag as a number. -/
def b2n (b : Bool) : Nat := if b then 1 else 0

/-- A mask of `n` ones at `lo`. -/
def ones {w : Nat} (lo n : Nat) : BitVec w := BitVec.ofNat w ((2 ^ n - 1) * 2 ^ lo)

/-- Little-endian bytes of a number (R3). -/
def toBytes : Nat → Nat → List Byte
  | 0, _ => []
  | n + 1, v => BitVec.ofNat 8 v :: toBytes n (v / 256)

/-- The number that little-endian bytes hold (R3). -/
def ofBytes : List Byte → Nat
  | [] => 0
  | b :: t => b.toNat + 256 * ofBytes t

/-- Byte `i` of a line or sector. -/
def byteOf {w : Nat} (x : BitVec w) (i : Nat) : Byte := BitVec.ofNat 8 (x.toNat / 2 ^ (8 * i))

/-- Replace byte `i` of a line or sector. -/
def setByte {w : Nat} (x : BitVec w) (i : Nat) (b : Byte) : BitVec w :=
  (x &&& ~~~(ones (8 * i) 8)) ||| BitVec.ofNat w (b.toNat * 2 ^ (8 * i))

/-- Replace `bytes` of a line or sector from byte `i` on. -/
def setBytes {w : Nat} (x : BitVec w) (i : Nat) : List Byte → BitVec w
  | [] => x
  | b :: t => setBytes (setByte x i b) (i + 1) t

/-- Split a list into pieces of `n`; `fuel` bounds the pieces. -/
def chunks {α : Type} (n : Nat) : Nat → List α → List (List α)
  | 0, _ => []
  | fuel + 1, l => if l.isEmpty then [] else l.take n :: chunks n fuel (l.drop n)

/-- Insert by a key, after equal keys. -/
def insertBy {α : Type} (key : α → Nat) (x : α) : List α → List α
  | [] => [x]
  | y :: l => if key x < key y then x :: y :: l else y :: insertBy key x l

/-- Sort by a key, equal keys in their order. -/
def sortBy {α : Type} (key : α → Nat) (l : List α) : List α := l.foldl (fun s x => insertBy key x s) []

/-- Ceiling of a / b. -/
def ceilDiv (a b : Nat) : Nat := (a + b - 1) / b

end Sys2Proof.Machine
end

