-- ==== Sys2Proof/Machine/Numerics.lean ====
section
/-! DEFINITION. Number formats, exact values, rounding and the random bits of rounding (03). -/

namespace Sys2Proof.Machine

/-- The element formats of Table 3.1. -/
inductive Fmt where
  | e4m3 | e5m2 | e2m1 | mxint8 | x12 | bf16 | fp16
  deriving DecidableEq, Repr

/-- The exact value of an element or of an operation on elements. Every NaN is one value, and an infinity that is
read is a NaN (R36, R37). `num neg m e` is (−1)^neg × m × 2^e; a zero keeps its sign (R39). -/
inductive Val where
  | nan
  | num (neg : Bool) (m : Nat) (e : Int)
  deriving DecidableEq, Repr

/-- Element width in bits (Table 3.1). -/
def Fmt.bits : Fmt → Nat
  | .e4m3 | .e5m2 | .mxint8 => 8
  | .e2m1 => 4
  | .x12 => 12
  | .bf16 | .fp16 => 16

/-- Width of the mantissa field M (Table 3.1). -/
def Fmt.mant : Fmt → Nat
  | .e4m3 => 3 | .e5m2 => 2 | .e2m1 => 1 | .mxint8 => 6 | .x12 => 6 | .bf16 => 7 | .fp16 => 10

/-- Exponent bias (Table 3.1). -/
def Fmt.bias : Fmt → Int
  | .e4m3 => 7 | .e5m2 => 15 | .e2m1 => 1 | .mxint8 => 0 | .x12 => 15 | .bf16 => 127 | .fp16 => 15

/-- The code of the largest finite magnitude, without its sign (Table 3.1). -/
def Fmt.maxCode : Fmt → Nat
  | .e4m3 => 0x7E | .e5m2 => 0x7B | .e2m1 => 0x7 | .mxint8 => 0x7F | .x12 => 0x7FE | .bf16 => 0x7F7F | .fp16 => 0x7BFF

/-- The canonical NaN that the device writes; E2M1 and MXINT8 have none and a NaN block carries code 0 (R37, R48). -/
def Fmt.canonNaN : Fmt → Nat
  | .e4m3 => 0x7F | .e5m2 => 0x7F | .e2m1 => 0 | .mxint8 => 0 | .x12 => 0x7FF | .bf16 => 0x7FC0 | .fp16 => 0x7E00

/-- Formats whose elements carry a block scale (R43). -/
def Fmt.scaled : Fmt → Bool
  | .bf16 | .fp16 => false
  | _ => true

/-- Formats without a NaN of their own (Table 3.1). -/
def Fmt.noNaN : Fmt → Bool
  | .e2m1 | .mxint8 => true
  | _ => false

/-- Elements in a 16-bit lane, ρ (R44, Table 7.2). -/
def Fmt.rho : Fmt → Nat
  | .e4m3 | .e5m2 | .mxint8 => 2
  | .e2m1 => 4
  | .x12 | .bf16 | .fp16 => 1

/-- Exponent of the unit of code 1: the subnormal spacing is 2^unit (Table 3.1). -/
def Fmt.unit (f : Fmt) : Int :=
  match f with
  | .mxint8 => -6
  | _ => 1 - f.bias - f.mant

/-- The value of element code `c` (R35 to R40). -/
def decodeElem (f : Fmt) (c : Nat) : Val :=
  match f with
  | .mxint8 =>
    let c := c % 256
    if c < 128 then .num false c (-6) else .num true (256 - c) (-6)
  | _ =>
    let sign := c / 2 ^ (f.bits - 1) % 2 == 1
    let mag := c % 2 ^ (f.bits - 1)
    if f != .e2m1 && f.maxCode < mag then .nan
    else
      let ex := mag / 2 ^ f.mant
      let mf := mag % 2 ^ f.mant
      if ex = 0 then .num sign mf f.unit
      else .num sign (2 ^ f.mant + mf) (f.unit + (ex - 1 : Nat))

/-- The value 2^(E − 127) of an E8M0 scale, as its exponent; 0xFF is a NaN (R42). -/
def scaleExp (s : Byte) : Option Int := if s = 0xFF#8 then none else some ((s.toNat : Int) - 127)

/-- Multiply by a power of two. -/
def Val.scale (v : Val) (x : Int) : Val :=
  match v with
  | .nan => .nan
  | .num n m e => .num n m (e + x)

/-- The value of an element under its block scale (R42). -/
def scaledElem (f : Fmt) (c : Nat) (s : Byte) : Val :=
  if f.scaled then
    match scaleExp s with
    | none => .nan
    | some x => (decodeElem f c).scale x
  else decodeElem f c

/-- Is the value an exact zero? -/
def Val.isZero : Val → Bool
  | .nan => false
  | .num _ m _ => m == 0

/-- Is the value finite? -/
def Val.isNum : Val → Bool
  | .nan => false
  | .num .. => true

/-- The sign of a value; a NaN has none. -/
def Val.neg? : Val → Bool
  | .nan => false
  | .num n _ _ => n

/-- The value with its sign reversed. -/
def Val.negate : Val → Val
  | .nan => .nan
  | .num n m e => .num (!n) m e

/-- Exact product (R39, R58). -/
def Val.mul : Val → Val → Val
  | .num n m e, .num n' m' e' => .num (n != n') (m * m') (e + e')
  | _, _ => .nan

/-- A finite value as an integer multiple of 2^x, for x at most its own exponent. -/
def Val.int (v : Val) (x : Int) : Int :=
  match v with
  | .nan => 0
  | .num n m e => (if n then -1 else 1) * (m : Int) * 2 ^ (e - x).toNat

/-- The exponent of a value. -/
def Val.ex : Val → Int
  | .nan => 0
  | .num _ _ e => e

/-- Exact sum of a list. An exact zero is +0, except that it is −0 when every addend is −0 (R39). -/
def sumVals (l : List Val) : Val :=
  if l.any (fun v => !v.isNum) then .nan
  else
    let x := l.foldl (fun a v => min a v.ex) 0
    let t := l.foldl (fun a v => a + v.int x) (0 : Int)
    if t = 0 then .num (!l.isEmpty && l.all (fun v => v.isZero && v.neg?)) 0 x
    else .num (decide (t < 0)) t.natAbs x

/-- Exact sum of two values. -/
def Val.add (a b : Val) : Val := sumVals [a, b]

/-- Compare two finite values: is a < b? Zeros of either sign are equal (R39). -/
def Val.lt (a b : Val) : Bool :=
  let x := min a.ex b.ex
  decide (a.int x < b.int x)

/-- Are two finite values equal? -/
def Val.eqv (a b : Val) : Bool :=
  let x := min a.ex b.ex
  decide (a.int x = b.int x)

/-- The magnitude of a value. -/
def Val.abs : Val → Val
  | .nan => .nan
  | .num _ m e => .num false m e

/-- floor(log2 |v|) of a nonzero finite value. -/
def Val.log2 : Val → Int
  | .nan => 0
  | .num _ m e => (Nat.log2 m : Int) + e

/-- How a rounding site rounds: stochastically with 16 random bits (R50) or to nearest-even (R51). -/
inductive Rnd where
  | stoch (r : BitVec 16)
  | even
  deriving DecidableEq, Repr

/-- m × 2^s rounded to an integer: floor(m × 2^s + r × 2^−16) under R50, nearest with ties to even under R51. -/
def roundInt (rm : Rnd) (m : Nat) (s : Int) : Nat :=
  if 0 ≤ s then m * 2 ^ s.toNat
  else
    let k := (-s).toNat
    match rm with
    | .stoch r => (m * 65536 / 2 ^ k + r.toNat) / 65536
    | .even =>
      let q := m / 2 ^ k
      let rem := m % 2 ^ k
      let half := 2 ^ (k - 1)
      if half < rem ∨ (rem = half ∧ q % 2 = 1) then q + 1 else q

/-- The exponent of u, the spacing of the format's magnitudes at |v| (R50 step 1). -/
def spacingExp (f : Fmt) (v : Val) : Int :=
  match f with
  | .mxint8 => -6
  | _ =>
    let lo := f.unit
    let top := lo + (f.maxCode / 2 ^ f.mant - 1 : Nat)
    if v.isZero then lo else min (max (v.log2 - f.mant) lo) top

/-- Round a finite value into a format: the element code and whether it saturated (R50, R51). -/
def roundTo (f : Fmt) (rm : Rnd) (v : Val) : Nat × Bool :=
  match v with
  | .nan => (f.canonNaN, false)
  | .num neg m e =>
    let u := spacingExp f v
    let n := roundInt rm m (e - u)
    match f with
    | .mxint8 =>
      let (n, o) := if 127 < n then (127, true) else (n, false)
      (if neg then (256 - n) % 256 else n, o)
    | _ =>
      let c := n + (u - f.unit).toNat * 2 ^ f.mant
      let (c, o) := if f.maxCode < c then (f.maxCode, true) else (c, false)
      (c + (if neg then 2 ^ (f.bits - 1) else 0), o)

/-- Quotient of two finite values, the divisor not zero, carried far enough below any spacing that either rounding
of it is the rounding of the exact quotient: 128 places, then one bit that tells whether more follows. -/
def Val.div (a b : Val) : Val :=
  match a, b with
  | .num n m e, .num n' m' e' =>
    if m' = 0 then .nan
    else if m = 0 then .num false 0 0
    else
      let num := m * 2 ^ 128
      let q := num / m'
      .num (n != n') (2 * q + (if num % m' = 0 then 0 else 1)) (e - e' - 129)
  | _, _ => .nan

/-- Square root of a finite value that is not negative, carried as the quotient is. −0 gives −0 (R72). -/
def Val.sqrt (a : Val) : Val :=
  match a with
  | .nan => .nan
  | .num n m e =>
    if m = 0 then .num n 0 e
    else if n then .nan
    else
      let (m, e) := if e % 2 = 0 then (m, e) else (2 * m, e - 1)
      let big := m * 2 ^ 128
      let q := Nat.sqrt big
      .num false (2 * q + (if q * q = big then 0 else 1)) (e / 2 - 65)

/-- The 16 random bits of one stochastic rounding (R52, Table 3.4). -/
def srng (seed : Word) (tag : BitVec 32) (index : BitVec 48) (step : BitVec 32) : BitVec 16 :=
  let x : BitVec 32 := index.truncate 32 ^^^ seed.truncate 32
  let x := x ^^^ (x >>> 16)
  let x := x * 0x9A3D5E27#32
  let x := x ^^^ (seed >>> 32).truncate 32 ^^^ ((index >>> 32).truncate 32 <<< 16)
  let x := x ^^^ (x >>> 15)
  let x := x * 0x6C8B1F35#32
  let x := (x ^^^ tag) + step
  let x := x ^^^ (x >>> 13)
  let x := x * 0xD2B74C4B#32
  (x ^^^ (x >>> 16)).truncate 16

/-- emax and elemmax of Table 3.2. -/
def Fmt.emax : Fmt → Int
  | .e4m3 => 8 | .e5m2 => 15 | .e2m1 => 2 | .mxint8 => 0 | .x12 => 16 | .bf16 => 127 | .fp16 => 15

/-- elemmax, the largest element magnitude (Table 3.2). -/
def Fmt.elemMax (f : Fmt) : Val := (decodeElem f f.maxCode).abs

/-- The largest magnitude among the finite elements; none when no element is finite and nonzero (R45). -/
def maxMag (l : List Val) : Option Val :=
  l.foldl (fun a v =>
    if v.isNum && !v.isZero then
      match a with
      | none => some v.abs
      | some w => if w.lt v.abs then some v.abs else a
    else a) none

/-- floor(log2 m) − emax, one more where m exceeds elemmax × 2^x (R45), before the clamp. -/
def rawExp (f : Fmt) (m : Val) : Int :=
  let x := m.log2 - f.emax
  if (f.elemMax.scale x).lt m then x + 1 else x

/-- Clamp a scale exponent to E8M0 (R45). -/
def clampExp (x : Int) : Int := min (max x (-127)) 127

/-- The E8M0 code of an exponent. -/
def expCode (x : Int) : Byte := BitVec.ofNat 8 (x + 127).toNat

/-- The dynamic rule (R45): the scale code of a block; `zscale` is SKCFG.ZSCALE, 0xFF acting as 0xFE (Table 3.3). -/
def dynamicScale (f : Fmt) (zscale : Byte) (block : List Val) : Byte :=
  match maxMag block with
  | some m => expCode (clampExp (rawExp f m))
  | none => if zscale = 0xFF#8 then 0xFE#8 else zscale

/-- The headroom rule (R46): as the dynamic rule over the block's first row, plus the headroom field before the
clamp; no headroom is added where the row holds no finite nonzero element. -/
def headroomScale (f : Fmt) (zscale : Byte) (head : Nat) (row : List Val) : Byte :=
  match maxMag row with
  | some m => expCode (clampExp (rawExp f m + head))
  | none => if zscale = 0xFF#8 then 0xFE#8 else zscale

/-- Round one element of a block under its scale (R48): its code, and the OVF and NF it raises. A NaN element of a
format with a NaN becomes the canonical NaN. -/
def roundElem (f : Fmt) (rm : Rnd) (scale : Byte) (v : Val) : Nat × Bool × Bool :=
  match v with
  | .nan => (f.canonNaN, false, true)
  | _ =>
    let x := if f.scaled then (scale.toNat : Int) - 127 else 0
    let (c, o) := roundTo f rm (v.scale (-x))
    (c, o, false)

/-- The value a BF16 lane holds. -/
def bf (x : Lane) : Val := decodeElem .bf16 x.toNat

/-- One stochastic BF16 rounding of a cell (R58, R59): the bits, OVF, NF. -/
def roundCell (r : BitVec 16) (v : Val) : Lane × Bool × Bool :=
  match v with
  | .nan => (0x7FC0#16, false, true)
  | _ => let (c, o) := roundTo .bf16 (.stoch r) v; (BitVec.ofNat 16 c, o, false)

/-- Effective format at a replay rung (R61, Table 3.13). -/
def effFmt (rung : Nat) (f : Fmt) : Fmt :=
  match f with
  | .bf16 => .bf16
  | .fp16 => .fp16
  | .x12 => if rung < 2 then .x12 else .bf16
  | f => if rung = 0 then f else if rung = 1 then .x12 else .bf16

/-- The rank ρ of an operand pair, none where Table 3.11 has no such pair (R57). -/
def pairRank (a b : Fmt) : Option Nat :=
  match a, b with
  | .e2m1, .e2m1 => some 4
  | .e2m1, .e4m3 | .e2m1, .e5m2 | .e4m3, .e2m1 | .e5m2, .e2m1 => some 2
  | .e4m3, .e4m3 | .e4m3, .e5m2 | .e5m2, .e4m3 | .e5m2, .e5m2 => some 2
  | .mxint8, .mxint8 => some 2
  | .bf16, .bf16 | .bf16, .fp16 | .bf16, .x12 | .fp16, .bf16 | .fp16, .fp16 | .fp16, .x12
  | .x12, .bf16 | .x12, .fp16 | .x12, .x12 => some 1
  | _, _ => none

/-- One nearest-even BF16 addition of a reduction (R53, R230): the sum, OVF, NF. -/
def reduceAdd (a b : Lane) : Lane × Bool × Bool :=
  match (bf a).add (bf b) with
  | .nan => (0x7FC0#16, false, true)
  | v => let (c, o) := roundTo .bf16 .even v; (BitVec.ofNat 16 c, o, false)

end Sys2Proof.Machine
end

