-- ==== Sys2Proof/Machine/CoreState.lean ====
section
/-! DEFINITION. The state of one core: scalar, trap, vector, tile and engine state, caches and buffers
(04, 05, 06, 07, 08, 10). -/

namespace Sys2Proof.Machine

/-- A privilege level (R81), and the integer bank of that level (R83). -/
inductive Level where
  | u | s | f
  deriving DecidableEq, Repr

/-- The number of a level in PLVL, PBANK and GLVL (Table 5.2). -/
def Level.num : Level → Nat
  | .u => 0 | .s => 1 | .f => 2

/-- The level that a field names; the encoding 3 never stands in a register (R87). -/
def Level.ofNum (n : Nat) : Level := if n = 0 then .u else if n = 1 then .s else .f

/-- A trap about to be entered: its cause code, ADDR and DETAIL (Table 5.3). -/
structure Trap where
  code   : Byte
  addr   : Word
  detail : BitVec 32
  deriving DecidableEq, Repr

/-- What holds a core. `idle` holds no task and issues nothing; `waitResp` holds issue until an answer from another
agent arrives; `waitSync` is a SYNC.WAIT (with its acquire bit) that its waiter-table entry will end; `ending` has halted
and holds the status with which its task ends (R103, R256). -/
inductive Run where
  | running
  | idle
  | waitEvent
  | waitSync (acq : Bool)
  | waitResp
  | ending (status : Byte)
  | halted
  | wedged (cause : Trap)
  deriving DecidableEq, Repr

/-- Trap and gate registers of level S or F (Table 5.2). -/
structure TrapRegs where
  vec     : Word := 0
  epc     : Word := 0
  status  : Word := 0
  cause   : Word := 0
  addr    : Word := 0
  sp      : Word := 0
  vstart  : Word := 0
  tprog   : Word := 0
  loop    : Word := 0
  gpc     : Word := 0
  gstatus : Word := 0
  gsp     : Word := 0
  gloop   : Word := 0
  deriving DecidableEq, Repr

/-- Gate tables, trap routing, interrupts, watchdog and arithmetic enables (Tables 5.1, 5.4, 5.8 to 5.10). `ip` holds
the sticky sources; sources 0 and 3 are levels. `wdBase` is the always-on tick at which WDCNT was 0. -/
structure TrapCtl where
  gtbU   : Word := 0
  gtnU   : Word := 0
  gtbS   : Word := 0
  gtnS   : Word := 0
  route  : Word := 0
  iroute : Word := 0x30
  ip     : BitVec 6 := 0
  imaskS : Word := 0
  imaskF : Word := 0
  ctcmp  : Word := 0xFFFFFFFFFFFFFFFF
  wdctl  : Word := 0
  wdBase : Int := 0
  trapenU : Word := 0
  trapenS : Word := 0
  trapenF : Word := 0
  hrnReq : Bool := false
  deriving DecidableEq, Repr

/-- Loop registers (Table 4.16). -/
structure Loops where
  lc0 : Word := 0
  ls0 : Word := 0
  le0 : Word := 0
  lc1 : Word := 0
  ls1 : Word := 0
  le1 : Word := 0
  deriving DecidableEq, Repr

/-- The other control registers of Table 4.8. -/
structure CtlRegs where
  stepno   : Word := 0
  seed     : Word := 0
  srtag    : Word := 0
  srbase   : Word := 0
  srstride : Word := 0
  skcfg    : Word := 0x7F0C0301
  cflags   : BitVec 4 := 0
  asctl    : Word := 0
  lbcfg    : Word := 1
  coreCfg  : Word := 1
  fired    : BitVec 4 := 0
  engmask  : BitVec 4 := 0xF
  deriving DecidableEq, Repr

/-- The vector unit (R105, Table 6.3). -/
structure Vec where
  v      : Tbl (BitVec 128) := []
  m      : Tbl (BitVec 512) := []
  vshape : Word := 0
  vcnt   : Word := 0
  vstart : Word := 0
  vxrm   : Word := 0
  vcens  : Word := 0
  deriving DecidableEq, Repr

/-- What a tile instruction uses of a tile's configuration: effective format, effective scale mode, pairing axis,
ROWS and LEN (R133, R138). -/
structure Shape where
  fmt   : Fmt
  smode : Nat
  cols  : Bool
  rows  : Nat
  len   : Nat
  deriving DecidableEq, Repr

/-- One operand of a square engine: the tile, read .R or .C, and its shape at issue. -/
structure TileOp where
  tile  : Nat
  col   : Bool
  shape : Shape
  deriving DecidableEq, Repr

/-- The SRNG and Skiver inputs that a Skiver instruction takes at issue (R173); SEED and STEPNO stand still while a
task runs (R75). -/
structure Rand where
  tag    : BitVec 32
  base   : BitVec 48
  stride : BitVec 32
  skcfg  : Word
  deriving DecidableEq, Repr

/-- Where elements go, or come from: the tile, its TCFG and shape at issue, and the logical coordinates of the first
element. -/
structure Dest where
  tile  : Nat
  cfg   : Word
  shape : Shape
  row   : Nat
  col   : Nat
  deriving DecidableEq, Repr

/-- One element that a VEMIT captured: its position in the group and its BF16 or FP16 value. -/
structure Emitted where
  pos : Nat
  val : Val
  deriving DecidableEq, Repr

/-- A queued instruction with its captured operands (R147). -/
inductive EngOp where
  /-- OPA, OPA.P, OPA.Q: per engine its column and its row operand; the k-steps and the rank ρk. -/
  | opa (engs : List (Nat × TileOp × TileOp)) (k rank : Nat)
  /-- OPA.W: the four row tiles from `tb` on, the captured column operand (position, k-index) with its scales. -/
  | opaW (acc : Nat) (tb : TileOp) (feed : Fmt) (elems : List Nat) (scales : List Byte) (kf k rank : Nat)
  | clr (acc : Nat) (wide : Bool) (tag : BitVec 32)
  | rd (acc : Nat) (wide : Bool) (d : Dest) (e : Option Dest) (r : Rand)
  | wr (acc : Nat) (wide : Bool) (d : Dest)
  | emul (acc : Nat) (wide mul bcast : Bool) (d : Dest)
  | mp (acc : Nat) (mode : Nat) (a b : TileOp) (la lb : Nat)
  | emit (fp16 : Bool) (d : Dest) (e : Option Dest) (elems : List Emitted) (r : Rand)
  deriving DecidableEq, Repr

/-- An entry of the tile queue: the instruction and the k-steps, rows or lines it has done. -/
structure QItem where
  op   : EngOp
  done : Nat := 0
  deriving DecidableEq, Repr

/-- What a reuse latch holds: the line's tile, direction and index, its 64 lanes, and the side-array bytes that give the
scales of its elements, by their place in the side array (R151, R157). -/
structure Latch where
  tile  : Nat
  col   : Bool
  idx   : Nat
  lanes : Line
  side  : Tbl Byte := []
  deriving DecidableEq, Repr

/-- Tile registers and operand delivery (07). Row r of tile n is key 64n + r of `rows`; byte b of the side array of
tile n is key 512n + b. `bad` holds the 64-bit words with bad parity, word w of row r of tile n as 1024n + 16r + w.
`inj`, none between commands, is the word that an armed injection holds bad until it is read (Table 19.4): tile or
accumulator, its number, row and word. -/
structure Tiles where
  rows   : Tbl Line := []
  side   : Tbl Byte := []
  cfg    : Tbl Word := []
  tprog  : Word := 0
  bad    : Tbl Bool := []
  queue  : List QItem := []
  latch  : Tbl (Option Latch) := []
  rot    : Nat := 0
  cycles : Nat := 0
  inj    : Option (Bool × Nat × Nat × Nat) := none
  deriving DecidableEq, Repr

/-- An accumulator (R160). Row q of `cells` is cells 64q to 64q + 63; `bad` holds cell words with bad parity, word w
being cells 4w to 4w + 3. -/
structure Acc where
  cells  : Tbl Line := []
  wide   : Bool := false
  ovf    : Bool := false
  nf     : Bool := false
  pe     : Bool := false
  atag   : BitVec 32 := 0
  kcount : BitVec 36 := 0
  bad    : Tbl Bool := []
  deriving DecidableEq, Repr

/-- A line of a core's cache: line number (PA >> 7), the sectors that are valid, the bytes, and the 64-bit words with
bad parity. -/
structure CLine where
  line  : Nat
  valid : BitVec 4
  data  : Line
  bad   : BitVec 16 := 0
  deriving DecidableEq, Repr

/-- A write-combining entry (R211): `last` is the core cycle of its last store, `poison` the sectors that it writes
poisoned (R327). -/
structure Wcb where
  line : Nat
  mask : BitVec 128
  data : Line
  last : Nat
  bad  : Bool := false
  poison : BitVec 4 := 0
  deriving DecidableEq, Repr

/-- What has come in for an issued load: its bytes, the poisoned sector that it reads, or the refusal of a granule that is
no longer its partition's when the access reaches L2 (R26). -/
inductive LoadData where
  | bytes (b : List Byte)
  | poison
  | denied
  deriving DecidableEq, Repr

/-- A scalar load that has issued and not written its destination: destination, size, physical and virtual address, its PC
and the loop registers before it, and what has come in for it (R83, R214). -/
structure Waiter where
  rd   : Reg
  size : LoadSize
  pa   : Nat
  va   : Word
  pc   : Word
  lp   : Loops
  got  : Option LoadData := none
  deriving DecidableEq, Repr

/-- An L1 miss register (R214): its line, the sector that comes first, what L2 answered once it has, and the sectors
installed. -/
structure Miss where
  line  : Nat
  first : Nat
  resp  : Option (Line × BitVec 4) := none
  n     : Nat := 0
  deriving DecidableEq, Repr

/-- A translation-buffer entry: ASID, base of the page, log2 of its size, and the leaf (R80). -/
structure Tlb where
  asid : Nat
  base : Nat
  log  : Nat
  pte  : Word
  deriving DecidableEq, Repr

/-- Caches, buffers and translations of a core (10, R80). Sets are keyed by set number, most recently used first.
`loads` are the scalar loads in flight, oldest first. `prog` is the element, row or piece at which a store that waits for another agent stands. -/
structure CoreMem where
  l1      : Tbl (List CLine) := []
  victim  : List CLine := []
  wcb     : List Wcb := []
  miss    : List Miss := []
  loads   : List Waiter := []
  icache  : Tbl (List CLine) := []
  kcache  : Tbl (List CLine) := []
  dcache  : Tbl (List CLine) := []
  tlb     : List Tlb := []
  landing : Tbl Line := []
  lbBad   : Tbl Bool := []
  prog    : Nat := 0
  deriving DecidableEq, Repr

/-- The task that a core runs: its queue (die, partition, number) and the position of its LAUNCH. -/
structure TaskRef where
  queue : QId
  pos   : Nat
  deriving DecidableEq, Repr

/-- One core. x1 to x31 of the banks U, S and F are keys 1 to 31 of `xu`, `xs`, `xf`. `cycBase` is the die's core
cycle count when CYCLE was 0. `parity` is the pending ENGINE_PARITY with its DETAIL; `watchdog` a pending WATCHDOG. `injSync` that an injection caused the trap
which the instruction in hand raises, `injAsync` the causes that one made pending (R403). -/
structure Core where
  pc       : Word := 0
  level    : Level := .f
  bank     : Level := .f
  run      : Run := .running
  xu       : Tbl Word := []
  xs       : Tbl Word := []
  xf       : Tbl Word := []
  cr       : CtlRegs := {}
  lp       : Loops := {}
  ts       : TrapRegs := {}
  tf       : TrapRegs := {}
  tc       : TrapCtl := {}
  watchdog : Bool := false
  parity   : Option (BitVec 32) := none
  vec      : Vec := {}
  tile     : Tiles := {}
  acc      : Tbl Acc := []
  mem      : CoreMem := {}
  task     : Option TaskRef := none
  cycBase  : Nat := 0
  injSync  : Bool := false
  injAsync : List Byte := []
  deriving DecidableEq, Repr

/-- A core after device reset. -/
def Core.reset : Core := {}

end Sys2Proof.Machine
end

