-- ==== Sys2Proof/Machine/Encode.lean ====
section
/-! DEFINITION. The 32-bit words of core instructions, from the encoding tables of 04, 05, 06, 07, 08 and 11. A trap
that records the instruction word takes it from here (Table 5.3). -/

namespace Sys2Proof.Machine

/-- A field of an instruction word. -/
def fld {w : Nat} (x : BitVec w) (lo : Nat) : BitVec 32 := x.setWidth 32 <<< lo

/-- A one-bit field. -/
def flg (b : Bool) (lo : Nat) : BitVec 32 := if b then 1#32 <<< lo else 0#32

/-- A small number as a field. -/
def num (n lo : Nat) : BitVec 32 := BitVec.ofNat 32 n <<< lo

/-- The major opcode, bits 31:26. -/
def major (m : Nat) : BitVec 32 := num m 26

/-- Format R (Table 4.1). -/
def encR (m : Nat) (rd rs1 rs2 : Reg) (func : Nat) : BitVec 32 :=
  major m ||| fld rd 21 ||| fld rs1 16 ||| fld rs2 11 ||| num func 0

/-- Format I (Table 4.1). -/
def encI (m : Nat) (rd rs1 : Reg) (imm : BitVec 16) : BitVec 32 :=
  major m ||| fld rd 21 ||| fld rs1 16 ||| fld imm 0

/-- Formats M, S and B (Table 4.1). -/
def encM (m : Nat) (a b : Reg) (size : Nat) (off : BitVec 13) : BitVec 32 :=
  major m ||| fld a 21 ||| fld b 16 ||| num size 13 ||| fld off 0

/-- Format C (Table 4.1). -/
def encC (rd rs1 : Reg) (op : Nat) (creg : BitVec 12) : BitVec 32 :=
  major 0x10 ||| fld rd 21 ||| fld rs1 16 ||| num op 12 ||| fld creg 0

/-- The op value of a control-register write. -/
def CrOp.num : CrOp → Nat
  | .put => 1 | .swap => 2 | .bset => 3 | .bclr => 4

/-- A control-register write of register `creg`. -/
def encCr (a : CrArgs) (creg : BitVec 12) : BitVec 32 := encC a.rd a.rs1 (CrOp.num a.op) creg

/-- func of the major 0x00 operations (Table 4.3). -/
def AluOp.func : AluOp → Nat
  | .add => 0 | .sub => 1 | .and => 2 | .or => 3 | .xor => 4 | .sll => 5 | .srl => 6 | .sra => 7
  | .unassigned _ => 0

/-- func of MIN to MAXU. -/
def MinMaxOp.func : MinMaxOp → Nat
  | .min => 0xC | .max => 0xD | .minu => 0xE | .maxu => 0xF

/-- func of CLZ, CTZ, POPC. -/
def CountOp.func : CountOp → Nat
  | .clz => 0x10 | .ctz => 0x11 | .popc => 0x12

/-- Major opcode of the immediate operations (Table 4.2). -/
def ImmOp.major : ImmOp → Nat
  | .addi => 2 | .andi => 3 | .ori => 4 | .xori => 5 | .slti => 8 | .sltiu => 9

/-- func of MUL, MULH, MULHU. -/
def MulOp.func : MulOp → Nat
  | .mul => 0 | .mulh => 1 | .mulhu => 2

/-- func of DIV to REMU. -/
def DivOp.func : DivOp → Nat
  | .div => 4 | .divu => 5 | .rem => 6 | .remu => 7

/-- size of a load (Table 4.5). -/
def LoadSize.code : LoadSize → Nat
  | .lb => 0 | .lbu => 1 | .lh => 2 | .lhu => 3 | .lw => 4 | .lwu => 5 | .ld => 6

/-- func of FADD, FSUB, FMUL. -/
def FArith.func : FArith → Nat
  | .fadd => 0 | .fsub => 1 | .fmul => 2

/-- func of FCMP. -/
def FCmpOp.func : FCmpOp → Nat
  | .eq => 0 | .lt => 1 | .le => 2

/-- A scalar floating-point word: bit 10 of func selects FP16 (Table 4.7). -/
def encF (m : Nat) (fp16 : Bool) (rd rs1 rs2 : Reg) (func : Nat) : BitVec 32 :=
  encR m rd rs1 rs2 func ||| flg fp16 10

/-- vm and MK fields (Table 6.4). -/
def encMask (m : VMask) : BitVec 32 := fld m.vm 5 ||| flg m.masked 4

/-- A second operand in format VV or VX. -/
def encSrc : VSrc → BitVec 32
  | .vec v => fld v 8
  | .sca r => fld r 8

/-- Is the second operand scalar? -/
def isSca : VSrc → Bool
  | .vec _ => false
  | .sca _ => true

/-- Format VV or VX with the given major. -/
def encV (m : Nat) (vd vs1 : BitVec 6) (src : VSrc) (mk : VMask) (func : Nat) : BitVec 32 :=
  major m ||| fld vd 20 ||| fld vs1 14 ||| encSrc src ||| encMask mk ||| num func 0

/-- func of majors 0x21 and 0x22. -/
def VAluOp.func : VAluOp → Nat
  | .add => 0 | .sub => 1 | .and => 2 | .or => 3 | .xor => 4 | .sll => 5 | .srl => 6 | .sra => 7
  | .min => 8 | .max => 9 | .minu => 10 | .maxu => 11

/-- func of VQADD to VQSUBU. -/
def VQAddOp.func : VQAddOp → Nat
  | .qadd => 0 | .qaddu => 1 | .qsub => 2 | .qsubu => 3

/-- func of VQSHR, VQSHRN, VQSHL. -/
def VQShOp.func : VQShOp → Nat
  | .qshr => 5 | .qshrn => 6 | .qshl => 7

/-- func of VFMIN, VFMAX, VFSGN. -/
def VFMinOp.func : VFMinOp → Nat
  | .fmin => 4 | .fmax => 5 | .fsgn => 7

/-- func of the vector compares. -/
def VCmpOp.func : VCmpOp → Nat
  | .seq => 0 | .sne => 1 | .slt => 2 | .sle => 3 | .sltu => 4 | .sleu => 5 | .feq => 8 | .flt => 9 | .fle => 10

/-- func of the mask operations. -/
def MaskOp.func : MaskOp → Nat
  | .and => 0 | .or => 1 | .xor => 2 | .andn => 3

/-- func of the extreme reductions. -/
def VRedOp.func : VRedOp → Nat
  | .max => 1 | .min => 2 | .amax => 3

/-- Is the direction .C? -/
def Dir.isCol : Dir → Bool
  | .row => false
  | .col => true

/-- A direction bit. -/
def encDir (d : Dir) (lo : Nat) : BitVec 32 := flg (Dir.isCol d) lo

/-- Format MM. -/
def encMM (rd : Reg) (md ms1 ms2 : BitVec 3) (func : Nat) : BitVec 32 :=
  major 0x28 ||| fld rd 21 ||| fld md 18 ||| fld ms1 15 ||| fld ms2 12 ||| num func 0

/-- Format VM. -/
def encVM (m : Nat) (vd : BitVec 6) (rs1 rs2 : Reg) (mk : VMask) (func : Nat) : BitVec 32 :=
  major m ||| fld vd 20 ||| fld rs1 15 ||| fld rs2 10 ||| encMask mk ||| num func 0

/-- Major 0x30. -/
def encT (tn : BitVec 4) (rs1 rs2 : Reg) (func : Nat) : BitVec 32 :=
  major 0x30 ||| fld tn 22 ||| fld rs1 17 ||| fld rs2 12 ||| num func 0

/-- Major 0x36. -/
def encA (acc : Nat) (ta : BitVec 4) (rs1 : Reg) (func : Nat) : BitVec 32 :=
  major 0x36 ||| num acc 24 ||| fld ta 20 ||| fld rs1 15 ||| num func 0

/-- OPA.MP. -/
def encMp (acc : Nat) (ta : BitVec 4) (da : Dir) (tb : BitVec 4) (db : Dir) (rs1 : Reg) (mode : Nat) : BitVec 32 :=
  major 0x37 ||| num acc 24 ||| num 3 21 ||| fld rs1 16 ||| fld ta 12 ||| encDir da 11 ||| fld tb 7 ||| encDir db 6 |||
    num mode 4

/-- Major 0x3A. -/
def encSync (rd rs1 rs2 : Reg) (opc : BitVec 3) (ord : BitVec 2) (func : Nat) : BitVec 32 :=
  major 0x3A ||| fld rd 21 ||| fld rs1 16 ||| fld rs2 11 ||| fld opc 8 ||| fld ord 6 ||| num func 0

/-- The word of a core instruction without its RsvZ bits; 0 for a command that is none. -/
def wordOf : Instr → BitVec 32
  | .addSubLogicShift _ (.unassigned w) _ _ _ => w
  | .addSubLogicShift _ op rd rs1 rs2 => encR 0 rd rs1 rs2 (AluOp.func op)
  | .sltSltu _ uns rd rs1 rs2 => encR 0 rd rs1 rs2 (if uns then 9 else 8)
  | .minMax _ op rd rs1 rs2 => encR 0 rd rs1 rs2 (MinMaxOp.func op)
  | .addoSubo _ sub rd rs1 rs2 => encR 0 rd rs1 rs2 (if sub then 0xB else 0xA)
  | .clzCtzPopc _ op rd rs1 => encR 0 rd rs1 0 (CountOp.func op)
  | .sextWZextW _ zero rd rs1 => encR 0 rd rs1 0 (if zero then 0x14 else 0x13)
  | .addiAndiOriXoriSlti _ op rd rs1 imm => encI (ImmOp.major op) rd rs1 imm
  | .shi _ kind amount rd rs1 => encI 6 rd rs1 (kind.setWidth 16 <<< 6 ||| amount.setWidth 16)
  | .lsi _ rd rs1 imm => encI 7 rd rs1 imm
  | .mulMulhMulhu _ op rd rs1 rs2 => encR 1 rd rs1 rs2 (MulOp.func op)
  | .mulo _ rd rs1 rs2 => encR 1 rd rs1 rs2 3
  | .divDivuRemRemu _ op rd rs1 rs2 => encR 1 rd rs1 rs2 (DivOp.func op)
  | .load _ size rd rs1 off => encM 0xA rd rs1 (LoadSize.code size) off
  | .ldk _ rd rs1 off => encM 0xA rd rs1 7 off
  | .store _ size rs2 rs1 off => encM 0xB rs2 rs1 size.toNat off
  | .branch _ cond rs1 rs2 woff => encM 0xC rs1 rs2 cond.toNat woff
  | .jal _ rd woff => major 0xD ||| fld rd 21 ||| fld woff 0
  | .jalr _ rd rs1 imm => encI 0xE rd rs1 imm
  | .loop _ level rs1 lenM1 => major 0xF ||| num level.val 25 ||| fld rs1 16 ||| fld lenM1 0
  | .loopX _ level => major 0xF ||| num level.val 25 ||| num 1 24
  | .crget _ rd creg => encC rd 0 0 creg
  | .crput _ creg rs1 => encC 0 rs1 1 creg
  | .crswap _ rd creg rs1 => encC rd rs1 2 creg
  | .crbset _ rd creg rs1 => encC rd rs1 3 creg
  | .crbclr _ rd creg rs1 => encC rd rs1 4 creg
  | .lbcfgWrite _ a => encCr a 0x070
  | .coreCfgWrite _ a => encCr a 0x200
  | .tlbInvPage _ rs1 rs2 => encR 0x12 0 rs1 rs2 0
  | .tlbInvAsid _ rs1 rs2 => encR 0x12 0 rs1 rs2 1
  | .tlbInvAll _ rs1 rs2 => encR 0x12 0 rs1 rs2 2
  | .faddFsubFmul _ fp16 op rd rs1 rs2 => encF 0x18 fp16 rd rs1 rs2 (FArith.func op)
  | .fminFmax _ fp16 mx rd rs1 rs2 => encF 0x18 fp16 rd rs1 rs2 (if mx then 4 else 3)
  | .fma _ fp16 rd rs1 rs2 => encF 0x19 fp16 rd rs1 rs2 0
  | .fcmp _ fp16 op rd rs1 rs2 => encF 0x1A fp16 rd rs1 rs2 (FCmpOp.func op)
  | .fcvtF _ fp16 rd rs1 => encF 0x1B fp16 rd rs1 0 0
  | .fcvtFi _ fp16 rd rs1 => encF 0x1B fp16 rd rs1 0 1
  | .fcvtIf _ fp16 rd rs1 => encF 0x1B fp16 rd rs1 0 2
  | .fdiv _ fp16 rd rs1 rs2 => encF 0x1C fp16 rd rs1 rs2 0
  | .fsqrt _ fp16 rd rs1 => encF 0x1C fp16 rd rs1 0 1
  | .tret _ => major 0x3D ||| num 1 0
  | .gate _ n => major 0x3C ||| fld n 16
  | .gret _ => major 0x3D
  | .wfe _ => major 0x3E
  | .halt _ rs1 => major 0x3E ||| fld rs1 16 ||| num 1 0
  | .wdkickWrite _ a => encCr a 0x141
  | .ctcmpWrite _ a => encCr a 0x13D
  | .vsetn _ rd rs1 => major 0x20 ||| fld rd 21 ||| fld rs1 16
  | .vshapeWrite _ a => encCr a 0x020
  | .vaddVsubLogicShift _ op vd vs1 src m => encV (if (isSca src) then 0x22 else 0x21) vd vs1 src m (VAluOp.func op)
  | .vmulVmulhVmulhu _ op vd vs1 src m => encV (if (isSca src) then 0x22 else 0x21) vd vs1 src m (12 + MulOp.func op)
  | .vqaddVqsub _ op vd vs1 src m => encV 0x23 vd vs1 src m (VQAddOp.func op) ||| flg (isSca src) 3
  | .vqrmul _ vd vs1 src m => encV 0x23 vd vs1 src m 4 ||| flg (isSca src) 3
  | .vqshrVqshrnVqshl _ op vd vs1 src m => encV 0x23 vd vs1 src m (VQShOp.func op) ||| flg (isSca src) 3
  | .vfaddVfsubVfmul _ op s vd vs1 src m =>
    encV (if (isSca src) then 0x25 else 0x24) vd vs1 src m (FArith.func op) ||| flg s 3
  | .vfmaVfms _ sub s vd vs1 src m => encV 0x26 vd vs1 src m (if sub then 1 else 0) ||| flg (isSca src) 1 ||| flg s 3
  | .vfdivVfsqrt _ sq s vd vs1 src m =>
    encV (if (isSca src) then 0x25 else 0x24) vd vs1 src m (if sq then 6 else 3) ||| flg s 3
  | .vfminVfmaxVfsgn _ op s vd vs1 src m =>
    encV (if (isSca src) then 0x25 else 0x24) vd vs1 src m (VFMinOp.func op) ||| flg s 3
  | .vmseqVmfleCompare _ op md vs1 vs2 m =>
    major 0x27 ||| fld md 20 ||| fld vs1 14 ||| fld vs2 8 ||| encMask m ||| num (VCmpOp.func op) 0
  | .vmandVmorVmxorVmandn _ op md ms1 ms2 => encMM 0 md ms1 ms2 (MaskOp.func op)
  | .vmsetVmclr _ clr md => encMM 0 md 0 0 (if clr then 5 else 4)
  | .vmpopc _ rd ms1 => encMM rd 0 ms1 0 6
  | .vmfirst _ rd ms1 => encMM rd 0 ms1 0 7
  | .vcvt _ dst vd vs1 vs2 m => encV 0x29 vd vs1 (.vec vs2) m dst.toNat
  | .vmv _ vd vs1 m => encV 0x2A vd vs1 (.vec 0) m 0
  | .vmvVx _ vd rs2 m => encV 0x2A vd 0 (.sca rs2) m 1
  | .vmvXv _ rd vs1 m => encV 0x2A 0 vs1 (.sca rd) m 2
  | .vslidedn _ vd vs1 rs2 m => encV 0x2A vd vs1 (.sca rs2) m 3
  | .vslideup _ vd vs1 rs2 m => encV 0x2A vd vs1 (.sca rs2) m 4
  | .vmerge _ vd vs1 vs2 m => encV 0x2A vd vs1 (.vec vs2) m 5
  | .vredsum _ s vd vs1 m => encV 0x2B vd vs1 (.vec 0) m 0 ||| flg s 3
  | .vredmaxVredminVredamax _ op s vd vs1 m => encV 0x2B vd vs1 (.vec 0) m (VRedOp.func op) ||| flg s 3
  | .vldVst _ st vd rs1 m => encVM 0x2C vd rs1 0 m (if st then 1 else 0)
  | .vldsVsts _ st vd rs1 rs2 m => encVM 0x2D vd rs1 rs2 m (if st then 1 else 0)
  | .vldscVstsc _ st vd rs1 m => encVM 0x2C vd rs1 0 m (if st then 3 else 2)
  | .vemit _ vs ta rs1 => major 0x2E ||| fld vs 20 ||| fld ta 16 ||| fld rs1 7
  | .vemitD _ vs ta tb rs1 => major 0x2E ||| fld vs 20 ||| fld ta 16 ||| fld tb 12 ||| fld rs1 7 ||| num 1 0
  | .vgather _ vd vs2 rs1 m iw sh =>
    major 0x38 ||| fld vd 20 ||| fld vs2 14 ||| fld rs1 9 ||| encMask m ||| fld iw 2 ||| fld sh 0
  | .vscatter _ vs3 vs2 rs1 m iw sh =>
    major 0x39 ||| fld vs3 20 ||| fld vs2 14 ||| fld rs1 9 ||| encMask m ||| fld iw 2 ||| fld sh 0
  | .tldR _ tn rs1 rs2 => encT tn rs1 rs2 0
  | .tstR _ tn rs1 rs2 => encT tn rs1 rs2 1
  | .tldS _ tn rs1 => encT tn rs1 0 2
  | .tstS _ tn rs1 => encT tn rs1 0 3
  | .tzero _ tn => encT tn 0 0 4
  | .tcfgWrite _ n a => encCr a (0x030 + n.setWidth 12)
  | .opa _ acc ta da tb db rs1 =>
    major 0x31 ||| num acc.val 24 ||| fld ta 20 ||| encDir da 19 ||| fld tb 15 ||| encDir db 14 ||| fld rs1 9
  | .opaP _ hp s ts ds tx ty dxy rs1 =>
    major 0x32 ||| num hp.val 25 ||| flg s 24 ||| fld ts 20 ||| encDir ds 19 ||| fld tx 15 ||| fld ty 11 |||
      encDir dxy 10 ||| fld rs1 5
  | .opaQ _ ta0 ta1 da tb0 tb1 db rs1 =>
    major 0x33 ||| fld ta0 22 ||| fld ta1 18 ||| encDir da 17 ||| fld tb0 13 ||| fld tb1 9 ||| encDir db 8 ||| fld rs1 3
  | .opaW _ acc tb db vs vsc rs1 =>
    major 0x34 ||| num acc.val 24 ||| fld tb 20 ||| encDir db 19 ||| fld vs 13 ||| fld vsc 7 ||| fld rs1 2
  | .accClr _ acc wide => major 0x37 ||| num acc.val 24 ||| flg wide 0
  | .accRd _ acc td rs1 => major 0x35 ||| num acc.val 24 ||| fld td 20 ||| fld rs1 11
  | .accRdD _ acc td te rs1 rs2 =>
    major 0x35 ||| num acc.val 24 ||| fld td 20 ||| fld te 16 ||| fld rs1 11 ||| fld rs2 6 ||| num 1 0
  | .accWr _ acc ta rs1 => encA acc.val ta rs1 0
  | .accEmulMul _ acc ta rs1 => encA acc.val ta rs1 1
  | .accEmulAdd _ acc ta rs1 => encA acc.val ta rs1 2
  | .accEmulMulB _ acc ta rs1 => encA acc.val ta rs1 3
  | .accEmulAddB _ acc ta rs1 => encA acc.val ta rs1 4
  | .accGets _ acc rd sel => major 0x37 ||| num acc.val 24 ||| num 1 21 ||| fld rd 16 ||| flg sel 0
  | .accPuts _ acc rs1 sel => major 0x37 ||| num acc.val 24 ||| num 2 21 ||| fld rs1 16 ||| flg sel 0
  | .opaMpIlo _ acc ta da tb db rs1 => encMp acc.val ta da tb db rs1 0
  | .opaMpIhi _ acc ta da tb db rs1 => encMp acc.val ta da tb db rs1 1
  | .opaMpCre _ acc ta da tb db rs1 => encMp acc.val ta da tb db rs1 2
  | .opaMpCim _ acc ta da tb db rs1 => encMp acc.val ta da tb db rs1 3
  | .fenceM _ => major 0x3B
  | .fenceMInv _ => major 0x3B ||| num 1 4
  | .fenceT _ => major 0x3B ||| num 1 0
  | .fenceS _ => major 0x3B ||| num 2 0
  | .fenceI _ => major 0x3B ||| num 3 0
  | .syncSig _ op ord rs1 rs2 => encSync 0 rs1 rs2 op ord 0
  | .syncWait _ cond ord rs1 rs2 => encSync 0 rs1 rs2 cond ord 1
  | .syncArm _ slot cond rs1 rs2 => encSync (BitVec.ofNat 5 slot.val) rs1 rs2 cond 0 2
  | .syncDisarm _ slot => encSync (BitVec.ofNat 5 slot.val) 0 0 0 0 3
  | .syncRd _ rd rs1 => encSync rd rs1 0 0 0 4
  | _ => 0

end Sys2Proof.Machine
end

