-- ==== Sys2Proof/Machine/Operands.lean ====
section
/-! DEFINITION. Operand forms: integer registers and their banks (R64, R84), vector groups and elements (R105 to R111),
tile elements and lines (R132 to R138, R152), accumulator cells (R161). -/

namespace Sys2Proof.Machine

/-- What a core instruction sees besides its core: device core number, partition, rung of the layer region its task
runs in (0 outside), CYCLE, always-on tick, device ID, whether its cluster is in test mode, and its armed slots. -/
structure Ctx where
  core  : Nat
  part  : Nat
  rung  : Nat
  cycle : Nat
  now   : Nat
  devid : Nat
  test  : Bool
  armed : BitVec 4
  deriving DecidableEq, Repr

/-- An integer bank. -/
def bankOf (c : Core) : Level → Tbl Word
  | .u => c.xu
  | .s => c.xs
  | .f => c.xf

/-- Register `n` of bank `b`; register 0 reads zero (R64). -/
def bget (c : Core) (b : Level) (n : Nat) : Word := if n = 0 then 0 else tget 0 (bankOf c b) n

/-- Write register `n` of bank `b`; a write to register 0 is discarded (R64). -/
def bset (c : Core) (b : Level) (n : Nat) (v : Word) : Core :=
  if n = 0 then c
  else match b with
    | .u => { c with xu := tset 0 c.xu n v }
    | .s => { c with xs := tset 0 c.xs n v }
    | .f => { c with xf := tset 0 c.xf n v }

/-- Read integer register `r` of the bank in use. -/
def xget (c : Core) (r : Reg) : Word := bget c c.bank r.toNat

/-- Write integer register `r` of the bank in use. -/
def xset (c : Core) (r : Reg) (v : Word) : Core := bset c c.bank r.toNat v

/-- An element type of Table 6.1 in effective terms. -/
inductive VTy where
  | int (w : Nat)
  | fp (f : Fmt)
  deriving DecidableEq, Repr

/-- The type that a code of Table 6.1 names; none for codes 0xB to 0xF. -/
def tyOfCode (n : Nat) : Option VTy :=
  match n with
  | 0 => some (.int 8) | 1 => some (.int 16) | 2 => some (.int 32) | 3 => some (.int 64)
  | 4 => some (.fp .e4m3) | 5 => some (.fp .e5m2) | 6 => some (.fp .e2m1) | 7 => some (.fp .mxint8)
  | 8 => some (.fp .x12) | 9 => some (.fp .bf16) | 10 => some (.fp .fp16)
  | _ => none

/-- The effective type at a rung (R122, R61). -/
def effTy (rung : Nat) : VTy → VTy
  | .int w => .int w
  | .fp f => .fp (effFmt rung f)

/-- Element width w (Table 6.1); X12 takes a 16-bit lane (R106). -/
def tyWidth : VTy → Nat
  | .int w => w
  | .fp .x12 => 16
  | .fp f => f.bits

/-- Is the type BF16 or FP16? -/
def tyFloat : VTy → Bool
  | .fp .bf16 | .fp .fp16 => true
  | _ => false

/-- Is the type an integer type? -/
def tyInt : VTy → Bool
  | .int _ => true
  | _ => false

/-- Is the type scaled? -/
def tyScaled : VTy → Bool
  | .fp f => f.scaled
  | _ => false

/-- The effective VSHAPE type; the register never holds a reserved code (R109). -/
def vType (x : Ctx) (c : Core) : VTy := effTy x.rung ((tyOfCode (field c.vec.vshape 4 4)).getD (.int 8))

/-- G = 2^GLOG. -/
def vG (c : Core) : Nat := 2 ^ field c.vec.vshape 0 3

/-- Group capacity G × 128 / w. -/
def vCap (x : Ctx) (c : Core) : Nat := vG c * 128 / tyWidth (vType x c)

/-- Element `i` of width `w` of the group at register `base` (R106). -/
def vElem (v : Tbl (BitVec 128)) (base w i : Nat) : Nat :=
  field (tget 0 v (base + i * w / 128)) (i * w % 128) w

/-- Replace element `i` of width `w` of the group at `base`. -/
def vPut (v : Tbl (BitVec 128)) (base w i val : Nat) : Tbl (BitVec 128) :=
  tmod 0 v (base + i * w / 128) (fun r =>
    (r &&& ~~~(ones (i * w % 128) w)) ||| BitVec.ofNat 128 (val % 2 ^ w * 2 ^ (i * w % 128)))

/-- Replace several elements of the group at `base`. -/
def vPuts (v : Tbl (BitVec 128)) (base w : Nat) (l : List (Nat × Nat)) : Tbl (BitVec 128) :=
  l.foldl (fun v e => vPut v base w e.1 e.2) v

/-- VSTART. -/
def vStart (c : Core) : Nat := field c.vec.vstart 0 10

/-- VCNT. -/
def vCnt (c : Core) : Nat := field c.vec.vcnt 0 10

/-- The active elements, ascending (R111). DESIGN CHOICE (log 66): a VCNT above the effective capacity at the rung of a task (R122
leaves that to software) makes elements beyond the group active; they lie in the registers that follow it, and past v63 in
places that no register field names. -/
def vActive (c : Core) (m : VMask) : List Nat :=
  (List.range (vCnt c)).filter (fun i =>
    decide (vStart c ≤ i) && (!m.masked || bitAt (tget 0 c.vec.m m.vm.toNat) i))

/-- The derived group size of R107; none above 16. -/
def vDerived (g w' w : Nat) : Option Nat := if 16 * w < g * w' then none else some (max 1 (g * w' / w))

/-- Operand groups (base, size): each base a multiple of its size, and no two overlapping unless identical (R106,
R107). -/
def groupsOk : List (Nat × Nat) → Bool
  | [] => true
  | (r, s) :: t =>
    decide (r % s = 0) &&
      t.all (fun e => decide (e = (r, s)) || decide (r + s ≤ e.1) || decide (e.1 + e.2 ≤ r)) && groupsOk t

/-- The signed value of a `w`-bit number. -/
def sgn (w n : Nat) : Int := if n % 2 ^ w < 2 ^ (w - 1) then n % 2 ^ w else (n % 2 ^ w : Nat) - 2 ^ w

/-- The `w`-bit code of an integer. -/
def unsgn (w : Nat) (i : Int) : Nat := (i % (2 ^ w : Nat)).toNat

/-- The element code of a lane or element field: X12 ignores lane bits 3:0 (R41). -/
def codeOfLane (f : Fmt) (n : Nat) : Nat := if f = .x12 then n / 16 else n

/-- The lane or element field that holds a code (R41). -/
def laneOfCode (f : Fmt) (n : Nat) : Nat := if f = .x12 then n * 16 else n

/-- An element field as the device writes it: an X12 lane with bits 3:0 zero, whatever was read there (R41). -/
def laneClean (t : VTy) (n : Nat) : Nat :=
  match t with
  | .fp f => laneOfCode f (codeOfLane f n)
  | .int _ => n

/-- The value of an element field of an unscaled or scaled format. -/
def elemVal (f : Fmt) (n : Nat) (scale : Byte) : Val := scaledElem f (codeOfLane f n) scale

/-- The scalar second operand of a VX instruction, or element `i` of the group (Table 6.5). -/
def vSrc (c : Core) (src : VSrc) (w i : Nat) : Nat :=
  match src with
  | .vec v => vElem c.vec.v v.toNat w i
  | .sca r => (xget c r).toNat % 2 ^ w

/-- The group that a second operand names. -/
def srcGroup (src : VSrc) (g : Nat) : List (Nat × Nat) :=
  match src with
  | .vec v => [(v.toNat, g)]
  | .sca _ => []

/-- TCFGn as stored; reset FMT 0x9, LENM1 7, ROWSM1 63 (Table 7.1). -/
def tcfg (c : Core) (n : Nat) : Word := tget 0x901FF c.tile.cfg n

/-- The element format that TCFG names. -/
def cfgFmt (w : Word) : Fmt :=
  match tyOfCode (field w 16 4) with
  | some (.fp f) => f
  | _ => .bf16

/-- The shape of a tile configuration at a rung: an effective BF16 tile has no scales (R138). -/
def shapeOf (rung : Nat) (w : Word) : Shape :=
  let f := effFmt rung (cfgFmt w)
  { fmt := f, smode := if f.scaled then field w 14 2 else 0, cols := bitAt w 13,
    rows := field w 0 6 + 1, len := field w 6 3 + 1 }

/-- The shape of tile `n` now. -/
def tshape (x : Ctx) (c : Core) (n : Nat) : Shape := shapeOf x.rung (tcfg c n)

/-- Logical rows NR (R135). -/
def Shape.nr (s : Shape) : Nat := if s.cols then s.fmt.rho * s.rows else s.rows

/-- Logical columns NC (R135). -/
def Shape.nc (s : Shape) : Nat := if s.cols then 8 * s.len else s.fmt.rho * 8 * s.len

/-- Bytes of a memory row (R141). -/
def Shape.rowBytes (s : Shape) : Nat := if s.fmt = .x12 then 12 * s.len else 16 * s.len

/-- Physical row, lane and slot of logical element (r, c) (R136). -/
def Shape.place (s : Shape) (r c : Nat) : Nat × Nat × Nat :=
  let p := s.fmt.rho
  if s.cols then (r / p, c, r % p) else (r, c / p, c % p)

/-- Byte of the side array that holds the scale of (r, c) (Table 7.3). -/
def Shape.scaleAt (s : Shape) (r c : Nat) : Nat :=
  match s.smode with
  | 1 => r * ceilDiv s.nc 32 + c / 32
  | 2 => c * ceilDiv s.nr 32 + r / 32
  | _ => r / 32 * ceilDiv s.nc 32 + c / 32

/-- NS, the side-array bytes in use (Table 7.3). -/
def Shape.ns (s : Shape) : Nat :=
  match s.smode with
  | 0 => 0
  | 1 => s.nr * ceilDiv s.nc 32
  | 2 => s.nc * ceilDiv s.nr 32
  | _ => ceilDiv s.nr 32 * ceilDiv s.nc 32

/-- Width of one slot of a lane. -/
def Fmt.slotBits (f : Fmt) : Nat := 16 / f.rho

/-- Lane `j` of a row. -/
def laneOf (row : Line) (j : Nat) : Nat := field row (16 * j) 16

/-- Replace `n` bits at `lo` of a row. -/
def putBits (row : Line) (lo n v : Nat) : Line :=
  (row &&& ~~~(ones lo n)) ||| BitVec.ofNat 1024 (v % 2 ^ n * 2 ^ lo)

/-- Physical row `r` of tile `n`. -/
def tileRow (c : Core) (n r : Nat) : Line := tget 0 c.tile.rows (64 * n + r)

/-- Write physical row `r` of tile `n`; the words written carry good parity again (log 20). -/
def setTileRow (c : Core) (n r : Nat) (v : Line) : Core :=
  { c with tile := { c.tile with rows := tset 0 c.tile.rows (64 * n + r) v,
                                 bad := tclear c.tile.bad (1024 * n + 16 * r) 16 } }

/-- Side-array byte `b` of tile `n`. -/
def tileScale (c : Core) (n b : Nat) : Byte := tget 0 c.tile.side (512 * n + b)

/-- Write side-array byte `b` of tile `n`. -/
def setTileScale (c : Core) (n b : Nat) (v : Byte) : Core :=
  { c with tile := { c.tile with side := tset 0 c.tile.side (512 * n + b) v } }

/-- The element field of logical element (r, q) of tile `n`. -/
def tileElem (c : Core) (n : Nat) (s : Shape) (r q : Nat) : Nat :=
  let (p, l, k) := s.place r q
  field (tileRow c n p) (16 * l + s.fmt.slotBits * k) s.fmt.slotBits

/-- The value of logical element (r, q) of tile `n` under its scale. -/
def tileVal (c : Core) (n : Nat) (s : Shape) (r q : Nat) : Val :=
  elemVal s.fmt (tileElem c n s r q) (tileScale c n (s.scaleAt r q))

/-- Write the element field of logical element (r, q); the other slots of its lane stay (R174). -/
def setTileElem (c : Core) (n : Nat) (s : Shape) (r q v : Nat) : Core :=
  let (p, l, k) := s.place r q
  setTileRow c n p (putBits (tileRow c n p) (16 * l + s.fmt.slotBits * k) s.fmt.slotBits v)

/-- Read rank ρr of an operand read .R or .C (Table 7.7). -/
def TileOp.rank (o : TileOp) : Nat := if o.col = o.shape.cols then 1 else o.shape.fmt.rho

/-- Vector length of an operand read (Table 7.7). -/
def TileOp.vlen (o : TileOp) : Nat := if o.col then o.shape.nr else o.shape.nc

/-- Line count L of an operand read (Table 7.7). -/
def TileOp.lines (o : TileOp) : Nat := if o.col then 8 * o.shape.len else o.shape.rows

/-- Line `i` of an operand: a row line is physical row i, a column line is lane i of every row in use. -/
def lineOf (c : Core) (o : TileOp) (i : Nat) : Line :=
  if o.col then
    BitVec.ofNat 1024 ((List.range o.shape.rows).foldl (fun a r => a + laneOf (tileRow c o.tile r) i * 2 ^ (16 * r)) 0)
  else BitVec.ofNat 1024 ((tileRow c o.tile i).toNat % 2 ^ (128 * o.shape.len))

/-- What a port delivers of a line, scales and all (R151). -/
def readLine (c : Core) (o : TileOp) (i : Nat) : Latch :=
  { tile := o.tile, col := o.col, idx := i, lanes := lineOf c o i,
    side := (c.tile.side.filter (fun e => decide (e.1 / 512 = o.tile))).map (fun e => (e.1 % 512, e.2)) }

/-- The element at vector position `pos` and k-element `kk` of an operand, its line given: the slot along the pairing axis
is `kk mod ρr` where the lanes run along k, and the position where they run across it (R152 to R154). -/
def operandVal (o : TileOp) (l : Latch) (kk pos : Nat) : Val :=
  if o.vlen ≤ pos then .num false 0 0
  else
    let p := o.shape.fmt.rho
    let (lane, slot) := if o.col = o.shape.cols then (pos / p, pos % p) else (pos, kk % p)
    let f := field l.lanes (16 * lane + o.shape.fmt.slotBits * slot) o.shape.fmt.slotBits
    let (r, q) := if o.col then (pos, kk) else (kk, pos)
    elemVal o.shape.fmt f (tget 0 l.side (o.shape.scaleAt r q))

/-- The value of logical element (r, q) on a row line that was read. -/
def lineVal (s : Shape) (l : Latch) (r q : Nat) : Val :=
  let (_, j, k) := s.place r q
  elemVal s.fmt (field l.lanes (16 * j + s.fmt.slotBits * k) s.fmt.slotBits) (tget 0 l.side (s.scaleAt r q))

/-- An accumulator. -/
def accOf (c : Core) (a : Nat) : Acc := tget {} c.acc a

/-- Change an accumulator. -/
def setAcc (c : Core) (a : Nat) (v : Acc) : Core := { c with acc := tset {} c.acc a v }

/-- Cell `n` of an accumulator (R161). -/
def cellOf (a : Acc) (n : Nat) : Lane := BitVec.ofNat 16 (laneOf (tget 0 a.cells (n / 64)) (n % 64))

end Sys2Proof.Machine
end

