-- ==== Sys2Proof/Machine/Flags.lean ====
section
/-! DEFINITION. Flags and control registers of a core: CFLAGS (Table 4.15), overflow detection (R68), reads and writes
of every control register (R74, R88, R108, R133, R252), and the result forms of an instruction. -/

namespace Sys2Proof.Machine

/-- Cause codes (Table 5.3). -/
def cILLEGAL : Byte := 0x01
def cPRIV : Byte := 0x02
def cMISALIGNED : Byte := 0x03
def cFETCH_PAGE : Byte := 0x04
def cLOAD_PAGE : Byte := 0x05
def cSTORE_PAGE : Byte := 0x06
def cACCESS : Byte := 0x07
def cDIV_ZERO : Byte := 0x08
def cINT_OVERFLOW : Byte := 0x09
def cFP_OVERFLOW : Byte := 0x0A
def cTILE_SHAPE : Byte := 0x0B
def cTILE_FORMAT : Byte := 0x0C
def cGATE_FAULT : Byte := 0x0D
def cGATE_ARG : Byte := 0x0E
def cENGINE_PARITY : Byte := 0x0F
def cGATHER_FAULT : Byte := 0x10
def cSYNC_FAULT : Byte := 0x11
def cDOUBLE_FAULT : Byte := 0x18
def cINTERRUPT : Byte := 0x20
def cWATCHDOG : Byte := 0x21

/-- ILLEGAL_INSN with its instruction word. -/
def tIllegal (w : BitVec 32) : Trap := ⟨cILLEGAL, w.setWidth 64, 0⟩

/-- PRIV_INSN with its instruction word. -/
def tPriv (w : BitVec 32) : Trap := ⟨cPRIV, w.setWidth 64, 0⟩

/-- What a core reports to other units while it executes: a census count (of a tile or a vector site; no slot:
unenrolled), an accumulator mark, or a parity detection with its DETAIL. -/
inductive CoreEv where
  | count (tile : Bool) (slot : Option Nat) (n : Counts)
  | report (acc : Nat) (mark : AccMark)
  | parity (detail : BitVec 32)
  deriving DecidableEq, Repr

/-- How an instruction ends on its core: it completes without transferring control, it transfers control, it traps (the
core then carries what R113, R142 let it keep), or it waits at issue for queued tile instructions with no effect yet (R147,
R148, R149). -/
inductive CoreRes where
  | done (c : Core) (ev : List CoreEv)
  | jump (c : Core) (pc : Word)
  | trap (c : Core) (t : Trap)
  | hold
  deriving DecidableEq, Repr

/-- Complete. -/
def ok (c : Core) : CoreRes := .done c []

/-- CFLAGS bits (Table 4.15). -/
def fQSAT : BitVec 4 := 8
def fSOVF : BitVec 4 := 4
def fNF : BitVec 4 := 2
def fOVF : BitVec 4 := 1

/-- Set sticky flags. -/
def setFlags (c : Core) (f : BitVec 4) : Core := { c with cr := { c.cr with cflags := c.cr.cflags ||| f } }

/-- A flag value when a condition holds. -/
def flagIf (b : Bool) (f : BitVec 4) : BitVec 4 := if b then f else 0

/-- TRAPEN of a level (R90). -/
def trapen (c : Core) : Level → Word
  | .u => c.tc.trapenU
  | .s => c.tc.trapenS
  | .f => c.tc.trapenF

/-- Is bit `i` of the current level's TRAPEN set? 0 DZ, 1 IOV, 2 QOV, 3 FOV (Table 5.4). -/
def enabled (c : Core) (i : Nat) : Bool := bitAt (trapen c c.level) i

/-- Trap registers of S or F; U has none and reads those of S. -/
def tregs (c : Core) : Level → TrapRegs
  | .f => c.tf
  | _ => c.ts

/-- Replace the trap registers of S or F. -/
def setTregs (c : Core) (l : Level) (t : TrapRegs) : Core :=
  match l with
  | .f => { c with tf := t }
  | _ => { c with ts := t }

/-- SAVEMODE: true is SAVESET (Table 4.10). -/
def saveset (c : Core) : Bool := bitAt c.cr.coreCfg 1

/-- IE, PIE, IH, PLVL, PBANK, XSP of STATUS (Table 5.2). -/
def stIE (t : TrapRegs) : Bool := bitAt t.status 0
def stPIE (t : TrapRegs) : Bool := bitAt t.status 1
def stIH (t : TrapRegs) : Bool := bitAt t.status 2
def stPLVL (t : TrapRegs) : Level := Level.ofNum (field t.status 7 2)
def stPBANK (t : TrapRegs) : Level := Level.ofNum (field t.status 9 2)
def stXSP (t : TrapRegs) : Bool := bitAt t.status 11

/-- Set or clear bit `i` of a word. -/
def setBit (w : Word) (i : Nat) (b : Bool) : Word := (w &&& ~~~(ones i 1)) ||| place (b2n b) i 1

/-- The bank that L.STATUS.PBANK names: it reads 0 under SAVESET (Table 5.2). -/
def pbank (c : Core) (l : Level) : Level := if saveset c then .u else stPBANK (tregs c l)

/-- WDCNT: always-on ticks since the last kick or expiry while EN = 1 (R104). -/
def wdcnt (x : Ctx) (c : Core) : Nat := (if bitAt c.tc.wdctl 0 then x.now - c.tc.wdBase else c.tc.wdBase).toNat

/-- IP: sources 0 and 3 are levels, the others sticky (Table 5.8, R101). -/
def ipOf (x : Ctx) (c : Core) : BitVec 6 :=
  (c.tc.ip &&& 0x36) ||| (if c.tc.hrnReq then 1 else 0) ||| (if c.tc.ctcmp.toNat ≤ x.cycle then 8 else 0)

/-- CORE_ID (Table 4.12). -/
def coreIdReg (x : Ctx) (c : Core) : Word :=
  place x.devid 48 14 ||| place c.cr.engmask.toNat 32 4 ||| place x.part 16 5 ||| place x.core 0 7

/-- DEVINFO (Table 4.13). -/
def devinfoReg : Word := place 0x0C03 16 16 ||| place Config.stepping.toNat 8 8 ||| place Config.minor.toNat 0 8

/-- TCFGn as read: the written fields and ELCOLS, ELROWS (Table 7.1). -/
def tcfgReg (x : Ctx) (c : Core) (n : Nat) : Word :=
  let s := tshape x c n
  tcfg c n ||| place s.nc 55 9 ||| place s.nr 46 9

/-- A control register's number and whether each level may read and write it. `w1c` marks a register with a W1C field. -/
structure CrInfo where
  rd  : Option Level
  wr  : Option Level
  w1c : Bool := false
  deriving DecidableEq, Repr

/-- Tables 4.8, 5.1 and 6.2: the lowest level that may read and that may write; none for an unassigned number. A
register that no level may write, or whose fields are all RO, has no write level. -/
def crInfo (n : Nat) : Option CrInfo :=
  if n ≤ 0x004 then some ⟨some .u, none, false⟩
  else if 0x010 ≤ n ∧ n ≤ 0x013 then some ⟨some .u, some .u, false⟩
  else if n = 0x014 then some ⟨some .u, some .u, true⟩
  else if n = 0x020 then some ⟨some .u, some .u, false⟩
  else if n = 0x021 then some ⟨some .u, none, false⟩
  else if 0x022 ≤ n ∧ n ≤ 0x024 then some ⟨some .u, some .u, false⟩
  else if 0x030 ≤ n ∧ n ≤ 0x040 then some ⟨some .u, some .u, false⟩
  else if 0x050 ≤ n ∧ n ≤ 0x055 then some ⟨some .u, some .u, false⟩
  else if n = 0x060 then some ⟨some .s, some .s, false⟩
  else if n = 0x070 then some ⟨some .u, some .s, false⟩
  else if n = 0x080 then some ⟨some .u, some .u, true⟩
  else if n = 0x100 then some ⟨some .u, some .u, false⟩
  else if n = 0x101 then some ⟨some .s, some .s, false⟩
  else if n = 0x102 then some ⟨some .f, some .f, false⟩
  else if 0x110 ≤ n ∧ n ≤ 0x11B then some ⟨some .s, some .s, false⟩
  else if 0x120 ≤ n ∧ n ≤ 0x12B then some ⟨some .f, some .f, false⟩
  else if n = 0x130 ∨ n = 0x131 then some ⟨some .s, some .s, false⟩
  else if n = 0x132 ∨ n = 0x133 then some ⟨some .s, some .f, false⟩
  else if n = 0x138 then some ⟨some .f, some .f, false⟩
  else if n = 0x139 then some ⟨some .s, some .f, false⟩
  else if n = 0x13A then some ⟨some .s, some .s, true⟩
  else if n = 0x13B then some ⟨some .s, some .s, false⟩
  else if n = 0x13C then some ⟨some .f, some .f, false⟩
  else if n = 0x13D then some ⟨some .s, some .s, false⟩
  else if n = 0x140 then some ⟨some .s, some .s, false⟩
  else if n = 0x141 then some ⟨none, some .s, false⟩
  else if n = 0x142 then some ⟨some .s, none, false⟩
  else if 0x1E0 ≤ n ∧ n ≤ 0x1FF then some ⟨some .s, some .s, false⟩
  else if n = 0x200 then some ⟨some .f, some .f, false⟩
  else none

/-- May level `l` use a column whose lowest level is `o`? -/
def mayUse (l : Level) (o : Option Level) : Bool :=
  match o with
  | none => false
  | some m => decide (m.num ≤ l.num)

/-- L.STATUS as read. -/
def statusReg (c : Core) (t : TrapRegs) : Word := if saveset c then t.status &&& ~~~(ones 9 2) else t.status

/-- Trap register number `n` of Table 5.2, 0 EPC to 0xB GLOOP. -/
def tregRead (c : Core) (t : TrapRegs) (n : Nat) : Word :=
  match n with
  | 0 => t.epc | 1 => statusReg c t | 2 => t.cause | 3 => t.addr | 4 => t.sp | 5 => t.vstart | 6 => t.tprog
  | 7 => t.loop | 8 => t.gpc | 9 => t.gstatus | 10 => t.gsp | _ => t.gloop

/-- Write trap register number `n`: RsvZ bits ignore the write (R4). -/
def tregWrite (t : TrapRegs) (n : Nat) (v : Word) : TrapRegs :=
  match n with
  | 0 => { t with epc := v &&& ~~~3#64 }
  | 1 => { t with status := v &&& 0xF87#64 }
  | 2 => { t with cause := v &&& 0xFFFFFFFF000000FF#64 }
  | 3 => { t with addr := v }
  | 4 => { t with sp := v }
  | 5 => { t with vstart := v }
  | 6 => { t with tprog := v }
  | 7 => { t with loop := v }
  | 8 => { t with gpc := v &&& ~~~3#64 }
  | 9 => { t with gstatus := v &&& 0xD#64 }
  | 10 => { t with gsp := v }
  | _ => { t with gloop := v }

/-- Read control register `n`, which the level may read. -/
def crRead (x : Ctx) (c : Core) (n : Nat) : Word :=
  if n = 0x000 then BitVec.ofNat 64 x.cycle
  else if n = 0x001 then coreIdReg x c
  else if n = 0x002 then devinfoReg
  else if n = 0x003 then c.cr.stepno
  else if n = 0x004 then c.cr.seed
  else if n = 0x010 then c.cr.srtag
  else if n = 0x011 then c.cr.srbase
  else if n = 0x012 then c.cr.srstride
  else if n = 0x013 then c.cr.skcfg
  else if n = 0x014 then c.cr.cflags.setWidth 64
  else if n = 0x020 then c.vec.vshape
  else if n = 0x021 then c.vec.vcnt
  else if n = 0x022 then c.vec.vstart
  else if n = 0x023 then c.vec.vxrm
  else if n = 0x024 then c.vec.vcens
  else if 0x030 ≤ n ∧ n ≤ 0x03F then tcfgReg x c (n - 0x030)
  else if n = 0x040 then c.tile.tprog
  else if n = 0x050 then c.lp.lc0
  else if n = 0x051 then c.lp.ls0
  else if n = 0x052 then c.lp.le0
  else if n = 0x053 then c.lp.lc1
  else if n = 0x054 then c.lp.ls1
  else if n = 0x055 then c.lp.le1
  else if n = 0x060 then c.cr.asctl
  else if n = 0x070 then c.cr.lbcfg
  else if n = 0x080 then place x.armed.toNat 4 4 ||| c.cr.fired.setWidth 64
  else if n = 0x100 then trapen c c.level
  else if n = 0x101 then c.ts.vec
  else if n = 0x102 then c.tf.vec
  else if 0x110 ≤ n ∧ n ≤ 0x11B then tregRead c c.ts (n - 0x110)
  else if 0x120 ≤ n ∧ n ≤ 0x12B then tregRead c c.tf (n - 0x120)
  else if n = 0x130 then c.tc.gtbU
  else if n = 0x131 then c.tc.gtnU
  else if n = 0x132 then c.tc.gtbS
  else if n = 0x133 then c.tc.gtnS
  else if n = 0x138 then c.tc.route
  else if n = 0x139 then c.tc.iroute
  else if n = 0x13A then (ipOf x c).setWidth 64
  else if n = 0x13B then c.tc.imaskS
  else if n = 0x13C then c.tc.imaskF
  else if n = 0x13D then c.tc.ctcmp
  else if n = 0x140 then c.tc.wdctl
  else if n = 0x142 then BitVec.ofNat 64 (wdcnt x c % 2 ^ 32)
  else if 0x1E0 ≤ n ∧ n ≤ 0x1FF then bget c (pbank c c.level) (n - 0x1E0)
  else if n = 0x200 then c.cr.coreCfg
  else 0

/-- Does ASID `a` belong to partition `p` (R25)? -/
def asidOk (p a : Nat) : Bool := decide (a / 2048 = p)

/-- Is the FMT and SMODE pair of a TCFG value allowed (Table 7.2), with no RsvZ bit set? ELCOLS and ELROWS are RO. -/
def tcfgOk (v : Word) : Bool :=
  let f := field v 16 4
  let m := field v 14 2
  decide (v &&& 0x3000FFF01E00#64 = 0#64) && decide (4 ≤ f) && decide (f ≤ 10) &&
    (if f = 4 ∨ f = 5 ∨ f = 8 then decide (1 ≤ m) else if f = 6 ∨ f = 7 then decide (m = 1 ∨ m = 2) else decide (m = 0))

/-- Change WDCTL; a change of EN keeps the count (R104). -/
def setWdctl (x : Ctx) (c : Core) (v : Word) : Core :=
  let n := wdcnt x c
  { c with tc := { c.tc with wdctl := v &&& 0xFFFF0003#64,
                             wdBase := if bitAt v 0 then x.now - n else n } }

/-- Set WDCNT to 0. -/
def kick (x : Ctx) (c : Core) : Core :=
  { c with tc := { c.tc with wdBase := if bitAt c.tc.wdctl 0 then x.now else 0 } }

/-- Replace a loop register. -/
def setLoop (c : Core) (n : Nat) (v : Word) : Core :=
  let a := v &&& ~~~3#64
  let k := v &&& 0xFFFFFFFF#64
  match n with
  | 0 => { c with lp := { c.lp with lc0 := k } }
  | 1 => { c with lp := { c.lp with ls0 := a } }
  | 2 => { c with lp := { c.lp with le0 := a } }
  | 3 => { c with lp := { c.lp with lc1 := k } }
  | 4 => { c with lp := { c.lp with ls1 := a } }
  | _ => { c with lp := { c.lp with le1 := a } }

/-- Write control register `n`, which the level may write; `w` is the instruction word that a trap records. The wait
of a TCFG write and the effects of LBCFG on the caches stand with the instruction. A TCFG write is a tile instruction: while a
row-by-row instruction is to resume it raises ILLEGAL_INSN (R143). -/
def crWrite (x : Ctx) (w : BitVec 32) (c : Core) (n : Nat) (v : Word) : Except Trap Core :=
  if n = 0x010 then .ok { c with cr := { c.cr with srtag := v &&& 0xFFFFFFFF#64 } }
  else if n = 0x011 then .ok { c with cr := { c.cr with srbase := v &&& 0xFFFFFFFFFFFF#64 } }
  else if n = 0x012 then .ok { c with cr := { c.cr with srstride := v &&& 0xFFFFFFFF#64 } }
  else if n = 0x013 then .ok { c with cr := { c.cr with skcfg := v &&& 0xFF1F1F1F#64 } }
  else if n = 0x014 then .ok { c with cr := { c.cr with cflags := c.cr.cflags &&& ~~~(v.setWidth 4) } }
  else if n = 0x020 then
    if 10 < field v 4 4 ∨ 4 < field v 0 3 then .error (tIllegal w)
    else
      let c := { c with vec := { c.vec with vshape := v &&& 0xF7#64 } }
      .ok { c with vec := { c.vec with vcnt := BitVec.ofNat 64 (min (vCnt c) (vCap x c)) } }
  else if n = 0x022 then .ok { c with vec := { c.vec with vstart := v &&& 0x3FF#64 } }
  else if n = 0x023 then .ok { c with vec := { c.vec with vxrm := v &&& 3#64 } }
  else if n = 0x024 then .ok { c with vec := { c.vec with vcens := v &&& 0x83FF#64 } }
  else if 0x030 ≤ n ∧ n ≤ 0x03F then
    if tcfgOk v ∧ !bitAt c.tile.tprog 15 then
      let i := n - 0x030
      let keep := c.tile.latch.filter (fun e => !decide (e.2.map (·.tile) = some i))
      .ok { c with tile := { c.tile with cfg := tset 0x901FF c.tile.cfg i (v &&& 0xFFF000FE1FF#64), latch := keep } }
    else .error (tIllegal w)
  else if n = 0x040 then .ok { c with tile := { c.tile with tprog := v &&& 0xFC3F#64 } }
  else if 0x050 ≤ n ∧ n ≤ 0x055 then .ok (setLoop c (n - 0x050) v)
  else if n = 0x060 then
    let v := v &&& 0xFFFFFFFFFFFFF000#64
    if asidOk x.part (field v 48 16) then .ok { c with cr := { c.cr with asctl := v } }
    else .error ⟨cACCESS, v, 4⟩
  else if n = 0x070 then
    if field v 0 2 = 0 then .error (tIllegal w) else .ok { c with cr := { c.cr with lbcfg := v &&& 3#64 } }
  else if n = 0x080 then .ok { c with cr := { c.cr with fired := c.cr.fired &&& ~~~(v.setWidth 4) } }
  else if n = 0x100 then
    let v := v &&& 0xF#64
    match c.level with
    | .u => .ok { c with tc := { c.tc with trapenU := v } }
    | .s => .ok { c with tc := { c.tc with trapenS := v } }
    | .f => .ok { c with tc := { c.tc with trapenF := v } }
  else if n = 0x101 then .ok { c with ts := { c.ts with vec := v &&& ~~~3#64 } }
  else if n = 0x102 then .ok { c with tf := { c.tf with vec := v &&& ~~~3#64 } }
  else if 0x110 ≤ n ∧ n ≤ 0x11B then
    if n = 0x111 ∧ (2 ≤ field v 7 2 ∨ 2 ≤ field v 9 2) then .error (tIllegal w)
    else .ok { c with ts := tregWrite c.ts (n - 0x110) v }
  else if 0x120 ≤ n ∧ n ≤ 0x12B then
    if n = 0x121 ∧ (field v 7 2 = 3 ∨ field v 9 2 = 3) then .error (tIllegal w)
    else .ok { c with tf := tregWrite c.tf (n - 0x120) v }
  else if n = 0x130 then .ok { c with tc := { c.tc with gtbU := v &&& 0xFFFFFFFFFFE0#64 } }
  else if n = 0x131 then .ok { c with tc := { c.tc with gtnU := v &&& 0x7FF#64 } }
  else if n = 0x132 then .ok { c with tc := { c.tc with gtbS := v &&& 0xFFFFFFFFFFE0#64 } }
  else if n = 0x133 then .ok { c with tc := { c.tc with gtnS := v &&& 0x7FF#64 } }
  else if n = 0x138 then .ok { c with tc := { c.tc with route := v } }
  else if n = 0x139 then .ok { c with tc := { c.tc with iroute := v &&& 0x3F#64 } }
  else if n = 0x13A then .ok { c with tc := { c.tc with ip := c.tc.ip &&& ~~~(v.setWidth 6) } }
  else if n = 0x13B then .ok { c with tc := { c.tc with imaskS := v &&& 0x3F#64 } }
  else if n = 0x13C then .ok { c with tc := { c.tc with imaskF := v &&& 0x3F#64 } }
  else if n = 0x13D then .ok { c with tc := { c.tc with ctcmp := v } }
  else if n = 0x140 then
    if c.level = .s ∧ bitAt v 1 ≠ bitAt c.tc.wdctl 1 then .error (tPriv w) else .ok (setWdctl x c v)
  else if n = 0x141 then .ok (kick x c)
  else if 0x1E0 ≤ n ∧ n ≤ 0x1FF then .ok (bset c (pbank c c.level) (n - 0x1E0) v)
  else if n = 0x200 then
    if bitAt v 1 = saveset c then .ok { c with cr := { c.cr with coreCfg := v &&& 3#64 } }
    else if c.level ≠ .f ∨ stIH c.ts ∨ stIH c.tf ∨ bitAt c.ts.gstatus 0 ∨ bitAt c.tf.gstatus 0 then
      .error (tIllegal w)
    else .ok { c with cr := { c.cr with coreCfg := v &&& 3#64 }, bank := if bitAt v 1 then .u else .f }
  else .ok c

/-- The checks of R74 in order; none when the access is allowed. `rd` and `wr` say what the access does, `bits` that
it is a CRBSET or CRBCLR. -/
def crCheck (w : BitVec 32) (c : Core) (n : Nat) (rd wr bits : Bool) : Option Trap :=
  match crInfo n with
  | none => some (tIllegal w)
  | some i =>
    if wr && i.wr.isNone then some (tIllegal w)
    else if bits && i.w1c then some (tIllegal w)
    else if (rd && !mayUse c.level i.rd) || (wr && !mayUse c.level i.wr) then some (tPriv w)
    else none

end Sys2Proof.Machine
end

