-- ==== Sys2Proof/Machine/TrapOps.lean ====
section
/-! DEFINITION. Taking a trap and returning from one (R82 to R87, R91, R92), gate entry and return (R97, R99), and the
loop-back of R73: one shared operation each. -/

namespace Sys2Proof.Machine

/-- Exchange x2 with L.SP (R84, R87). -/
def swapSp (c : Core) (l : Level) : Core :=
  let t := tregs c l
  setTregs (bset c c.bank 2 t.sp) l { t with sp := bget c c.bank 2 }

/-- Trap entry to level `l` with EPC `epc` (R83, R84). -/
def enterTrap (c : Core) (l : Level) (epc : Word) (t : Trap) : Core :=
  let r := tregs c l
  let st : Word := place c.level.num 7 2 ||| place c.bank.num 9 2 ||| place (b2n (stIE r)) 1 1 ||| 4#64
  let exch := saveset c || decide (c.bank = l)
  let r := { r with
    epc := epc, cause := place t.detail.toNat 32 32 ||| t.code.setWidth 64, addr := t.addr,
    status := setBit st 11 exch, vstart := c.vec.vstart, tprog := c.tile.tprog,
    loop := place (field c.lp.lc1 0 32) 32 32 ||| place (field c.lp.lc0 0 32) 0 32 }
  let vec := r.vec
  let c := setTregs c l r
  let c := if exch then swapSp c l else { c with bank := l }
  { c with
    vec := { c.vec with vstart := 0 }, tile := { c.tile with tprog := 0 }, lp := { c.lp with lc0 := 0, lc1 := 0 },
    level := l, pc := vec }

/-- The level that a trap with cause `code` goes to (R82). -/
def trapTarget (c : Core) (code : Byte) : Level :=
  if c.level = .f ∨ code = cDOUBLE_FAULT then .f
  else if bitAt c.tc.route code.toNat then .f else .s

/-- A core after a trap was raised: it entered a handler, or it wedged with the cause it would have taken. -/
inductive Taken where
  | entered (c : Core)
  | wedged (c : Core)
  deriving DecidableEq, Repr

/-- Raise trap `t` with target `l`, escalating as R91 says. -/
def raiseAt (c : Core) (l : Level) (epc : Word) (t : Trap) : Taken :=
  if stIH (tregs c l) then
    match l with
    | .f => .wedged { c with run := .wedged t }
    | _ =>
      let d : Trap := ⟨cDOUBLE_FAULT, t.addr, BitVec.ofNat 32 (t.code.toNat + l.num * 256)⟩
      if stIH c.tf then .wedged { c with run := .wedged d } else .entered (enterTrap c .f epc d)
  else .entered (enterTrap c l epc t)

/-- Raise a synchronous trap: EPC is the trapping instruction's address (R89). -/
def raise (c : Core) (t : Trap) : Taken := raiseAt c (trapTarget c t.code) c.pc t

/-- TRET at level S or F (R87). -/
def doTret (c : Core) : Core :=
  let l := c.level
  let c := if stXSP (tregs c l) then swapSp c l else c
  let t := tregs c l
  let b := pbank c l
  let st := setBit (setBit t.status 0 (stPIE t)) 2 false
  let c := setTregs c l { t with status := st }
  { c with
    vec := { c.vec with vstart := t.vstart &&& 0x3FF#64 }, tile := { c.tile with tprog := t.tprog &&& 0xFC3F#64 },
    lp := { c.lp with lc0 := place (field t.loop 0 32) 0 32, lc1 := place (field t.loop 32 32) 0 32 },
    bank := b, level := stPLVL t, pc := t.epc }

/-- The entry of R97 through a descriptor with STACK `sp` and ENTRY `entry`, to level `l`. -/
def enterGate (c : Core) (l : Level) (sp entry : Word) : Core :=
  let t := tregs c l
  let t := { t with
    gpc := c.pc, gstatus := place c.level.num 2 2 ||| 1#64, gsp := bget c c.bank 2,
    gloop := place (field c.lp.lc1 0 32) 32 32 ||| place (field c.lp.lc0 0 32) 0 32 }
  let c := setTregs c l t
  let c := { c with lp := { c.lp with lc0 := 0, lc1 := 0 } }
  let c := if sp = 0 then c else bset c c.bank 2 sp
  { c with level := l, pc := entry }

/-- What follows an instruction at address `a` that completed without transferring control: PC + 4, or the loop-back
of R73. -/
def loopBack (c : Core) (a : Word) : Core :=
  let outer (c : Core) : Core :=
    if c.lp.lc0 ≠ 0 ∧ a = c.lp.le0 then
      let n := c.lp.lc0 - 1
      { c with lp := { c.lp with lc0 := n }, pc := if n ≠ 0 then c.lp.ls0 else a + 4 }
    else { c with pc := a + 4 }
  if c.lp.lc1 ≠ 0 ∧ a = c.lp.le1 then
    let n := c.lp.lc1 - 1
    let c := { c with lp := { c.lp with lc1 := n } }
    if n ≠ 0 then { c with pc := c.lp.ls1 } else outer c
  else outer c

/-- GRET at level `l` with GA = 1 (R99): restores and continues as though the GATE had completed. -/
def doGret (c : Core) : Core :=
  let l := c.level
  let t := tregs c l
  let c := setTregs c l { t with gstatus := setBit t.gstatus 0 false }
  let c := bset c c.bank 2 t.gsp
  let lp := { c.lp with lc0 := place (field t.gloop 0 32) 0 32, lc1 := place (field t.gloop 32 32) 0 32 }
  let c := { c with lp := lp, level := Level.ofNum (field t.gstatus 2 2) }
  loopBack c t.gpc

end Sys2Proof.Machine
end

