-- ==== Sys2Proof/Machine/ScalarOps.lean ====
section
/-! DEFINITION. The bodies of the scalar instructions (R65 to R73): what each computes on its core, before the
loop-back of R73. -/

namespace Sys2Proof.Machine

/-- Write `rd` and complete. -/
def putReg (c : Core) (rd : Reg) (v : Word) : CoreRes := ok (xset c rd v)

/-- ADD to SRA (Table 4.4); an unassigned word computes nothing (R66). -/
def aluVal (op : AluOp) (a b : Word) : Word :=
  match op with
  | .add => a + b
  | .sub => a - b
  | .and => a &&& b
  | .or => a ||| b
  | .xor => a ^^^ b
  | .sll => a <<< (b.toNat % 64)
  | .srl => a >>> (b.toNat % 64)
  | .sra => a.sshiftRight (b.toNat % 64)
  | .unassigned _ => 0

/-- ADD to SRA. -/
def bAlu (w : BitVec 32) (op : AluOp) (rd rs1 rs2 : Reg) (c : Core) : CoreRes :=
  match op with
  | .unassigned _ => .trap c (tIllegal w)
  | op => putReg c rd (aluVal op (xget c rs1) (xget c rs2))

/-- SLT, SLTU. -/
def bSlt (uns : Bool) (rd rs1 rs2 : Reg) (c : Core) : CoreRes :=
  let a := xget c rs1
  let b := xget c rs2
  putReg c rd (if (if uns then a.ult b else a.slt b) then 1 else 0)

/-- MIN to MAXU. -/
def minMaxVal (op : MinMaxOp) (a b : Word) : Word :=
  match op with
  | .min => if a.slt b then a else b
  | .max => if a.slt b then b else a
  | .minu => if a.ult b then a else b
  | .maxu => if a.ult b then b else a

/-- ADDO, SUBO: the exact signed result (R68). -/
def addoExact (sub : Bool) (a b : Word) : Int := if sub then a.toInt - b.toInt else a.toInt + b.toInt

/-- Does an exact signed result lie outside 64 bits? -/
def overflows (x : Int) : Bool := decide (x < -(2 ^ 63)) || decide (2 ^ 63 ≤ x)

/-- Write an exact result modulo 2^64, or raise INT_OVERFLOW where IOV allows (R68, R90). -/
def bOvf (rd : Reg) (x : Int) (c : Core) : CoreRes :=
  if overflows x && enabled c 1 then .trap c ⟨cINT_OVERFLOW, 0, 0⟩ else putReg c rd (BitVec.ofInt 64 x)

/-- Leading zeros of a word, 64 for 0. -/
def clz (a : Word) : Nat := if a = 0 then 64 else 63 - Nat.log2 a.toNat

/-- Trailing zeros of a word, 64 for 0. -/
def ctz (a : Word) : Nat := ((List.range 64).find? (fun i => bitAt a i)).getD 64

/-- Set bits of a word. -/
def popc {w : Nat} (a : BitVec w) : Nat := ((List.range w).filter (fun i => bitAt a i)).length

/-- CLZ, CTZ, POPC. -/
def countVal (op : CountOp) (a : Word) : Word :=
  BitVec.ofNat 64 (match op with | .clz => clz a | .ctz => ctz a | .popc => popc a)

/-- SEXT.W, ZEXT.W. -/
def extW (zero : Bool) (a : Word) : Word :=
  if zero then (a.setWidth 32).setWidth 64 else (a.setWidth 32).signExtend 64

/-- ADDI to SLTIU. -/
def immVal (op : ImmOp) (a : Word) (imm : BitVec 16) : Word :=
  let b : Word := imm.signExtend 64
  match op with
  | .addi => a + b
  | .andi => a &&& b
  | .ori => a ||| b
  | .xori => a ^^^ b
  | .slti => if a.slt b then 1 else 0
  | .sltiu => if a.ult b then 1 else 0

/-- SHI: kind 3 is reserved (Table 4.2 text). -/
def bShi (w : BitVec 32) (kind : BitVec 2) (amount : BitVec 6) (rd rs1 : Reg) (c : Core) : CoreRes :=
  let a := xget c rs1
  match kind.toNat with
  | 0 => putReg c rd (a <<< amount.toNat)
  | 1 => putReg c rd (a >>> amount.toNat)
  | 2 => putReg c rd (a.sshiftRight amount.toNat)
  | _ => .trap c (tIllegal w)

/-- LSI. -/
def lsiVal (a : Word) (imm : BitVec 16) : Word := (a <<< 16) ||| imm.setWidth 64

/-- MUL, MULH, MULHU. -/
def mulVal (op : MulOp) (a b : Word) : Word :=
  match op with
  | .mul => a * b
  | .mulh => BitVec.ofInt 64 (a.toInt * b.toInt / 2 ^ 64)
  | .mulhu => BitVec.ofNat 64 (a.toNat * b.toNat / 2 ^ 64)

/-- DIV, DIVU, REM, REMU where no trap is raised (R67, R68). -/
def divVal (op : DivOp) (a b : Word) : Word :=
  match op with
  | .div => if b = 0 then BitVec.allOnes 64 else BitVec.ofInt 64 (a.toInt.tdiv b.toInt)
  | .divu => if b = 0 then BitVec.allOnes 64 else BitVec.ofNat 64 (a.toNat / b.toNat)
  | .rem => if b = 0 then a else BitVec.ofInt 64 (a.toInt.tmod b.toInt)
  | .remu => if b = 0 then a else BitVec.ofNat 64 (a.toNat % b.toNat)

/-- DIV to REMU: DIV_ZERO where DZ allows, INT_OVERFLOW of DIV where IOV allows. -/
def bDiv (op : DivOp) (rd rs1 rs2 : Reg) (c : Core) : CoreRes :=
  let a := xget c rs1
  let b := xget c rs2
  if b = 0 ∧ enabled c 0 then .trap c ⟨cDIV_ZERO, 0, 0⟩
  else if op = .div ∧ a = BitVec.intMin 64 ∧ b = BitVec.allOnes 64 ∧ enabled c 1 then .trap c ⟨cINT_OVERFLOW, 0, 0⟩
  else putReg c rd (divVal op a b)

/-- BEQ to BGEU; none for the reserved codes 6 and 7. -/
def branchTaken (cond : Nat) (a b : Word) : Option Bool :=
  match cond with
  | 0 => some (decide (a = b))
  | 1 => some (decide (a ≠ b))
  | 2 => some (a.slt b)
  | 3 => some (!a.slt b)
  | 4 => some (a.ult b)
  | 5 => some (!a.ult b)
  | _ => none

/-- Conditional branches: a branch not taken completes without transferring control. -/
def bBranch (w : BitVec 32) (cond : BitVec 3) (rs1 rs2 : Reg) (woff : BitVec 13) (c : Core) : CoreRes :=
  match branchTaken cond.toNat (xget c rs1) (xget c rs2) with
  | none => .trap c (tIllegal w)
  | some true => .jump c (c.pc + 4 * woff.signExtend 64)
  | some false => ok c

/-- JAL. -/
def bJal (rd : Reg) (woff : BitVec 21) (c : Core) : CoreRes :=
  .jump (xset c rd (c.pc + 4)) (c.pc + 4 * woff.signExtend 64)

/-- JALR: a target with bit 1 or bit 0 set raises MISALIGNED (R69). -/
def bJalr (rd rs1 : Reg) (imm : BitVec 16) (c : Core) : CoreRes :=
  let t := xget c rs1 + imm.signExtend 64
  if t &&& 3 ≠ 0 then .trap c ⟨cMISALIGNED, t, 0⟩ else .jump (xset c rd (c.pc + 4)) t

/-- LOOP: arms level L, or skips the body when the count is zero (R73). -/
def bLoop (w : BitVec 32) (level : Fin 2) (rs1 : Reg) (lenM1 : BitVec 10) (c : Core) : CoreRes :=
  let lc := if level.val = 0 then c.lp.lc0 else c.lp.lc1
  if lc ≠ 0 then .trap c (tIllegal w)
  else
    let k := xget c rs1 &&& 0xFFFFFFFF#64
    let ls := c.pc + 4
    let le := c.pc + 4 * (lenM1.setWidth 64 + 1)
    let lp := if level.val = 0 then { c.lp with lc0 := k, ls0 := ls, le0 := le }
      else { c.lp with lc1 := k, ls1 := ls, le1 := le }
    let c := { c with lp := lp }
    if k = 0 then .jump c (le + 4) else ok c

/-- LOOP.X: disarms level L. -/
def bLoopX (level : Fin 2) (c : Core) : CoreRes :=
  ok { c with lp := if level.val = 0 then { c.lp with lc0 := 0 } else { c.lp with lc1 := 0 } }

/-- The 16-bit format a scalar floating instruction selects (Table 4.7). -/
def sFmt (fp16 : Bool) : Fmt := if fp16 then .fp16 else .bf16

/-- The value of a source: bits 15:0 of a register (R65). -/
def fsrc (c : Core) (fp16 : Bool) (r : Reg) : Val := decodeElem (sFmt fp16) ((xget c r).toNat % 65536)

/-- Round a scalar result to nearest-even and write it, or raise the trap `code` where `TRAPEN` bit `en` allows: an
overflow saturates and sets SOVF (R72). -/
def fput (fp16 : Bool) (rd : Reg) (v : Val) (c : Core) : CoreRes :=
  match v with
  | .nan => putReg c rd (BitVec.ofNat 64 (sFmt fp16).canonNaN)
  | v =>
    let (code, o) := roundTo (sFmt fp16) .even v
    if o && enabled c 3 then .trap c ⟨cFP_OVERFLOW, 0, 0⟩
    else putReg (setFlags c (flagIf o fSOVF)) rd (BitVec.ofNat 64 code)

/-- Exact FADD, FSUB, FMUL. -/
def faVal (op : FArith) (a b : Val) : Val :=
  match op with
  | .fadd => a.add b
  | .fsub => a.add b.negate
  | .fmul => a.mul b

/-- The lesser or greater value, −0 below +0; NaN if either is (R72). -/
def fMinMaxVal (mx : Bool) (a b : Val) : Val :=
  if a.isNum && b.isNum then
    let less := a.lt b || (a.eqv b && a.neg? && !b.neg?)
    if less = mx then b else a
  else .nan

/-- FCMP: false if either is NaN. -/
def fCmpVal (op : FCmpOp) (a b : Val) : Bool :=
  a.isNum && b.isNum &&
    (match op with
     | .eq => a.eqv b
     | .lt => a.lt b
     | .le => a.lt b || a.eqv b)

/-- The exact value of a signed integer. -/
def intVal (i : Int) : Val := .num (decide (i < 0)) i.natAbs 0

/-- Toward zero to a signed `w`-bit integer, saturating: the value and whether it saturated; a NaN gives 0. -/
def toIntSat (w : Nat) (v : Val) : Int × Bool :=
  match v with
  | .nan => (0, false)
  | .num neg m e =>
    let q : Nat := if 0 ≤ e then m * 2 ^ e.toNat else m / 2 ^ (-e).toNat
    let i : Int := if neg then -(q : Int) else q
    let lo : Int := -(2 ^ (w - 1))
    let hi : Int := 2 ^ (w - 1) - 1
    if i < lo then (lo, true) else if hi < i then (hi, true) else (i, false)

/-- FDIV: 0 / 0 is invalid; a finite nonzero value by zero saturates with SOVF, or raises DIV_ZERO where DZ allows
(R72). -/
def bFdiv (fp16 : Bool) (rd rs1 rs2 : Reg) (c : Core) : CoreRes :=
  let a := fsrc c fp16 rs1
  let b := fsrc c fp16 rs2
  if a.isNum && b.isZero && !a.isZero then
    if enabled c 0 then .trap c ⟨cDIV_ZERO, 0, 1⟩
    else
      let f := sFmt fp16
      let s := if a.neg? != b.neg? then 2 ^ (f.bits - 1) else 0
      putReg (setFlags c fSOVF) rd (BitVec.ofNat 64 (f.maxCode + s))
  else fput fp16 rd (a.div b) c

end Sys2Proof.Machine
end

