-- ==== Sys2Proof/Machine/VectorOps.lean ====
section
/-! DEFINITION. The bodies of the vector instructions that touch no memory (R109 to R123), and what one census count
records of a conversion (R187). -/

namespace Sys2Proof.Machine

/-- Every vector instruction that completes sets VSTART to 0, but for those that ignore it (R112). -/
def vDone (c : Core) : Core := { c with vec := { c.vec with vstart := 0 } }

/-- Write elements (index, value) of width `w` of the group at `vd`, and complete. -/
def vWrite (c : Core) (vd w : Nat) (l : List (Nat × Nat)) : Core :=
  { c with vec := { c.vec with v := vPuts c.vec.v vd w l } }

/-- VADD to VMAXU on `w`-bit codes (R115). -/
def valuVal (op : VAluOp) (w a b : Nat) : Nat :=
  let s := b % w
  match op with
  | .add => a + b
  | .sub => a + 2 ^ w - b
  | .and => a &&& b
  | .or => a ||| b
  | .xor => a ^^^ b
  | .sll => a * 2 ^ s
  | .srl => a / 2 ^ s
  | .sra => unsgn w (sgn w a / 2 ^ s)
  | .min => if sgn w a < sgn w b then a else b
  | .max => if sgn w a < sgn w b then b else a
  | .minu => min a b
  | .maxu => max a b

/-- VMUL, VMULH, VMULHU on `w`-bit codes (R115). -/
def vmulVal (op : MulOp) (w a b : Nat) : Nat :=
  match op with
  | .mul => a * b
  | .mulh => unsgn w (sgn w a * sgn w b / 2 ^ w)
  | .mulhu => a * b / 2 ^ w

/-- The elementwise shape that R115 shares: integer types only, groups of size G, VSTART 0. -/
def vInt (x : Ctx) (wd : BitVec 32) (f : Nat → Nat → Nat → Nat) (vd vs1 : BitVec 6) (src : VSrc) (m : VMask)
    (c : Core) : CoreRes :=
  let t := vType x c
  let w := tyWidth t
  let g := vG c
  if vStart c ≠ 0 ∨ !tyInt t ∨ !groupsOk ([(vd.toNat, g), (vs1.toNat, g)] ++ srcGroup src g) then .trap c (tIllegal wd)
  else
    let l := (vActive c m).map (fun i => (i, f w (vElem c.vec.v vs1.toNat w i) (vSrc c src w i)))
    ok (vDone (vWrite c vd.toNat w l))

/-- rnd of R117 under VXRM.MODE. -/
def fxRound (mode : Nat) (x : Int) (s : Nat) : Int :=
  if s = 0 then x
  else
    let q := x / 2 ^ s
    let f := x % 2 ^ s
    let h : Int := 2 ^ (s - 1)
    match mode with
    | 0 => if h < f ∨ (f = h ∧ q % 2 = 1) then q + 1 else q
    | 1 => if h < f ∨ (f = h ∧ 0 ≤ x) then q + 1 else q
    | 2 => q
    | _ => if f ≠ 0 ∧ q % 2 = 0 then q + 1 else q

/-- Saturate to the signed or unsigned range of `w` bits: the value and whether it saturated. -/
def saturate (uns : Bool) (w : Nat) (x : Int) : Int × Bool :=
  let lo : Int := if uns then 0 else -(2 ^ (w - 1))
  let hi : Int := if uns then 2 ^ w - 1 else 2 ^ (w - 1) - 1
  if x < lo then (lo, true) else if hi < x then (hi, true) else (x, false)

/-- The fixed-point shape (R112, R113, R116): destination width `dw`; `f` gives the exact value of an element. Under
QOV the first saturating element traps with VSTART naming it, the active elements below it done. -/
def vFixed (x : Ctx) (wd : BitVec 32) (narrow uns : Bool) (f : Nat → Nat → Nat → Nat → Int) (vd vs1 : BitVec 6)
    (src : VSrc) (m : VMask) (c : Core) : CoreRes :=
  let t := vType x c
  let w := tyWidth t
  let g := vG c
  let dw := if narrow then w / 2 else w
  let qov := enabled c 2
  match vDerived g dw w with
  | none => .trap c (tIllegal wd)
  | some dg =>
    if (vStart c ≠ 0 ∧ !qov) ∨ !tyInt t ∨ (narrow ∧ w = 8) ∨
        !groupsOk ([(vd.toNat, dg), (vs1.toNat, g)] ++ srcGroup src g) then .trap c (tIllegal wd)
    else
      let mode := field c.vec.vxrm 0 2
      let res := (vActive c m).map (fun i =>
        (i, saturate uns dw (f mode w (vElem c.vec.v vs1.toNat w i) (vSrc c src w i))))
      let put (l : List (Nat × Int × Bool)) : Core := vWrite c vd.toNat dw (l.map (fun e => (e.1, unsgn dw e.2.1)))
      match (if qov then res.find? (fun e => e.2.2) else none) with
      | some e =>
        let c' := put (res.filter (fun r => decide (r.1 < e.1)))
        .trap { c' with vec := { c'.vec with vstart := BitVec.ofNat 64 e.1 } } ⟨cINT_OVERFLOW, 0, 1⟩
      | none => ok (vDone (setFlags (put res) (flagIf (res.any (fun e => e.2.2)) fQSAT)))

/-- VQADD to VQSUBU before saturation. -/
def vqAddVal (op : VQAddOp) (_mode w a b : Nat) : Int :=
  match op with
  | .qadd => sgn w a + sgn w b
  | .qaddu => (a : Int) + b
  | .qsub => sgn w a - sgn w b
  | .qsubu => (a : Int) - b

/-- Is the fixed-point operation unsigned? -/
def vqUns : VQAddOp → Bool
  | .qaddu | .qsubu => true
  | _ => false

/-- VQRMUL before saturation: a Q(w−1) product. -/
def vqrmulVal (mode w a b : Nat) : Int := fxRound mode (sgn w a * sgn w b) (w - 1)

/-- VQSHR, VQSHRN, VQSHL before saturation. -/
def vqShVal (op : VQShOp) (mode w a b : Nat) : Int :=
  match op with
  | .qshl => sgn w a * 2 ^ (b % w)
  | _ => fxRound mode (sgn w a) (b % w)

/-- The 16 random bits of element position `i` of a vector operation (Table 3.5). -/
def vRand (c : Core) (i : Nat) : BitVec 16 :=
  srng c.cr.seed (c.cr.srtag.setWidth 32) ((c.cr.srbase.setWidth 48) + BitVec.ofNat 48 i) (c.cr.stepno.setWidth 32)

/-- Nearest-even, or stochastic when S = 1. -/
def vRnd (c : Core) (s : Bool) (i : Nat) : Rnd := if s then .stoch (vRand c i) else .even

/-- One floating result in BF16 or FP16: code, OVF, NF. -/
def fRound (f : Fmt) (rm : Rnd) (v : Val) : Nat × Bool × Bool :=
  match v with
  | .nan => (f.canonNaN, false, true)
  | v => let (code, o) := roundTo f rm v; (code, o, false)

/-- The 16-bit format of a floating VSHAPE type. -/
def vFmt (t : VTy) : Fmt := match t with | .fp .fp16 => .fp16 | _ => .bf16

/-- The elementwise floating shape of R118; `f` gives code, OVF and NF of element i from vd, vs1 and the second
operand. -/
def vFloat (x : Ctx) (wd : BitVec 32) (bad : Bool) (f : Fmt → Nat → Val → Val → Val → Nat × Bool × Bool)
    (vd vs1 : BitVec 6) (src : VSrc) (unary : Bool) (m : VMask) (c : Core) : CoreRes :=
  let t := vType x c
  let g := vG c
  if vStart c ≠ 0 ∨ !tyFloat t ∨ bad ∨
      !groupsOk ([(vd.toNat, g), (vs1.toNat, g)] ++ (if unary then [] else srcGroup src g)) then .trap c (tIllegal wd)
  else
    let fm := vFmt t
    let val (n : Nat) : Val := decodeElem fm n
    let res := (vActive c m).map (fun i =>
      (i, f fm i (val (vElem c.vec.v vd.toNat 16 i)) (val (vElem c.vec.v vs1.toNat 16 i)) (val (vSrc c src 16 i))))
    let fl := flagIf (res.any (fun e => e.2.2.1)) fOVF ||| flagIf (res.any (fun e => e.2.2.2)) fNF
    ok (vDone (setFlags (vWrite c vd.toNat 16 (res.map (fun e => (e.1, e.2.1)))) fl))

/-- VFDIV of one element: 0 / 0 is invalid, a finite nonzero value by zero saturates and sets OVF (R118). -/
def vfdivVal (f : Fmt) (rm : Rnd) (a b : Val) : Nat × Bool × Bool :=
  if a.isNum && b.isZero && !a.isZero then
    (f.maxCode + (if a.neg? != b.neg? then 2 ^ (f.bits - 1) else 0), true, false)
  else fRound f rm (a.div b)

/-- VFSQRT of one element: an exact zero is +0 (R39; R72's root of −0 is for the scalar form; log 66). -/
def vfsqrtVal (a : Val) : Val := if a.isZero then .num false 0 0 else a.sqrt

/-- VFSGN of one element (R118). -/
def vfsgnVal (a : Val) : Val :=
  match a with
  | .nan => .nan
  | .num n m e => if m = 0 then .num n 0 e else .num n 1 0

/-- VFMIN, VFMAX, VFSGN: exact values. -/
def vfMinVal (op : VFMinOp) (a b : Val) : Val :=
  match op with
  | .fmin => fMinMaxVal false a b
  | .fmax => fMinMaxVal true a b
  | .fsgn => vfsgnVal a

/-- Set or clear bit `i` of a mask. -/
def putMask (m : BitVec 512) (i : Nat) (b : Bool) : BitVec 512 :=
  if b then m ||| ones i 1 else m &&& ~~~(ones i 1)

/-- One compare (R119). -/
def vcmpVal (op : VCmpOp) (f : Fmt) (w a b : Nat) : Bool :=
  match op with
  | .seq => decide (a = b)
  | .sne => decide (a ≠ b)
  | .slt => decide (sgn w a < sgn w b)
  | .sle => decide (sgn w a ≤ sgn w b)
  | .sltu => decide (a < b)
  | .sleu => decide (a ≤ b)
  | .feq => fCmpVal .eq (decodeElem f a) (decodeElem f b)
  | .flt => fCmpVal .lt (decodeElem f a) (decodeElem f b)
  | .fle => fCmpVal .le (decodeElem f a) (decodeElem f b)

/-- Is the compare a floating one? -/
def vcmpFloat : VCmpOp → Bool
  | .feq | .flt | .fle => true
  | _ => false

/-- Write mask register `md`. -/
def setMask (c : Core) (md : BitVec 3) (v : BitVec 512) : Core :=
  { c with vec := { c.vec with m := tset 0 c.vec.m md.toNat v } }

/-- Compares (R119). -/
def bVcmp (x : Ctx) (wd : BitVec 32) (op : VCmpOp) (md : BitVec 3) (vs1 vs2 : BitVec 6) (m : VMask) (c : Core) :
    CoreRes :=
  let t := vType x c
  let w := tyWidth t
  let g := vG c
  if vStart c ≠ 0 ∨ (if vcmpFloat op then !tyFloat t else !tyInt t) ∨ !groupsOk [(vs1.toNat, g), (vs2.toNat, g)] then
    .trap c (tIllegal wd)
  else
    let r := (vActive c m).foldl (fun a i =>
      putMask a i (vcmpVal op (vFmt t) w (vElem c.vec.v vs1.toNat w i) (vElem c.vec.v vs2.toNat w i)))
      (tget 0 c.vec.m md.toNat)
    ok (vDone (setMask c md r))

/-- Bits 0 to VCNT − 1. -/
def lowMask (c : Core) : BitVec 512 := ones 0 (vCnt c)

/-- VMAND to VMCLR: bits from VCNT up stay (R119). -/
def bMaskOp (md : BitVec 3) (v : BitVec 512) (c : Core) : CoreRes :=
  ok (setMask c md ((tget 0 c.vec.m md.toNat &&& ~~~(lowMask c)) ||| (v &&& lowMask c)))

/-- VMAND, VMOR, VMXOR, VMANDN. -/
def maskVal (op : MaskOp) (a b : BitVec 512) : BitVec 512 :=
  match op with
  | .and => a &&& b
  | .or => a ||| b
  | .xor => a ^^^ b
  | .andn => a &&& ~~~b

/-- The set bits of a mask below VCNT, ascending. -/
def maskBits (c : Core) (ms : BitVec 3) : List Nat := (List.range (vCnt c)).filter (bitAt (tget 0 c.vec.m ms.toNat))

/-- The code without its sign is zero. -/
def zeroCode (f : Fmt) (code : Nat) : Bool :=
  match f with
  | .mxint8 => code == 0
  | _ => code % 2 ^ (f.bits - 1) == 0

/-- The code is ±largest finite (Table 9.5). -/
def maxedCode (f : Fmt) (code : Nat) : Bool :=
  match f with
  | .mxint8 => code == 0x7F || code == 0x81
  | _ => code % 2 ^ (f.bits - 1) == f.maxCode

/-- What one written element adds to a census count, the first that applies of NONFIN, SAT, ZERO and UFL (R187, Table
9.6): `src` is the source value, `code` what was written, `nanBlk` that its block is a NaN block. -/
def countElem (f : Fmt) (src : Val) (code : Nat) (nanBlk : Bool) : Counts :=
  if nanBlk || !(decodeElem f code).isNum then { elems := 1, nonfin := 1 }
  else if maxedCode f code then { elems := 1, sat := 1 }
  else if src.isZero then { elems := 1, zero := 1 }
  else { elems := 1, ufl := b2n (zeroCode f code) }

/-- Sum of counts. -/
def addCounts (a b : Counts) : Counts :=
  { elems := a.elems + b.elems, zero := a.zero + b.zero, ufl := a.ufl + b.ufl, sat := a.sat + b.sat,
    nonfin := a.nonfin + b.nonfin }

/-- One element to convert: its index, the value the site read, the value that is rounded (the first passed through
BF16 where Table 3.12 lists no direct conversion), and its random bits. -/
structure ConvElem where
  idx : Nat
  src : Val
  val : Val
  r   : BitVec 16
  deriving DecidableEq, Repr

/-- What converting elements that share one scale gives: codes by index, OVF, NF, the census counts, and the scale
written. -/
structure ConvOut where
  codes : List (Nat × Nat)
  ovf   : Bool
  nf    : Bool
  cnt   : Counts
  scale : Byte
  deriving DecidableEq, Repr

/-- Round elements that share the scale `scale` into `f` (R48, R50): a block of E2M1 or MXINT8 that holds a NaN, or has
scale 0xFF already, takes scale 0xFF and code 0 throughout. DESIGN CHOICE (log 66): a later row of an E4M3, E5M2 or X12 block
whose stored scale byte is 0xFF takes the canonical NaN throughout, and NF is set. -/
def convGroup (f : Fmt) (scale : Byte) (l : List ConvElem) : ConvOut :=
  let nan := l.any (fun e => !e.val.isNum)
  if f.noNaN && (nan || decide (scale = 0xFF#8)) then
    { codes := l.map (fun e => (e.idx, 0)), ovf := false, nf := nan,
      cnt := { elems := l.length, nonfin := l.length }, scale := 0xFF }
  else
    let res := l.map (fun e =>
      (e, roundElem f (.stoch e.r) scale (if f.scaled && decide (scale = 0xFF#8) then .nan else e.val)))
    { codes := res.map (fun e => (e.1.idx, e.2.1)), ovf := res.any (fun e => e.2.2.1), nf := res.any (fun e => e.2.2.2),
      cnt := (res.map (fun e => countElem f e.1.src e.2.1 false)).foldl addCounts {}, scale := scale }

/-- A value passed through BF16 with random bits `r` (R60): the value, OVF, NF. -/
def viaBf16 (r : BitVec 16) (v : Val) : Val × Bool × Bool :=
  let (code, o, n) := fRound .bf16 (.stoch r) v
  (decodeElem .bf16 code, o, n)

/-- Does Table 3.12 convert the source directly into the destination? -/
def direct (src dst : VTy) : Bool :=
  match src, dst with
  | .fp .bf16, _ => true
  | .fp _, .fp .bf16 | .fp _, .fp .fp16 => true
  | .int _, .fp .bf16 | .int _, .fp .fp16 => true
  | .fp .fp16, .int _ => true
  | .int _, .int _ => true
  | _, _ => false

/-- The headroom field of SKCFG for a format (Table 3.2). -/
def headOf (f : Fmt) (skcfg : Word) : Nat :=
  match f with
  | .x12 => field skcfg 16 5
  | .e2m1 => field skcfg 0 5
  | _ => field skcfg 8 5

/-- SKCFG.ZSCALE. -/
def zscaleOf (skcfg : Word) : Byte := BitVec.ofNat 8 (field skcfg 24 8)

/-- Scale byte `b` of a vector scale register. -/
def scaleByte (v : BitVec 128) (b : Nat) : Byte := byteOf v b

/-- The source elements of a VCVT, passed through BF16 where needed, with the OVF and NF that raised. -/
def cvtElems (c : Core) (src dst : VTy) (vs1 vs2 : BitVec 6) (act : List Nat) : List ConvElem × Bool × Bool :=
  let w := tyWidth src
  let sc := tget 0 c.vec.v vs2.toNat
  let l := act.map (fun i =>
    let n := vElem c.vec.v vs1.toNat w i
    let v := match src with
      | .int w => intVal (sgn w n)
      | .fp f => elemVal f n (scaleByte sc (i / 32))
    let r := vRand c i
    if direct src dst then (({ idx := i, src := v, val := v, r := r } : ConvElem), false, false)
    else
      let (u, o, nf) := viaBf16 r v
      ({ idx := i, src := v, val := u, r := r }, o, nf))
  (l.map (·.1), l.any (fun e => e.2.1), l.any (fun e => e.2.2))

/-- Write the blocks of a scaled VCVT destination: each block's scale under the dynamic rule over its active elements
(R45, R121). -/
def cvtBlocks (c : Core) (f : Fmt) (vd vs2 : BitVec 6) (l : List ConvElem) : Core × Bool × Bool × Counts :=
  (List.range 16).foldl (fun (a : Core × Bool × Bool × Counts) b =>
    let blk := l.filter (fun e => decide (e.idx / 32 = b))
    if blk.isEmpty then a
    else
      let o := convGroup f (dynamicScale f (zscaleOf c.cr.skcfg) (blk.map (·.val))) blk
      let c := vWrite a.1 vd.toNat (tyWidth (.fp f)) (o.codes.map (fun e => (e.1, laneOfCode f e.2)))
      let c := { c with vec := { c.vec with v := tmod 0 c.vec.v vs2.toNat (fun r => setByte r b o.scale) } }
      (c, a.2.1 || o.ovf, a.2.2.1 || o.nf, addCounts a.2.2.2 o.cnt)) (c, false, false, {})

/-- The census event of a vector site (R123): VCENS.SLOT when EN is set, else unenrolled; nothing when no element was
counted. -/
def vCensus (c : Core) (n : Counts) : List CoreEv :=
  if n.elems = 0 then []
  else [.count false (if bitAt c.vec.vcens 15 then some (field c.vec.vcens 0 10) else none) n]

/-- Is a named VCVT destination a census site (R123)? Every floating format but BF16; at rung 2 such a site still counts,
BF16 elements (R187). -/
def vcvtSite : VTy → Bool
  | .fp .bf16 | .int _ => false
  | .fp _ => true

/-- VCVT (R121 to R123). DEDUCED (log 66): whether a type is scaled, and so whether vs2 is RsvZ, is judged on the effective
types, which R122 puts in place of the named ones. -/
def bVcvt (x : Ctx) (wd : BitVec 32) (dst : BitVec 4) (vd vs1 vs2 : BitVec 6) (m : VMask) (c : Core) : CoreRes :=
  let src := vType x c
  let g := vG c
  match tyOfCode dst.toNat with
  | none => .trap c (tIllegal wd)
  | some named =>
    let d := effTy x.rung named
    let w := tyWidth src
    let dw := tyWidth d
    let usesScale := tyScaled src || tyScaled d
    match vDerived g dw w with
    | none => .trap c (tIllegal wd)
    | some dg =>
      if vStart c ≠ 0 ∨ (!usesScale ∧ vs2 ≠ 0) ∨
          !groupsOk ([(vd.toNat, dg), (vs1.toNat, g)] ++ (if usesScale then [(vs2.toNat, 1)] else [])) then
        .trap c (tIllegal wd)
      else
        let (l, o, n) := cvtElems c src d vs1 vs2 (vActive c m)
        match d with
        | .int dw =>
          match src with
          | .int w =>
            ok (vDone (vWrite c vd.toNat dw (l.map (fun e => (e.idx, unsgn dw (sgn w (vElem c.vec.v vs1.toNat w e.idx)))))))
          | .fp _ =>
            let res := l.map (fun e => (e, toIntSat dw e.val))
            let fl := flagIf o fOVF ||| flagIf (n || l.any (fun e => !e.val.isNum)) fNF |||
              flagIf (res.any (fun e => e.2.2)) fQSAT
            ok (vDone (setFlags (vWrite c vd.toNat dw (res.map (fun e => (e.1.idx, unsgn dw e.2.1)))) fl))
        | .fp f =>
          if f.scaled then
            let (c', o', n', k) := cvtBlocks c f vd vs2 l
            .done (vDone (setFlags c' (flagIf (o || o') fOVF ||| flagIf (n || n') fNF))) (vCensus c k)
          else
            let r := convGroup f 0 l
            let c' := vWrite c vd.toNat 16 r.codes
            .done (vDone (setFlags c' (flagIf (o || r.ovf) fOVF ||| flagIf (n || r.nf) fNF)))
              (if vcvtSite named then vCensus c r.cnt else [])

/-- Moves that keep the VSHAPE group shape; lanes of X12 are written with bits 3:0 zero (R41). -/
def vMove (wd : BitVec 32) (bad : Bool) (vd : BitVec 6) (t : VTy) (l : List (Nat × Nat)) (c : Core) : CoreRes :=
  if vStart c ≠ 0 ∨ bad then .trap c (tIllegal wd)
  else ok (vDone (vWrite c vd.toNat (tyWidth t) (l.map (fun e => (e.1, laneClean t e.2)))))

/-- VMV.XV (R120): integer types sign-extended, other types zero-extended, bits 3:0 of an X12 lane read as zero (R41); no
element at VCNT 0. -/
def bVmvXv (x : Ctx) (wd : BitVec 32) (rd : Reg) (vs1 : BitVec 6) (c : Core) : CoreRes :=
  let t := vType x c
  let w := tyWidth t
  let n := laneClean t (vElem c.vec.v vs1.toNat w 0)
  if !groupsOk [(vs1.toNat, vG c)] then .trap c (tIllegal wd)
  else if vCnt c = 0 then ok c
  else putReg c rd (if tyInt t then BitVec.ofInt 64 (sgn w n) else BitVec.ofNat 64 n)

/-- The reduction shape of R120: `fi` over signed values of an integer type, `ff` over the values of BF16 or FP16. A
reduction with no active element writes nothing. DESIGN CHOICE (log 66): the one rounding of VREDSUM.S takes the random
bits of element position 0, the position of the element it writes. -/
def vReduce (x : Ctx) (wd : BitVec 32) (bad : Bool) (s : Bool) (fi : List Int → Int) (ff : List Val → Val)
    (vd vs1 : BitVec 6) (m : VMask) (c : Core) : CoreRes :=
  let t := vType x c
  let w := tyWidth t
  if vStart c ≠ 0 ∨ bad ∨ !(tyInt t || tyFloat t) ∨ (s ∧ !tyFloat t) ∨ !groupsOk [(vd.toNat, 1), (vs1.toNat, vG c)] then
    .trap c (tIllegal wd)
  else
    let raw := (vActive c m).map (fun i => vElem c.vec.v vs1.toNat w i)
    if raw.isEmpty then ok (vDone c)
    else if tyInt t then ok (vDone (vWrite c vd.toNat w [(0, unsgn w (fi (raw.map (sgn w))))]))
    else
      let f := vFmt t
      let vs := raw.map (decodeElem f)
      let v := if vs.any (fun v => !v.isNum) then .nan else ff vs
      let (code, o, n) := fRound f (vRnd c s 0) v
      ok (vDone (setFlags (vWrite c vd.toNat w [(0, code)]) (flagIf o fOVF ||| flagIf n fNF)))

/-- The extreme of a nonempty list under `better`. -/
def pick {α : Type} (better : α → α → Bool) : List α → α → α
  | [], a => a
  | b :: l, a => pick better l (if better b a then b else a)

/-- VREDMAX, VREDMIN, VREDAMAX over signed integers. -/
def redInt (op : VRedOp) (l : List Int) : Int :=
  match op with
  | .max => pick (fun b a => decide (a < b)) l (l.headD 0)
  | .min => pick (fun b a => decide (b < a)) l (l.headD 0)
  | .amax => l.foldl (fun a b => max a b.natAbs) 0

/-- VREDMAX, VREDMIN, VREDAMAX over floating values; the order of R72 puts −0 below +0. -/
def redVal (op : VRedOp) (l : List Val) : Val :=
  let z := l.headD (.num false 0 0)
  match op with
  | .max => l.foldl (fMinMaxVal true) z
  | .min => l.foldl (fMinMaxVal false) z
  | .amax => (l.map Val.abs).foldl (fMinMaxVal true) z.abs

end Sys2Proof.Machine
end

