-- ==== Sys2Proof/Machine/EngineOps.lean ====
section
/-! DEFINITION. Outer-product engines: issue checks (R155, R156, R169, R173, R176, R180), the tile queue and its order
(R147, R148, R164), port grants (R158), k-steps (R153, R162, R58, R59), the Skiver (R45 to R48, R173 to R175) and parity
(R181). One call of `kCycle` is one core cycle. -/

namespace Sys2Proof.Machine

/-- Accumulators that an instruction names. -/
def EngOp.accs : EngOp → List Nat
  | .opa engs _ _ => engs.map (·.1)
  | .opaW a .. | .clr a .. | .rd a .. | .wr a .. | .emul a .. | .mp a .. => [a]
  | .emit .. => []

/-- The tiles of a destination or source: four for a wide-form accumulator. -/
def wideTiles (t : Nat) (wide : Bool) : List Nat := if wide then [t, t + 1, t + 2, t + 3] else [t]

/-- Tiles that an instruction reads. -/
def EngOp.reads : EngOp → List Nat
  | .opa engs _ _ => engs.flatMap (fun e => [e.2.1.tile, e.2.2.tile])
  | .opaW _ tb .. => wideTiles tb.tile true
  | .wr _ w d | .emul _ w _ _ d => wideTiles d.tile w
  | .mp _ _ a b .. => [a.tile, b.tile]
  | _ => []

/-- Tiles that an instruction writes. -/
def EngOp.writes : EngOp → List Nat
  | .rd _ w d e _ => wideTiles d.tile w ++ (e.map (·.tile)).toList
  | .emit _ d e .. => d.tile :: (e.map (·.tile)).toList
  | _ => []

/-- Is it a Skiver instruction? -/
def EngOp.skiver : EngOp → Bool
  | .rd .. | .emit .. => true
  | _ => false

/-- Do two lists share an element? -/
def meets (a b : List Nat) : Bool := a.any (fun x => b.contains x)

/-- Does a later instruction wait for an earlier one: a conflict on a tile (R148), a shared accumulator (R164), the
Skiver's program order (R174), the single ACC.WR read path (R176), or the single engine-feed path (R171)? -/
def waitsFor (early late : EngOp) : Bool :=
  meets early.writes (late.reads ++ late.writes) || meets early.reads late.writes || meets early.accs late.accs ||
    (early.skiver && late.skiver) ||
    (match early, late with
     | .wr .., .wr .. => true
     | .opaW .., .opaW .. => true
     | _, _ => false)

/-- May the item at position `i` of the queue run in this core cycle? -/
def qReady (q : List QItem) (i : Nat) : Bool :=
  match q[i]? with
  | none => false
  | some it => (q.take i).all (fun e => !waitsFor e.op it.op)

/-- The form that an instruction sees at issue (R161). -/
def formAtIssue (c : Core) (a : Nat) : Bool :=
  c.tile.queue.foldl (fun f e => match e.op with | .clr b w _ => if b = a then w else f | _ => f) (accOf c a).wide

/-- An engine or tile trap: ADDR is the instruction word, DETAIL the tile (Table 5.3). -/
def tShape (w : BitVec 32) (t : Nat) : Trap := ⟨cTILE_SHAPE, w.setWidth 64, BitVec.ofNat 32 t⟩

/-- TILE_FORMAT naming tile `t`. -/
def tFormat (w : BitVec 32) (t : Nat) : Trap := ⟨cTILE_FORMAT, w.setWidth 64, BitVec.ofNat 32 t⟩

/-- Is any of the engines retired (R183)? -/
def engRetired (c : Core) (accs : List Nat) : Bool := accs.any (fun a => !bitAt c.cr.engmask a)

/-- Is any of the engines retired (R183), or is a row-by-row instruction to resume (R143)? -/
def engIllegal (c : Core) (accs : List Nat) : Bool := engRetired c accs || bitAt c.tile.tprog 15

/-- The first of some checks that fails. -/
def firstTrap : List (Bool × Trap) → Option Trap
  | [] => none
  | (b, t) :: l => if b then some t else firstTrap l

/-- Do a scaled operand's blocks run along its k direction (R155 check 2)? -/
def blocksAlongK (o : TileOp) : Bool :=
  o.shape.smode = 0 || o.shape.smode = 3 || o.shape.smode = (if o.col then 1 else 2)

/-- A tile operand with its shape now. -/
def tileOp (x : Ctx) (c : Core) (t : BitVec 4) (d : Dir) : TileOp :=
  { tile := t.toNat, col := Dir.isCol d, shape := tshape x c t.toNat }

/-- The rank ρk of a set of engines (R153, R168), once every pair stands in Table 3.11. -/
def opaRank (engs : List (Nat × TileOp × TileOp)) : Nat :=
  engs.foldl (fun r e =>
    min r (min ((pairRank e.2.1.shape.fmt e.2.2.shape.fmt).getD 1) (min e.2.1.rank e.2.2.rank))) 4

/-- The checks of R169 for OPA, OPA.P and OPA.Q. Each engine comes with its operands in encoding order; `first` is the
instruction's first tile operand. -/
def opaChecks (w : BitVec 32) (c : Core) (engs : List (Nat × TileOp × TileOp)) (order : List (TileOp × TileOp))
    (first : Nat) (k : Word) : Option Trap :=
  let fmts := order.flatMap (fun e =>
    [((pairRank e.1.shape.fmt e.2.shape.fmt).isNone, tFormat w e.1.tile),
     (!blocksAlongK e.1, tFormat w e.1.tile), (!blocksAlongK e.2, tFormat w e.2.tile)])
  let lens := order.flatMap (fun e =>
    [(decide (64 < e.1.vlen), tShape w e.1.tile), (decide (64 < e.2.vlen), tShape w e.2.tile)])
  firstTrap (fmts ++
    [(engs.any (fun e => formAtIssue c e.1), tShape w first), (decide (4096 < k.toNat), tShape w first)] ++ lens)

/-- OPA, OPA.P or OPA.Q at issue: the queued instruction or the trap. -/
def opaIssue (w : BitVec 32) (c : Core) (engs : List (Nat × TileOp × TileOp)) (order : List (TileOp × TileOp))
    (first : Nat) (k : Word) : Except Trap EngOp :=
  if engIllegal c (engs.map (·.1)) then .error (tIllegal w)
  else
    match opaChecks w c engs order first k with
    | some t => .error t
    | none => .ok (.opa engs k.toNat (opaRank engs))

/-- The tiles from `t` on that exist, at most four. -/
def fourTiles (t : Nat) : List Nat := (wideTiles t true).filter (fun n => decide (n < 16))

/-- Do the four tiles differ in FMT, SMODE or PAIR (R156)? -/
def fourFormats (c : Core) (t : Nat) : Bool := (fourTiles t).any (fun n => decide (field (tcfg c n) 13 7 ≠ field (tcfg c t) 13 7))

/-- Is the first not a multiple of 4, or do the four differ in ROWS or LEN (R156)? -/
def fourShapes (c : Core) (t : Nat) : Bool :=
  decide (t % 4 ≠ 0) || (fourTiles t).any (fun n => decide (field (tcfg c n) 0 9 ≠ field (tcfg c t) 0 9))

/-- OPA.W at issue (R169, R171). DESIGN CHOICE (log 67): the traps of R156 name the first row tile, tb; the pair check of R155 is
made of tb's format alone, and check 2 of each row tile names that tile; ILLEGAL_INSN for a vsc that is not 0 with an unscaled or
integer type comes before the TILE_FORMAT and TILE_SHAPE checks. -/
def opaWIssue (x : Ctx) (w : BitVec 32) (c : Core) (acc : Nat) (tb : BitVec 4) (db : Dir) (vs vsc : BitVec 6)
    (k : Word) : Except Trap EngOp :=
  let t := vType x c
  let g := vG c
  let b := tileOp x c tb db
  let n := tb.toNat
  if engIllegal c [acc] ∨ (!tyScaled t ∧ vsc ≠ 0) ∨
      !groupsOk ((vs.toNat, g) :: (if tyScaled t then [(vsc.toNat, 1)] else [])) then .error (tIllegal w)
  else
    match t with
    | .int _ => .error (tFormat w n)
    | .fp f =>
      let kf := vCnt c / 16
      let tiles := (fourTiles n).map (fun i => ({ b with tile := i, shape := tshape x c i } : TileOp))
      let checks :=
        [((pairRank f b.shape.fmt).isNone, tFormat w n)] ++ tiles.map (fun o => (!blocksAlongK o, tFormat w o.tile)) ++
        [(fourFormats c n, tFormat w n), (fourShapes c n, tShape w n), (!formAtIssue c acc, tShape w n),
         (decide (4096 < k.toNat), tShape w n), (decide (vCnt c = 0 ∨ vCnt c % (16 * f.rho) ≠ 0), tShape w n)] ++
        tiles.map (fun o => (decide (64 < o.vlen), tShape w o.tile))
      match firstTrap checks with
      | some e => .error e
      | none =>
        let wd := tyWidth t
        let elems := (List.range (vCnt c)).map (fun i => codeOfLane f (vElem c.vec.v vs.toNat wd i))
        let scales := (List.range 16).map (fun m => byteOf (tget 0 c.vec.v vsc.toNat) m)
        .ok (.opaW acc b f elems scales kf k.toNat (min ((pairRank f b.shape.fmt).getD 1) (min b.rank f.rho)))

/-- The destination that a register names: rowbase bits 15:0, colbase bits 31:16 (R173). -/
def destOf (x : Ctx) (c : Core) (t : Nat) (r : Word) : Dest :=
  { tile := t, cfg := tcfg c t, shape := tshape x c t, row := field r 0 16, col := field r 16 16 }

/-- Check 3 of R173: offsets on block boundaries, in effective terms. -/
def offsetsBad (d : Dest) : Bool :=
  (decide (d.shape.smode = 1 ∨ d.shape.smode = 3) && decide (d.col % 32 ≠ 0)) ||
    (decide (d.shape.smode = 2 ∨ d.shape.smode = 3) && decide (d.row % 32 ≠ 0))

/-- Check 4 of R173: the area of `rows` × 64 runs beyond the extents. -/
def extentsBad (d : Dest) (rows : Nat) : Bool := decide (d.shape.nr < d.row + rows) || decide (d.shape.nc < d.col + 64)

/-- The SRNG and Skiver inputs at issue. DESIGN CHOICE (log 67): SKCFG is taken at issue as SRTAG, SRBASE and SRSTRIDE are (R173). -/
def randOf (c : Core) : Rand :=
  { tag := c.cr.srtag.setWidth 32, base := c.cr.srbase.setWidth 48, stride := c.cr.srstride.setWidth 32,
    skcfg := c.cr.skcfg }

/-- ACC.RD, or ACC.RD.D with its second destination `te` (R173). -/
def rdIssue (x : Ctx) (w : BitVec 32) (c : Core) (acc : Nat) (td : BitVec 4) (r1 : Word) (te : Option (BitVec 4 × Word)) :
    Except Trap EngOp :=
  let wide := formAtIssue c acc
  let n := td.toNat
  let d := destOf x c n r1
  let e := te.map (fun p => destOf x c p.1.toNat p.2)
  let sm (t : Nat) := field (tcfg c t) 14 2
  let fm (t : Nat) := field (tcfg c t) 16 4
  let mixed := match e with
    | none => false
    | some e => decide (fm e.tile ≠ fm n) ||
        !(decide (sm e.tile = sm n) || decide (sm n = 1 ∧ sm e.tile = 2) || decide (sm n = 2 ∧ sm e.tile = 1))
  let rows := if wide then 16 else 64
  if engIllegal c [acc] then .error (tIllegal w)
  else
    let own (f : Dest → Bool) : List (Bool × Trap) :=
      (f d, tShape w n) :: (match e with | none => [] | some e => [(f e, tShape w e.tile)])
    match firstTrap (
      [(wide && decide (d.shape.smode = 2 ∨ d.shape.smode = 3), tFormat w n), (wide && e.isSome, tFormat w n),
       (mixed, tFormat w n), (wide && fourFormats c n, tFormat w n), (wide && fourShapes c n, tShape w n)] ++
      own offsetsBad ++ own (fun d => extentsBad d rows)) with
    | some t => .error t
    | none => .ok (.rd acc wide d e (randOf c))

/-- The checks that ACC.WR and ACC.EMUL share (R176, R177): `rows` is the rows of the extent check. -/
def wrChecks (w : BitVec 32) (c : Core) (acc : Nat) (wide : Bool) (d : Dest) (rows : Nat) : Option Trap :=
  if engIllegal c [acc] then some (tIllegal w)
  else firstTrap
    [(wide && fourFormats c d.tile, tFormat w d.tile), (wide && fourShapes c d.tile, tShape w d.tile),
     (offsetsBad d, tShape w d.tile), (extentsBad d rows, tShape w d.tile)]

/-- ACC.WR at issue. -/
def wrIssue (x : Ctx) (w : BitVec 32) (c : Core) (acc : Nat) (ta : BitVec 4) (r : Word) : Except Trap EngOp :=
  let wide := formAtIssue c acc
  let d := destOf x c ta.toNat r
  match wrChecks w c acc wide d (if wide then 16 else 64) with
  | some t => .error t
  | none => .ok (.wr acc wide d)

/-- ACC.EMUL at issue. -/
def emulIssue (x : Ctx) (w : BitVec 32) (mul bcast : Bool) (c : Core) (acc : Nat) (ta : BitVec 4) (r : Word) :
    Except Trap EngOp :=
  let wide := formAtIssue c acc
  let d := destOf x c ta.toNat r
  match wrChecks w c acc wide d (if bcast then 1 else if wide then 16 else 64) with
  | some t => .error t
  | none => .ok (.emul acc wide mul bcast d)

/-- OPA.MP at issue (R169, R180): modes 0 ILO, 1 IHI, 2 CRE, 3 CIM. ILO and IHI ignore FMT and scales, and so R155's format
checks; CRE and CIM make them before their own. DESIGN CHOICE (log 67): a retired engine's ILLEGAL_INSN (R183) comes before
PRIV_INSN (R180), and the line checks come last, ta's line before tb's. -/
def mpIssue (x : Ctx) (w : BitVec 32) (mode : Nat) (c : Core) (acc : Nat) (ta : BitVec 4) (da : Dir) (tb : BitVec 4)
    (db : Dir) (r : Word) : Except Trap EngOp :=
  let a := tileOp x c ta da
  let b := tileOp x c tb db
  let la := field r 0 6
  let lb := field r 8 6
  let f16 (o : TileOp) : Bool := decide (o.shape.fmt = .bf16) || decide (o.shape.fmt = .fp16)
  if engRetired c [acc] then .error (tIllegal w)
  else if c.level ≠ .f ∧ !x.test then .error (tPriv w)
  else if engIllegal c [acc] then .error (tIllegal w)
  else
    let cplx := decide (2 ≤ mode)
    match firstTrap
      [(cplx && (pairRank a.shape.fmt b.shape.fmt).isNone, tFormat w a.tile),
       (cplx && !blocksAlongK a, tFormat w a.tile), (cplx && !blocksAlongK b, tFormat w b.tile),
       (cplx && !f16 a, tFormat w a.tile), (cplx && !f16 b, tFormat w b.tile),
       (formAtIssue c acc, tShape w a.tile),
       (decide (a.lines ≤ la), tShape w a.tile), (decide (b.lines ≤ lb), tShape w b.tile)] with
    | some t => .error t
    | none => .ok (.mp acc mode a b la lb)

/-- VEMIT, or VEMIT.D with its second destination (R124). DESIGN CHOICE (log 67): TILE_FORMAT for two tiles that do not agree
names tb, the one that must agree with ta. The scale modes are the SMODE fields as written (R138). -/
def emitIssue (x : Ctx) (w : BitVec 32) (c : Core) (vs : BitVec 6) (ta : BitVec 4) (tb : Option (BitVec 4)) (r : Word) :
    Except Trap (Option EngOp) :=
  let t := vType x c
  if bitAt c.tile.tprog 15 ∨ vStart c ≠ 0 ∨ !tyFloat t ∨ !groupsOk [(vs.toNat, vG c)] then .error (tIllegal w)
  else if vCnt c = 0 then .ok none
  else
    let d := destOf x c ta.toNat r
    let e := tb.map (fun t => destOf x c t.toNat r)
    let f := vFmt t
    let sm (t : Nat) := field (tcfg c t) 14 2
    let mixed := match e with
      | none => false
      | some e => decide (e.shape.fmt ≠ d.shape.fmt ∨ e.shape.nr ≠ d.shape.nr ∨ e.shape.nc ≠ d.shape.nc) ||
          !(decide (sm e.tile = sm d.tile) || decide (sm d.tile = 1 ∧ sm e.tile = 2) || decide (sm d.tile = 2 ∧ sm e.tile = 1))
    match firstTrap
      [(mixed, tFormat w ((e.map (·.tile)).getD 0)),
       (decide (d.shape.nr ≤ d.row) || decide (d.shape.nc < d.col + vCnt c), tShape w d.tile)] with
    | some t => .error t
    | none =>
      let els := (List.range (vCnt c)).map (fun i =>
        ({ pos := i, val := decodeElem f (vElem c.vec.v vs.toNat 16 i) } : Emitted))
      .ok (some (.emit (decide (f = .fp16)) d e els (randOf c)))

/-- Mark an accumulator: a report when the mark goes from 0 to 1 (R165). -/
def markAcc (c : Core) (a : Nat) (ovf nf pe : Bool) : Core × List CoreEv :=
  let v := accOf c a
  let ev := (if ovf && !v.ovf then [CoreEv.report a .ovf] else []) ++ (if nf && !v.nf then [.report a .nf] else []) ++
    (if pe && !v.pe then [.report a .pe] else [])
  (setAcc c a { v with ovf := v.ovf || ovf, nf := v.nf || nf, pe := v.pe || pe }, ev)

/-- The accumulator number of a report that names none (DESIGN CHOICE, log 59). -/
def noAcc : Nat := 4

/-- DETAIL of Table 8.8. -/
def parityDetail (tile : Bool) (n row word : Nat) : BitVec 32 :=
  BitVec.ofNat 32 (b2n tile * 2 ^ 26 + n * 2 ^ 22 + row * 2 ^ 16 + word)

/-- DETAIL of a word named as an injection names it. -/
def injDetail (p : Bool × Nat × Nat × Nat) : BitVec 32 := parityDetail p.1 p.2.1 p.2.2.1 p.2.2.2

/-- Set or clear the parity mark of a word. -/
def setBad (k : Core) (p : Bool × Nat × Nat × Nat) (v : Bool) : Core :=
  let (tile, n, r, w) := p
  if tile then { k with tile := { k.tile with bad := tset false k.tile.bad (1024 * n + 16 * r + w) v } }
  else
    let a := accOf k n
    setAcc k n { a with bad := tset false a.bad (16 * r + w) v }

/-- The word of an armed injection reads bad, whatever was written to it meanwhile (Table 19.4). -/
def injBad (k : Core) : Core :=
  match k.tile.inj with
  | none => k
  | some p => setBad k p true

/-- The armed injection of a core is spent: its word has good parity. -/
def injGood (k : Core) : Core :=
  match k.tile.inj with
  | none => k
  | some p => setBad { k with tile := { k.tile with inj := none } } p false

/-- A parity detection by an instruction that names `accs` (R181, R182): PE in each, a report for each whatever its PE was,
or one that names no accumulator, a log record, ENGINE_PARITY pending unless one is. The detection of an injected word
spends the injection. -/
def detect (c : Core) (accs : List Nat) (detail : BitVec 32) : Core × List CoreEv :=
  let c := accs.foldl (fun c a => (markAcc c a false false true).1) c
  let ev := (if accs.isEmpty then [noAcc] else accs).map (fun a => CoreEv.report a .pe)
  let c := if (c.tile.inj.map injDetail) = some detail then injGood c else c
  ({ c with parity := some (c.parity.getD detail) }, ev ++ [.parity detail])

/-- Detect every bad word of a list, each with its DETAIL. -/
def detectAll (c : Core) (accs : List Nat) (l : List (BitVec 32)) : Core × List CoreEv :=
  l.foldl (fun (s : Core × List CoreEv) d => let (c, e) := detect s.1 accs d; (c, s.2 ++ e)) (c, [])

/-- Bad words of accumulator row `q`, or of the whole accumulator. -/
def badCells (c : Core) (a : Nat) (q : Option Nat) : List (BitVec 32) :=
  ((accOf c a).bad.filter (fun e => match q with | none => true | some q => decide (e.1 / 16 = q))).map
    (fun e => parityDetail false a (e.1 / 16) (e.1 % 16))

/-- Bad words of a tile line that a port reads: a row line's words in use, or the word of lane `i` in each row in use. -/
def badTile (c : Core) (o : TileOp) (i : Nat) : List (BitVec 32) :=
  (c.tile.bad.filter (fun e =>
    let t := e.1 / 1024
    let r := e.1 / 16 % 64
    let w := e.1 % 16
    decide (t = o.tile) &&
      (if o.col then decide (w = i / 4) && decide (r < o.shape.rows)
       else decide (r = i) && decide (w < 2 * o.shape.len)))).map
    (fun e => parityDetail true (e.1 / 1024) (e.1 / 16 % 64) (e.1 % 16))

/-- Random bits of a cell (Table 3.5): index kcount × 4,096 + cell. -/
def cellRand (c : Core) (a : Acc) (n : Nat) : BitVec 16 :=
  srng c.cr.seed a.atag (BitVec.ofNat 48 (a.kcount.toNat * 4096 + n)) (c.cr.stepno.setWidth 32)

/-- Replace row `q` of an accumulator with 64 rounded values (R58, R59), or with raw words; its words carry good parity
again. Gives the accumulator, OVF and NF. -/
def putRow (c : Core) (a : Acc) (q : Nat) (f : Nat → Option Val) : Acc × Bool × Bool :=
  let old := tget 0 a.cells q
  let res := (List.range 64).map (fun i =>
    match f i with
    | none => (laneOf old i, false, false)
    | some v => let (x, o, n) := roundCell (cellRand c a (64 * q + i)) v; (x.toNat, o, n))
  let row := BitVec.ofNat 1024 ((List.range 64).foldl (fun s i => s + ((res[i]?).map (·.1)).getD 0 * 2 ^ (16 * i)) 0)
  ({ a with cells := tset 0 a.cells q row, bad := tclear a.bad (16 * q) 16 },
    res.any (fun e => e.2.1), res.any (fun e => e.2.2))

/-- Replace every row, then count one rounding (R54). -/
def putAll (c : Core) (a : Acc) (rows : List Nat) (f : Nat → Nat → Option Val) : Acc × Bool × Bool :=
  let (b, o, n) := rows.foldl (fun (s : Acc × Bool × Bool) q =>
    let (b, o, n) := putRow c s.1 q (f q)
    (b, s.2.1 || o, s.2.2 || n)) (a, false, false)
  ({ b with kcount := b.kcount + 1 }, o, n)

/-- One k-step of a square engine: `col` and `row` give, per k-element of the step, the values at positions 0 to 63
(R58, R162). -/
def kSquare (c : Core) (a : Nat) (col row : List (List Val)) : Core × List CoreEv :=
  let acc := accOf c a
  let (v, o, n) := putAll c acc (List.range 64) (fun q i =>
    some (sumVals (bf (cellOf acc (64 * q + i)) ::
      (List.zipWith (fun ca rb => ((ca[q]?).getD .nan).mul ((rb[i]?).getD .nan)) col row))))
  markAcc (setAcc c a v) a o n false

/-- One k-step of a wide engine: 16 column positions, 256 row positions. -/
def kWide (c : Core) (a : Nat) (col row : List (List Val)) : Core × List CoreEv :=
  let acc := accOf c a
  let (v, o, n) := putAll c acc (List.range 64) (fun q i =>
    some (sumVals (bf (cellOf acc (64 * q + i)) ::
      (List.zipWith (fun ca rb => ((ca[q / 4]?).getD .nan).mul ((rb[64 * (q % 4) + i]?).getD .nan)) col row))))
  markAcc (setAcc c a v) a o n false

/-- A line that an engine position asks for: engine, position (0 column, 1 to 4 row), tile, direction, index. -/
structure LineReq where
  eng  : Nat
  pos  : Nat
  op   : TileOp
  line : Nat
  deriving DecidableEq, Repr

/-- The k-element index of step `n`, k-element `j` (R153). -/
def kIndex (o : TileOp) (rank n j : Nat) : Nat := n * rank % (o.lines * o.rank) + j

/-- The line of k-step `n` (R153). -/
def kLine (o : TileOp) (rank n : Nat) : Nat := n * rank / o.rank % o.lines

/-- A row operand of an element-wise instruction: the physical row that holds its logical row. -/
def emulLine (wide bcast : Bool) (d : Dest) (n : Nat) : TileOp × Nat :=
  let q := if wide then n % 4 else 0
  let r := if bcast then 0 else if wide then n / 4 else n
  ({ tile := d.tile + q, col := false, shape := d.shape }, (d.shape.place (d.row + r) d.col).1)

/-- The lines that an instruction needs for its next grant (R158). -/
def lineReqs (it : QItem) : List LineReq :=
  match it.op with
  | .opa engs _ rank => engs.flatMap (fun e =>
      [⟨e.1, 0, e.2.1, kLine e.2.1 rank it.done⟩, ⟨e.1, 1, e.2.2, kLine e.2.2 rank it.done⟩])
  | .opaW a tb _ _ _ _ _ rank => (List.range 4).map (fun j =>
      ⟨a, 1 + j, { tb with tile := tb.tile + j }, kLine tb rank it.done⟩)
  | .emul a wide _ bcast d =>
    let (o, l) := emulLine wide bcast d it.done
    [⟨a, if wide then 1 + it.done % 4 else 1, o, l⟩]
  | .mp a _ x y la lb => [⟨a, 0, x, la⟩, ⟨a, 1, y, lb⟩]
  | _ => []

/-- What the latch of a position holds. -/
def latchOf (c : Core) (e pos : Nat) : Option Latch := tget none c.tile.latch (8 * e + pos)

/-- Does a latch hold the line? -/
def latched (c : Core) (r : LineReq) : Bool :=
  match latchOf c r.eng r.pos with
  | none => false
  | some l => decide (l.tile = r.op.tile) && decide (l.col = r.op.col) && decide (l.idx = r.line)

/-- Lines as (tile, direction, index), each once. -/
def lineIds (l : List LineReq) : List (Nat × Bool × Nat) :=
  (l.map (fun r => (r.op.tile, r.op.col, r.line))).eraseDups

/-- Load the latches of a request (R157), then detect parity on the lines that a port read. -/
def loadLatches (c : Core) (accs : List Nat) (l : List LineReq) (ported : List (Nat × Bool × Nat)) :
    Core × List CoreEv :=
  let bad := (l.filter (fun r => ported.contains (r.op.tile, r.op.col, r.line))).flatMap (fun r => badTile c r.op r.line)
  let c := l.foldl (fun c r =>
    if latched c r then c
    else
      { c with tile := { c.tile with latch := tset none c.tile.latch (8 * r.eng + r.pos) (some (readLine c r.op r.line)) } }) c
  detectAll c accs bad.eraseDups

/-- The line that a position's latch holds. -/
def lineAt (c : Core) (e pos : Nat) : Latch := (latchOf c e pos).getD { tile := 0, col := false, idx := 0, lanes := 0 }

/-- Values of positions 0 to `n` − 1 of an operand for each k-element of step `s`. -/
def opVals (o : TileOp) (l : Latch) (rank s n : Nat) : List (List Val) :=
  (List.range rank).map (fun j => (List.range n).map (fun p => operandVal o l (kIndex o rank s j) p))

/-- The two's-complement value of lane `i` of a line. -/
def laneInt (l : Line) (i : Nat) : Int := sgn 16 (laneOf l i)

/-- The raw word that a pass of OPA.MP ILO (mode 0) or IHI (mode 1) writes to cell (r, c) (Table 8.7). -/
def mpWord (mode : Nat) (lx ly : Line) (r c : Nat) : Nat :=
  unsgn 32 (laneInt lx r * laneInt ly c) / 2 ^ (16 * mode) % 65536

/-- One granted step of an OPA-family, element-wise or multi-pass instruction whose lines are latched. -/
def doStep (c : Core) (it : QItem) : Core × List CoreEv :=
  match it.op with
  | .opa engs _ rank => engs.foldl (fun (s : Core × List CoreEv) e =>
      let (c, ev) := detectAll s.1 it.op.accs (badCells s.1 e.1 none)
      let (c, ev') := kSquare c e.1 (opVals e.2.1 (lineAt c e.1 0) rank it.done 64)
        (opVals e.2.2 (lineAt c e.1 1) rank it.done 64)
      (c, s.2 ++ ev ++ ev')) (c, [])
  | .opaW a tb f elems scales kf _ rank =>
    let (c, ev) := detectAll c [a] (badCells c a none)
    let col := (List.range rank).map (fun j => (List.range 16).map (fun m =>
      scaledElem f ((elems[m * kf + (it.done * rank % kf + j)]?).getD 0) ((scales[m]?).getD 0)))
    let quarter (q : Nat) := opVals { tb with tile := tb.tile + q } (lineAt c a (1 + q)) rank it.done 64
    let row := (List.range rank).map (fun j => (List.range 4).flatMap (fun q => ((quarter q)[j]?).getD []))
    let (c, ev') := kWide c a col row
    (c, ev ++ ev')
  | .emul a wide mul bcast d =>
    let q := it.done
    let (c, ev) := detectAll c [a] (badCells c a (some q))
    let acc := accOf c a
    let l := lineAt c a (if wide then 1 + q % 4 else 1)
    let r := d.row + (if bcast then 0 else if wide then q / 4 else q)
    let (v, o, n) := putRow c acc q (fun i =>
      let x := bf (cellOf acc (64 * q + i))
      let y := lineVal d.shape l r (d.col + i)
      some (if mul then x.mul y else sumVals [x, y]))
    let v := if q = 63 then { v with kcount := v.kcount + 1 } else v
    let (c, ev') := markAcc (setAcc c a v) a o n false
    (c, ev ++ ev')
  | .mp a mode x y _ _ =>
    let (c, ev) := detectAll c [a] (badCells c a none)
    let acc := accOf c a
    let lx := (lineAt c a 0).lanes
    let ly := (lineAt c a 1).lanes
    if mode < 2 then
      let rows := (List.range 64).foldl (fun t q =>
        tset 0 t q (BitVec.ofNat 1024 ((List.range 64).foldl (fun s i =>
          s + mpWord mode lx ly q i * 2 ^ (16 * i)) 0))) acc.cells
      (setAcc c a { acc with cells := rows, bad := [] }, ev)
    else
      let el (o : TileOp) (l : Line) (i : Nat) : Val := decodeElem o.shape.fmt (laneOf l i)
      let (v, o, n) := putAll c acc (List.range 32) (fun q i =>
        let m := i / 2
        if i % 2 ≠ mode - 2 then none
        else
          let ar := el x lx (2 * q)
          let ai := el x lx (2 * q + 1)
          let br := el y ly (2 * m)
          let bi := el y ly (2 * m + 1)
          some (if mode = 2 then sumVals [ar.mul br, (ai.mul bi).negate] else sumVals [ar.mul bi, ai.mul br]))
      let (c, ev') := markAcc (setAcc c a v) a o n false
      (c, ev ++ ev')
  | _ => (c, [])

/-- Steps that an instruction takes in all. -/
def EngOp.steps : EngOp → Nat
  | .opa _ k _ => k
  | .opaW _ _ _ _ _ _ k _ => k
  | .clr .. => 0
  | .rd .. | .wr .. | .emul .. => 64
  | .mp .. | .emit .. => 1

/-- Write one logical row of a Skiver destination (R45, R46, R48, R124, R173): `raw` is the exact copy into a BF16 tile,
`fp16` that the source elements are FP16. Gives OVF, NF and the census counts. -/
def skRow (c : Core) (d : Dest) (r : Rand) (row : Nat) (els : List ConvElem) (raw : Option (List (Nat × Nat)))
    (fp16 : Bool) : Core × Bool × Bool × Counts :=
  let s := d.shape
  let put (c : Core) (l : List (Nat × Nat)) : Core :=
    l.foldl (fun c e => setTileElem c d.tile s row e.1 (laneOfCode s.fmt e.2)) c
  match raw with
  | some l => (put c l, false, false, {})
  | none =>
    let via := fp16 && s.fmt.scaled
    let pre := els.map (fun e => if via then (let (v, o, n) := viaBf16 e.r e.val; ({ e with val := v }, o, n)) else (e, false, false))
    let els := pre.map (·.1)
    let o₀ := pre.any (fun e => e.2.1)
    let n₀ := pre.any (fun e => e.2.2)
    if !s.fmt.scaled then
      let g := convGroup s.fmt 0 els
      (put c g.codes, g.ovf, g.nf, if s.fmt = .bf16 then {} else g.cnt)
    else
      let keys := (els.map (fun e => s.scaleAt row e.idx)).eraseDups
      keys.foldl (fun (a : Core × Bool × Bool × Counts) b =>
        let blk := els.filter (fun e => decide (s.scaleAt row e.idx = b))
        let vs := blk.map (·.val)
        let z := zscaleOf r.skcfg
        let sc := if s.smode = 1 then dynamicScale s.fmt z vs
          else if row % 32 = 0 then headroomScale s.fmt z (headOf s.fmt r.skcfg) vs
          else tileScale a.1 d.tile b
        let g := convGroup s.fmt sc blk
        (put (setTileScale a.1 d.tile b g.scale) g.codes, a.2.1 || g.ovf, a.2.2.1 || g.nf, addCounts a.2.2.2 g.cnt))
        (c, o₀, n₀, {})

/-- The census event of a Skiver write into a tile (R175). -/
def skCensus (d : Dest) (n : Counts) : List CoreEv :=
  if n.elems = 0 then []
  else if !bitAt d.cfg 32 then [.count true none n]
  else if bitAt d.cfg 33 then [.count true (some (field d.cfg 34 10)) n]
  else []

/-- Clear the latches that hold a line of a tile (R157). -/
def dropLatches (c : Core) (tiles : List Nat) : Core :=
  let keep := c.tile.latch.filter (fun e => match e.2 with | none => true | some l => !tiles.contains l.tile)
  { c with tile := { c.tile with latch := keep } }

/-- One Skiver row: row `n` of an ACC.RD, or a VEMIT. A quarter of a wide row is counted by the TCFG of the tile that it is
written to, which a TCFG write cannot change before the instruction has finished (R175, R149). -/
def skStep (c : Core) (it : QItem) : Core × List CoreEv :=
  match it.op with
  | .rd a wide d e r =>
    let q := it.done
    let (c, ev) := detectAll c [a] (badCells c a (some q))
    let acc := accOf c a
    let row := if wide then q / 4 else q
    let col0 := if wide then 64 * (q % 4) else 0
    let shift (d : Dest) : Dest := if wide then { d with tile := d.tile + q % 4, cfg := tcfg c (d.tile + q % 4) } else d
    let one (c : Core) (d : Dest) : Core × Bool × Bool × Counts :=
      let d := shift d
      let els := (List.range 64).map (fun i =>
        let v := bf (cellOf acc (64 * q + i))
        let ix := r.base + BitVec.ofNat 48 (row * r.stride.toNat + col0 + i)
        ({ idx := d.col + i, src := v, val := v, r := srng c.cr.seed r.tag ix (c.cr.stepno.setWidth 32) } : ConvElem))
      let raw := if d.shape.fmt = .bf16 then
          some ((List.range 64).map (fun i => (d.col + i, (cellOf acc (64 * q + i)).toNat)))
        else none
      skRow c d r (d.row + row) els raw false
    let (c, o, n, k) := one c d
    let (c, o', n') := match e with
      | none => (c, false, false)
      | some e => let (c, o', n', _) := one c e; (c, o', n')
    let c := setFlags c (flagIf (o || o') fOVF ||| flagIf (n || n') fNF)
    (dropLatches c it.op.writes, ev ++ skCensus (shift d) k)
  | .emit fp16 d e els r =>
    let ce (c : Core) (d : Dest) : List ConvElem := els.map (fun x =>
      { idx := d.col + x.pos, src := x.val, val := x.val,
        r := srng c.cr.seed r.tag (r.base + BitVec.ofNat 48 x.pos) (c.cr.stepno.setWidth 32) })
    let (c, o, n, k) := skRow c d r d.row (ce c d) none fp16
    let (c, o', n') := match e with
      | none => (c, false, false)
      | some e => let (c, o', n', _) := skRow c e r e.row (ce c e) none fp16; (c, o', n')
    let c := setFlags c (flagIf (o || o') fOVF ||| flagIf (n || n') fNF)
    (dropLatches c it.op.writes, skCensus d k)
  | _ => (c, [])

/-- One ACC.WR read: row line `n` (R176). -/
def wrStep (c : Core) (it : QItem) : Core × List CoreEv :=
  match it.op with
  | .wr a wide d =>
    let q := it.done
    let (o, l) := emulLine wide false d q
    let (c, ev) := detectAll c [a] (badTile c o l)
    let acc := accOf c a
    let (v, ov, n) := putRow c acc q (fun i =>
      some (tileVal c o.tile d.shape (d.row + (if wide then q / 4 else q)) (d.col + i)))
    let v := if q = 63 then { v with kcount := v.kcount + 1 } else v
    let (c, ev') := markAcc (setAcc c a v) a ov n false
    (c, ev ++ ev')
  | _ => (c, [])

/-- ACC.CLR (R172). -/
def clrStep (c : Core) (it : QItem) : Core :=
  match it.op with
  | .clr a wide tag => setAcc c a { wide := wide, atag := tag }
  | _ => c

/-- Change the item at position `i`. -/
def bumpAt (q : List QItem) (i : Nat) : List QItem :=
  q.zipIdx.map (fun e => if e.2 = i then { e.1 with done := e.1.done + 1 } else e.1)

/-- The position of the first item that satisfies `p`. -/
def posOf (q : List QItem) (p : QItem → Bool) : Option Nat := q.findIdx? p

/-- Is the item served by the engines' grants? -/
def engItem (o : EngOp) : Bool :=
  match o with
  | .opa .. | .opaW .. | .emul .. | .mp .. => true
  | _ => false

/-- Ports that a Skiver row takes (R158). -/
def skPorts (o : EngOp) : Nat :=
  match o with
  | .rd _ _ _ e _ => if e.isSome then 2 else 1
  | .emit _ _ e .. => if e.isSome then 2 else 1
  | _ => 0

/-- The state that the grants of a cycle thread: core, events, ports left, lines granted, last engine granted. -/
structure Grant where
  c     : Core
  ev    : List CoreEv
  free  : Nat
  lines : List (Nat × Bool × Nat)
  last  : Option Nat
  bump  : List Nat
  deriving DecidableEq, Repr

/-- Consider engine `e` of the rotation: the request of the lowest engine of a set (R158). DESIGN CHOICE (log 67): a bad line that a
port reads and that is broadcast in the same cycle sets PE in the accumulators of the instruction that spent the port
alone (R181). -/
def considerEng (q₀ : List QItem) (wideOnly : Bool) (g : Grant) (e : Nat) : Grant :=
  match posOf q₀ (fun it => engItem it.op && it.op.accs.contains e) with
  | none => g
  | some i =>
    match q₀[i]? with
    | none => g
    | some it =>
      let isW := match it.op with | .opaW .. => true | _ => false
      if !qReady q₀ i || it.op.steps ≤ it.done || it.op.accs.foldl min 4 ≠ e || (wideOnly && !isW) then g
      else
        let reqs := lineReqs it
        let need := (lineIds (reqs.filter (fun r => !latched g.c r))).filter (fun l => !g.lines.contains l)
        if g.free < need.length then g
        else
          let (c, ev) := loadLatches g.c it.op.accs reqs need
          let (c, ev') := doStep c it
          { c := c, ev := g.ev ++ ev ++ ev', free := g.free - need.length, lines := g.lines ++ need,
            last := some (it.op.accs.foldl max 0), bump := g.bump ++ [i] }

/-- One core cycle of the tile queue (R158, R164). `engines` is false in a cycle in which the fast current limit holds
the engines back (R367). DESIGN CHOICE (log 67): the line that an ACC.WR reads in the cycle is no line granted to an engine;
an engine that names it spends a port. -/
def kCycle (engines : Bool) (c : Core) : Core × List CoreEv :=
  let c := injBad c
  let q₀ := c.tile.queue
  let run (s : Core × List CoreEv × List Nat × Nat) (p : QItem → Bool) (f : Core → QItem → Core × List CoreEv)
      (ports : EngOp → Nat) : Core × List CoreEv × List Nat × Nat :=
    match posOf q₀ p with
    | none => s
    | some i =>
      match q₀[i]? with
      | none => s
      | some it =>
        if qReady q₀ i then
          let (c, ev) := f s.1 it
          (c, s.2.1 ++ ev, s.2.2.1 ++ [i], s.2.2.2 - ports it.op)
        else s
  let s := run (c, [], [], 4) (fun it => it.op.skiver) skStep skPorts
  let s := run s (fun it => match it.op with | .wr .. => true | _ => false) wrStep (fun _ => 1)
  let wideOnly := (List.range q₀.length).any (fun i => qReady q₀ i &&
    (match q₀[i]? with | some ⟨.opaW _ _ _ _ _ _ k _, n⟩ => decide (n < k) | _ => false))
  let g : Grant := { c := s.1, ev := s.2.1, free := s.2.2.2, lines := [], last := none, bump := s.2.2.1 }
  let g := if engines then
      [0, 1, 2, 3].foldl (fun g j => considerEng q₀ wideOnly g ((c.tile.rot + j) % 4)) g
    else g
  let c' := g.c
  let zero := (List.range q₀.length).filter (fun i => qReady q₀ i &&
    (match q₀[i]? with | some it => decide (it.op.steps = 0) | none => false))
  let c' := zero.foldl (fun c i => match q₀[i]? with | some it => clrStep c it | none => c) c'
  let rot := match g.last with | none => c.tile.rot | some e => (e + 1) % 4
  let q := g.bump.foldl bumpAt q₀
  let q := (q.zipIdx.filter (fun e => !(zero.contains e.2) && !(g.bump.contains e.2 && decide (e.1.op.steps ≤ e.1.done)))).map (·.1)
  ({ c' with tile := { c'.tile with queue := q, rot := rot, cycles := c.tile.cycles + 1 } }, g.ev)

/-- Has every queued instruction that stands before an access to tile `t` finished with it: any for a TCFG write (R149), one
that conflicts for a tile access (R148)? -/
def tileFree (t : Nat) (write any : Bool) (c : Core) : Bool :=
  c.tile.queue.all (fun e => !(e.op.writes.contains t || ((write || any) && e.op.reads.contains t)))

/-- Does no queued instruction name the accumulator (R178)? -/
def accFree (a : Nat) (c : Core) : Bool := c.tile.queue.all (fun e => !e.op.accs.contains a)

/-- The queue holds 16 instructions (R147). -/
def queueFull (c : Core) : Bool := decide (16 ≤ c.tile.queue.length)

/-- Enter a checked instruction into the tile queue. -/
def enqueue (o : EngOp) (c : Core) : Core := { c with tile := { c.tile with queue := c.tile.queue ++ [{ op := o }] } }

/-- A queued instruction at issue: once its checks pass it enters the queue, or waits at issue while that is full (R147). -/
def bQueue (r : Except Trap EngOp) (c : Core) : CoreRes :=
  match r with
  | .error t => .trap c t
  | .ok o => if queueFull c then .hold else ok (enqueue o c)

/-- The status word of Table 8.5. -/
def accStatus (a : Acc) : Word :=
  place (b2n a.pe) 39 1 ||| place (b2n a.nf) 38 1 ||| place (b2n a.ovf) 37 1 ||| place (b2n a.wide) 36 1 |||
    place a.kcount.toNat 0 36

/-- ACC.GETS (R178). -/
def bGets (w : BitVec 32) (acc : Nat) (rd : Reg) (sel : Bool) (c : Core) : CoreRes :=
  if engIllegal c [acc] then .trap c (tIllegal w)
  else if !accFree acc c then .hold
  else
    let a := accOf c acc
    ok (xset c rd (if sel then a.atag.setWidth 64 else accStatus a))

/-- ACC.PUTS (R178): reports nothing (R165). -/
def bPuts (w : BitVec 32) (acc : Nat) (rs1 : Reg) (sel : Bool) (c : Core) : CoreRes :=
  if engIllegal c [acc] then .trap c (tIllegal w)
  else if !accFree acc c then .hold
  else
    let a := accOf c acc
    let v := xget c rs1
    let a := if sel then { a with atag := v.setWidth 32 }
      else { a with kcount := v.setWidth 36, wide := bitAt v 36, ovf := bitAt v 37, nf := bitAt v 38, pe := bitAt v 39 }
    ok (setAcc c acc a)

end Sys2Proof.Machine
end

