-- ==== Sys2Proof/Machine/UnitState.lean ====
section
/-! DEFINITION. The state of the compute dies' shared units: L2 and control cache (10), sync unit (11), census (09),
Stitchers, Awls and Tannery (12), Harness queues, regions and tasks (09, 13, 14). -/

namespace Sys2Proof.Machine

/-- Bytes in error among the 36 symbols of a protected sector: (symbol, bits flipped) (R324). -/
abbrev ErrPat := List (Nat × Byte)

/-- An L2 line or an empty locked entry (R219, R220). `poison` marks poisoned sectors; `errs` holds the error pattern
of a sector; `track` is the source of a prefetch, 0 to 15 the Stitcher of a device cluster and 16 + d the Tannery of die d
(R282). -/
structure L2Line where
  line   : Nat
  valid  : BitVec 4 := 0
  dirty  : BitVec 4 := 0
  data   : Line := 0
  poison : BitVec 4 := 0
  errs   : Tbl ErrPat := []
  dead   : Bool := false
  track  : Option Nat := none
  deriving DecidableEq, Repr

/-- A request that waits at a slice (R221). -/
structure L2Wait where
  pa  : Nat
  req : L2Req
  deriving DecidableEq, Repr

/-- A miss register of a slice: its line, the way reserved, its requests oldest first, whether a prefetch opened it and
whether a demand read has joined it since (R282). -/
structure L2Miss where
  line   : Nat
  way    : Nat
  reqs   : List L2Wait
  pref   : Option Nat := none
  demand : Bool := false
  deriving DecidableEq, Repr

/-- A slice. Way w of set s is key 16s + w of `ways`. -/
structure Slice where
  ways   : Tbl (Option L2Line) := []
  miss   : List L2Miss := []
  queue  : List L2Wait := []
  lim    : Word := 16
  hitN   : Nat := 0
  missN  : Nat := 0
  wb     : Nat := 0
  deadrd : Nat := 0
  retry  : Nat := 0
  refuse : Nat := 0
  qfull  : Nat := 0
  deriving DecidableEq, Repr

/-- A control-cache half: sets most recently used first, and its counters (Table 10.7). -/
structure CcHalf where
  sets  : Tbl (List CLine) := []
  hitN  : Nat := 0
  missN : Nat := 0
  link  : Nat := 0
  snoop : Nat := 0
  deriving DecidableEq, Repr

/-- A locked range (R226). -/
structure LockRange where
  part : Nat
  base : Nat
  len  : Nat
  deriving DecidableEq, Repr

/-- A held contribution (R231). -/
structure Held where
  rank : Nat
  mask : BitVec 4
  data : Line
  deriving DecidableEq, Repr

/-- One line of a reduction group: its sum with its poisoned sectors, the ranks received, NEXT and the held
contributions. -/
structure RedLine where
  sum    : Line := 0
  poison : BitVec 4 := 0
  got    : BitVec 16 := 0
  nxt    : Nat := 0
  held   : List Held := []
  deriving DecidableEq, Repr

/-- An open reduction group (R228). Line i of the range is key i of `lines`. -/
structure Group where
  part    : Nat
  g       : Nat
  base    : Nat
  len     : Nat
  ordered : Bool
  ranks   : Nat
  step    : BitVec 32
  done    : Nat
  status  : Nat
  timeout : Nat
  opened  : Nat
  lines   : Tbl RedLine := []
  nstep   : Nat := 0
  ndup    : Nat := 0
  nother  : Nat := 0
  wr      : Bool := false
  nf      : Bool := false
  ovf     : Bool := false
  deriving DecidableEq, Repr

/-- The use of a way (R222): 0 normal, 1 locked, 2 reduction, and its partition. -/
structure WayUse where
  use  : Nat := 0
  part : Nat := 0
  deriving DecidableEq, Repr

/-- Who waits in a waiter table (R258). -/
inductive Who where
  | core (c : Nat)
  | arm (c slot : Nat)
  | ctx (cluster ctx : Nat)
  | pkt (q : QId) (pos idx : Nat)
  deriving DecidableEq, Repr

/-- A pending wait. -/
structure SWait where
  who  : Who
  obj  : Nat
  cond : Nat
  val  : Word
  deriving DecidableEq, Repr

/-- The sync unit of a die (R245, Table 11.11). `arr` holds the device, the poison object (a SYNC of Table 9.11; none
where a frame brought the signal, which names none) and the value of the PSN SIGNAL that last set an object, while no local
operation has changed it since (R203). -/
structure SyncUnit where
  vals     : Tbl Word := []
  arr      : Tbl (Option (Nat × Option Nat × Word)) := []
  waits    : List SWait := []
  signals  : Nat := 0
  waitsN   : Nat := 0
  rnak     : Nat := 0
  rrefused : Nat := 0
  deriving DecidableEq, Repr

/-- A census slot (Tables 9.2 to 9.5); PART is computed from the block's owner. -/
structure CSlot where
  ctl    : Word := 0x0040000000000000
  thr    : Word := 0
  lstep  : BitVec 32 := 0
  streak : Nat := 0
  flags  : BitVec 4 := 0
  cur    : Counts := {}
  last   : Counts := {}
  shadow : Counts := {}
  deriving DecidableEq, Repr

/-- The census unit of a die: slots, and the unenrolled count of each partition (R185). -/
structure Census where
  slots : Tbl CSlot := []
  unenr : Tbl Nat := []
  deriving DecidableEq, Repr

/-- A pattern (R269): base register, wrap, strides by level, indirection. -/
structure Pat where
  base   : Nat := 0
  wrap   : Nat := 0
  stride : Tbl (BitVec 40) := []
  ind    : Bool := false
  ibase  : Nat := 0
  iw64   : Bool := false
  ish    : Nat := 0
  deriving DecidableEq, Repr

/-- A loop level of a context (R268). -/
structure SLoop where
  idx   : Nat := 0
  count : Nat := 0
  start : Nat := 0
  stop  : Nat := 0
  deriving DecidableEq, Repr

/-- The state of a context (Table 12.9). -/
inductive CtxSt where
  | unbound | idle | running | held | faulted
  deriving DecidableEq, Repr

/-- A stream context (R262 to R266). `burst` holds descriptors read, by position; `prog` is the program store and
`lastProg` the PROG and LENM1 it was read from, kept while they may be used again; `ended` that the run has no instruction
left; `pkt` is the RUN packet that owns the binding; `red` the contributions of a RED from the first that a local slice has
answered with RETRY, each with the device it goes to, and `retries` the RETRY answers to that first one; `addrs` the addresses
that the execution in hand has of its source (0) and destination (1) patterns, each index read once (R273). -/
structure SCtx where
  st       : CtxSt := .unbound
  ctl      : Word := 0x0000000000010000
  ring     : Word := 0
  tag      : BitVec 16 := 0
  pc       : Nat := 0
  reason   : Nat := 0
  sub      : Nat := 0
  pos      : Nat := 0
  faddr    : Word := 0
  a        : Tbl Word := []
  pats     : Tbl Pat := []
  loops    : Tbl SLoop := []
  depth    : Nat := 0
  progLen  : Nat := 0
  prog     : Tbl Word := []
  lastProg : Option (Word × Nat) := none
  intr     : Bool := false
  burst    : Tbl (BitVec 256) := []
  pkt      : Option (QId × Nat) := none
  ended    : Bool := false
  red      : List (Option Nat × Contribution) := []
  retries  : Nat := 0
  addrs    : Tbl (Option Word) := []
  deriving DecidableEq, Repr

/-- A receiver of a multicast run: its entry words, the buffers it has received, whether a buffer is on its way to another
device, whether it is detached or dropped. -/
structure Recv where
  e0       : Word
  e1       : Word
  got      : Nat := 0
  flight   : Bool := false
  detached : Bool := false
  dropped  : Bool := false
  deriving DecidableEq, Repr

/-- One buffer of a multicast run whose delivery is not finished: its index in the run, its sequence number, landing-buffer
offset, source address and length; its bytes, while an attached receiver lacks them. -/
structure McBuf where
  idx   : Nat
  seqNo : Nat
  off   : Nat
  src   : Word
  len   : Nat
  data  : List Byte
  deriving DecidableEq, Repr

/-- An active multicast run (R275 to R279): its number, the context and the instruction, the detach threshold, the receivers,
the buffers that some receiver lacks, the number of buffers fetched, the tick since which the context has held, and whether
its descriptor run has ended by a fault. -/
structure McRun where
  id     : Nat
  ctx    : Nat
  pc     : Nat
  detach : Nat
  recvs  : List Recv
  bufs   : List McBuf := []
  next   : Nat := 0
  since  : Option Nat := none
  left   : Bool := false
  deriving DecidableEq, Repr

/-- Prefetch counters ISSUED, USED, LATE, EVICTED, NEVER (R282). -/
structure PfCnt where
  issue : Nat := 0
  used  : Nat := 0
  late  : Nat := 0
  evict : Nat := 0
  never : Nat := 0
  deriving DecidableEq, Repr

/-- A Stitcher (Table 12.6). -/
structure Stitcher where
  ctxs     : Tbl SCtx := []
  runs     : List McRun := []
  retrylim : Word := 4096
  bytes    : Nat := 0
  pf       : PfCnt := {}
  retry    : Nat := 0
  redref   : Nat := 0
  mcdetach : Nat := 0
  deriving DecidableEq, Repr

/-- An Awl (Table 12.6). -/
structure Awl where
  elems  : Nat := 0
  lines  : Nat := 0
  faults : Nat := 0
  deriving DecidableEq, Repr

/-- A Tannery transfer (R280): `next` is the next byte offset to move; `bad` the lowest poisoned address read. -/
structure Transfer where
  q    : QId
  pos  : Nat
  part : Nat
  pref : Bool
  src  : Word
  dst  : Word
  len  : Nat
  next : Nat := 0
  bad  : Option Nat := none
  deriving DecidableEq, Repr

/-- A token bucket (R281): bytes left and the tick of the last refill. -/
structure Bucket where
  bytes : Nat := 65536
  at_   : Nat := 0
  deriving DecidableEq, Repr

/-- The Tannery of a die: the first 16 transfers are active. -/
structure Tannery where
  rate    : Tbl Word := []
  moves   : List Transfer := []
  wr      : Tbl Bucket := []
  rd      : Tbl Bucket := []
  pf      : PfCnt := {}
  offB    : Nat := 0
  pfB     : Nat := 0
  deriving DecidableEq, Repr

/-- A reply to write (Table 14.4). -/
structure Reply where
  pos    : Nat
  part   : Nat
  op     : Byte
  seqNo  : BitVec 16
  status : Byte
  detail : Word
  irq    : Bool
  deriving DecidableEq, Repr

/-- Where a packet stands: read and waiting for its turn, or begun. -/
inductive PktSt where
  | waiting
  | begun
  deriving DecidableEq, Repr

/-- A packet that its queue has read (R304, R308). `sat` are its satisfied wait pairs; `since` the moment at which they
all were, by `State.order` (R281, R299); `began` the tick at which it began; `work` what an opcode that goes on over several steps has left to do. -/
structure Pkt where
  pos     : Nat
  h0      : Word
  h1      : Word
  w       : List Word
  st      : PktSt := .waiting
  sat     : BitVec 4 := 0
  asked   : Bool := false
  since   : Nat := 0
  began   : Nat := 0
  work    : List Word := []
  deriving DecidableEq, Repr

/-- A signal of a packet to perform: the object and operation as a pair word gives them, v, and the acting partition. -/
structure SigPair where
  word : Word
  val  : Word
  part : Nat
  deriving DecidableEq, Repr

/-- A layer region (R193 to R202). `part` is the partition that its LAYER_BEGIN acts for, which held the block then. -/
structure Region where
  startPos   : Nat
  len        : Nat
  rung       : Nat
  attempt    : Nat := 0
  blockDie   : DieId
  block      : Nat
  part       : Nat := 0
  ovf        : Bool := false
  nf         : Bool := false
  pe         : Bool := false
  peInj      : Bool := false
  firstCore  : Nat := 0
  firstAcc   : Nat := 0
  bad        : Option (Nat × Byte × Word) := none
  beginReply : Option Reply := none
  beginSigs  : List SigPair := []
  replies    : List Reply := []
  sigs       : List (Nat × SigPair) := []
  deriving DecidableEq, Repr

/-- A poisoning arrival: the sending device, the value, and the request to acknowledge (R203). -/
structure Arrival where
  dev : Nat
  val : Word
  tag : Option Nat := none
  deriving DecidableEq, Repr

/-- A command queue (Tables 9.9, 13.1, 14.1). `nextPos` is the next position to read; `killed` that PART_DESTROY
stopped it; `arrivals` the poisoning arrivals not yet acknowledged; `stepPart` the partition that the open step's STEP_BEGIN
acts for; `sigWait` the signals of its packets, by position, that wait until the earlier ones have been applied (R254);
`passed` the queues of its die, by `qKey`, that have begun a packet since the next one here could begin (R314). -/
structure Queue where
  cfg      : Word := 0
  qbase    : Word := 0
  qrbase   : Word := 0
  tail     : Word := 0
  rtail    : Nat := 0
  rdone    : Word := 0
  stop     : Bool := false
  cause    : Nat := 0
  killed   : Bool := false
  nextPos  : Nat := 0
  pkts     : List Pkt := []
  waitRep  : List Reply := []
  stepCtr  : Word := 0
  pobj     : BitVec 13 := 0
  plen     : Nat := 0
  plist    : List Word := []
  stepOpen : Bool := false
  stepPart : Nat := 0
  poisoned : Bool := false
  replayed : Bool := false
  psnTags  : List Nat := []
  region   : Option Region := none
  undeliv  : Nat := 0
  arrivals : List Arrival := []
  sigWait  : List (Nat × SigPair) := []
  passed   : List Nat := []
  deriving DecidableEq, Repr

/-- A task: the LAUNCH that started it, its partition, its cores and the end status of those that have ended (R318).
`stopped` tells that the Harness has stopped its cores since one of them wedged (R92). -/
structure Task where
  q     : QId
  pos   : Nat
  part  : Nat
  cores : List Nat
  ended : List (Nat × Byte)
  rung  : Nat
  region : Bool
  stopped : Bool := false
  deriving DecidableEq, Repr

/-- The shared units of a compute die. `cyc` counts core cycles, `unc` is the always-on tick at which the die's UNC
domain last powered up. -/
structure Die where
  slices  : Tbl Slice := []
  ways    : Tbl WayUse := []
  locks   : List LockRange := []
  groups  : List Group := []
  cc      : Tbl CcHalf := []
  sync    : SyncUnit := {}
  census  : Census := {}
  stc     : Tbl Stitcher := []
  awl     : Tbl Awl := []
  tny     : Tannery := {}
  queues  : Tbl Queue := []
  cyc     : Nat := 0
  unc     : Nat := 0
  deriving DecidableEq, Repr

/-- A cluster: its owner, whether it is retired or in test mode, its translation buffer (R80). -/
structure Cluster where
  owner   : Nat := 0
  retired : Bool := false
  test    : Bool := false
  tlb     : List Tlb := []
  deriving DecidableEq, Repr

end Sys2Proof.Machine
end

