-- ==== Sys2Proof/Machine/SystemState.lean ====
section
/-! DEFINITION. The state outside the compute dies' shared units: main memory and its channels, host ports (15), the
Lumette fabric and Ethernet (16), power (17), boot and security (18), service (19), straps and test port (20). -/

namespace Sys2Proof.Machine

/-- A memory channel (Table 15.3). `state` is MIO_STATE.STATE; `pos` the next burst of each sub-channel's patrol;
`pins` the corrected bursts of the period with an error on a DQ, key 16 × sub-channel + DQ; `pinInj` the sub-channels
whose erased DQ an injection marked (R403); `sleep` that the channel is in self-refresh since tick `sleptAt`, `slept` the
ticks of its earlier sleeps (R330); `lastReq` the tick of its last request; `refr` the refreshes done, by bank. -/
structure Chan where
  ce      : Nat := 0
  ue      : Nat := 0
  poison  : Nat := 0
  scrub   : Word := 24
  sref    : Word := 100
  erase   : Word := 0
  state   : Nat := 0
  pos     : Tbl Nat := []
  pins    : Tbl Nat := []
  pinInj  : BitVec 2 := 0
  sleep   : Bool := false
  sleptAt : Nat := 0
  slept   : Nat := 0
  lastReq : Nat := 0
  refr    : Tbl Nat := []
  deriving DecidableEq, Repr

/-- A retired frame (R331): its frame number PA >> 12 and whether it is hard. -/
structure Retired where
  frame : Nat
  hard  : Bool
  deriving DecidableEq, Repr

/-- Main memory: bytes, poisoned sectors and error patterns by sector number PA >> 5 (R324, R327), channels by
128d + n, retirement tables by die with the frames retired
since boot, and the corrected bursts by frame, with their channel and its active ticks then (R330, R331). -/
structure MemSys where
  cells   : List Host.Cell := []
  poison  : Tbl Bool := []
  errs    : Tbl ErrPat := []
  chans   : Tbl Chan := []
  retired : Tbl (List Retired) := []
  retN    : Tbl Nat := []
  softs   : List (Nat × Nat × Nat) := []
  deriving DecidableEq, Repr

/-- Who waits for an answer from the host or another device: a core, a packet, a stream context, a Tannery, a queue's
Harness (ring reads), a multicast receiver of a context, or a ring pair of an Ethernet port. -/
inductive Agent where
  | core (c : Nat)
  | pkt (q : QId) (pos : Nat)
  | ctx (cluster ctx : Nat)
  | tny (die : Nat)
  | ring (q : QId)
  | sync (part : Nat)
  | eth (port part : Nat)
  deriving DecidableEq, Repr

/-- An outstanding host-window read (R337, R338). -/
structure HostReq where
  who  : Agent
  pa   : Nat
  len  : Nat
  part : Nat
  sent : Nat
  deriving DecidableEq, Repr

/-- Why a read failed: the host link or completion (15), a poisoned source (EP or REASON 8) with the offset of its lowest
sector in the read, a refusal with its REASON, an undelivered request, or no route. -/
inductive ReadFail where
  | host
  | poisoned (off : Nat)
  | refuse (reason : Nat)
  | undeliv
  | noRoute
  deriving DecidableEq, Repr

/-- An answer that arrived for an agent and has not been used; `inj` that an injection made it fail (R403). -/
structure Ans where
  who   : Agent
  addr  : Nat
  len   : Nat
  bytes : List Byte
  fail  : Option ReadFail := none
  inj   : Bool := false
  deriving DecidableEq, Repr

/-- A host port (Table 15.7). `root` is HPT_STRAP.MODE. `reqs` are its outstanding reads by tag; `masks` and `pendv` the Mask
and Pending bits of its MSI-X vectors, by 64 × function + vector (R335). -/
structure HPort where
  root   : Bool := false
  link   : Word := 0
  cto    : Nat := 0
  urca   : Nat := 0
  ep     : Nat := 0
  linkdn : Nat := 0
  msi    : Word := 0
  wxlat  : Tbl Word := []
  reqs   : Tbl (Option HostReq) := []
  masks  : Tbl Bool := []
  pendv  : Tbl Bool := []
  deriving DecidableEq, Repr

/-- The state of a Lumette port (Table 16.5). -/
inductive PortSt where
  | disabled | training | hello | check | up | miswired
  deriving DecidableEq, Repr

/-- The STATE code of a port (Table 16.5). -/
def PortSt.code : PortSt → Nat
  | .disabled => 0 | .training => 1 | .hello => 2 | .check => 3 | .up => 4 | .miswired => 5

/-- A Lumette port (R345, R346, R358, Table 16.6). `width` is the WIDTH code, `half` the half-width restriction of
LINK_CTRL, `dead` the lanes an injection silences. `txSeq` numbers the next frame sent, `rxSeq` is the frame expected;
`retry` holds the frames sent and not acknowledged, `wait` the frames that wait for credit; `credit` the units held per
VC beyond the reset 1,024; `nakSent` that a NAK was sent since the last in-sequence frame; `nakSeq`, `nakN` the last
NAK's number and how often it came; `sentN` how often this port has sent a NAK that names `rxSeq`; `hurt` that an injection spoiled a frame since the partner last acknowledged one
(R403); `heard` the tick of the last HELLO, `left` the tick at which the port left UP for a
retrain with its partner of then. -/
structure FPort where
  st      : PortSt := .disabled
  width   : Nat := 0
  half    : Bool := false
  pdev    : Nat := 0
  pport   : Nat := 0
  dead    : BitVec 16 := 0
  txSeq   : BitVec 16 := 0
  rxSeq   : BitVec 16 := 0
  retry   : List Frame := []
  wait    : List Frame := []
  used    : Tbl Nat := []
  owed    : Tbl Nat := []
  nakSent : Bool := false
  nakSeq  : BitVec 16 := 0
  nakN    : Nat := 0
  sentN   : Nat := 0
  heard   : Nat := 0
  left    : Option Nat := none
  hurt    : Bool := false
  crcerr  : Nat := 0
  feccorr : Nat := 0
  fecunc  : Nat := 0
  nak     : Nat := 0
  retrain : Nat := 0
  deriving DecidableEq, Repr

/-- Counters of a Lumette port that count bytes and bad frames (Table 16.6). -/
structure FCnt where
  tx  : Nat := 0
  rx  : Nat := 0
  bad : Nat := 0
  deriving DecidableEq, Repr

/-- What an outstanding fabric request does for its requester: a read of `len` bytes into place `off` of the read at
`addr`, a write with the address its requester named, a signal, a reduction line with its RETRY answers and whether one waits to be repeated (R271), a frame of
buffer `idx` of multicast run `run`, or a poisoning SIGNAL with its resends, whether HELD has come, and
whether a resend is due (R351). -/
inductive FKind where
  | read (addr total off len : Nat)
  | write (va : Word)
  | signal
  | red (retries : Nat) (due : Bool)
  | mcast (run idx : Nat)
  | psn (retries : Nat) (held due : Bool)
  deriving DecidableEq, Repr

/-- An outstanding request, by its TAG: who sent it, what for, the frame, the tick at which it was sent, and whether the
context that sent it has faulted since, so that its outcome faults no later binding (R263, R271). -/
structure FReq where
  who   : Agent
  kind  : FKind
  frame : Frame
  sent  : Nat
  stale : Bool := false
  deriving DecidableEq, Repr

/-- A ring pair (R364): its transmit and receive positions, the doorbells that it last saw, and the control words that it
read then. -/
structure EthPair where
  tpos : Nat := 0
  rpos : Nat := 0
  txdb : Word := 0
  rxdb : Word := 0
  ctl  : Word := 0
  txb  : Word := 0
  rxb  : Word := 0
  off  : Bool := false
  deriving DecidableEq, Repr

/-- An Ethernet port (R363 to R365): link state, counters, ring pairs by partition, and the pair that sent last. -/
structure EthPort where
  rate : Nat := 0
  tx   : Nat := 0
  rx   : Nat := 0
  fcs  : Nat := 0
  drop : Nat := 0
  pairs : Tbl EthPair := []
  last : Nat := 16
  deriving DecidableEq, Repr

/-- The fabric unit: ports, routes, requests, link-state advertisements by origin (version and port fields) and
the origin and version of the last one stored. -/
structure Fabric where
  ports  : Tbl FPort := []
  cnts   : Tbl FCnt := []
  rtab   : Tbl Word := []
  e2e    : Word := 10
  lsver  : Nat := 0
  late   : Nat := 0
  undel  : Nat := 0
  lsas   : Tbl (Option (Nat × BitVec 16)) := []
  lastLsa : Nat × Nat := (0, 0)
  reqs   : Tbl (Option FReq) := []
  nxtTag : Nat := 0
  eth    : Tbl EthPort := []
  deriving DecidableEq, Repr

/-- A power domain (Table 17.2). -/
inductive DomSt where
  | off | on | parked
  deriving DecidableEq, Repr

/-- The power unit (17). Domains are numbered 12d + i for the domains of CDd in the order of PWR_DSTAT, 24 STW.AON, 25
STW.MAIN, 26 + n LKn. Points are coded as POWER_SET codes them; `eff` is the point in force. `ilim` and `cap` are the fields
of PWR_LIMIT; `mv`, `ma` and `avgw` those of PWR_INPUT; `temps` the sensors by number and `lpddr` the hottest package. -/
structure Power where
  dom      : Tbl DomSt := []
  req      : Nat := 0
  capPt    : Nat := 0
  therm    : Nat := 0
  calMax   : Bool := false
  eff      : Nat := 0
  clctl    : Word := 0x0000010A00640000
  ilim     : Nat := 44
  cap      : Nat := 2800
  mv       : Nat := 0
  ma       : Nat := 0
  avgw     : Nat := 0
  tcrit    : Nat := 110
  tthrot   : Nat := 100
  temps    : Tbl (BitVec 16) := []
  lpddr    : BitVec 16 := 0
  capSteps : Nat := 0
  thSteps  : Nat := 0
  ilimCyc  : Nat := 0
  deriving DecidableEq, Repr

/-- What the power unit remembers between samples (R366, R367, R369, R370, R374, R376). `clIdle` and `l2Idle` are the ticks
since which a cluster or a half may enter OFF. `lowN` counts evaluations below 0.95 CAP, `hold` ends at a tick. `hot` that the
thermal point steps down, `cool` the tick from which the next step up counts, `logged` that the throttling is recorded,
`stepAt` the last step down. `fcl` is the fast current limit, `below` the tick at which the current fell below; `crit` the
limit of TCRIT. `badIn` is the tick at which the input left 60 to 82 V, `outIn` 64 to 80 V, `extreme` its furthest reading
since. `trip` is the trip latch and `tripInj` that an injection fired it. `inrush` that the input has not reached 64 V since power-up
(R417), `held` that boot has not yet released the compute dies (R385). `power` are the products of voltage and current sampled
in the last 10 ms, newest first, with their ticks, and `capAt` the tick of the last evaluation (R374). Overrides end at a tick.
`lost` that power is off; `upAt` when a domain last woke, and under 25 when the device last left reset. -/
structure PwrMem where
  clIdle  : Tbl (Option Nat) := []
  l2Idle  : Tbl (Option Nat) := []
  lowN    : Nat := 0
  hold    : Nat := 0
  hot     : Bool := false
  cool    : Option Nat := none
  fcl     : Bool := false
  below   : Option Nat := none
  crit    : Bool := false
  badIn   : Option Nat := none
  outIn   : Option Nat := none
  extreme : Nat := 0
  trip    : Option (Nat × BitVec 16) := none
  sensOvr : Tbl (Option (BitVec 16 × Nat)) := []
  inOvr   : Option (BitVec 16 × Nat) := none
  lost    : Bool := false
  upAt    : Tbl Nat := []
  logged  : Bool := false
  stepAt  : Option Nat := none
  tripInj : Bool := false
  inrush  : Bool := false
  held    : Bool := false
  power   : List (Nat × Nat) := []
  capAt   : Nat := 0
  deriving DecidableEq, Repr

/-- Boot stages (SEC_BOOT.STATE). -/
inductive BootSt where
  | rom | firmware | ready | recovery | hold
  deriving DecidableEq, Repr

/-- The STATE code of SEC_BOOT (Table 18.6). -/
def BootSt.code : BootSt → Nat
  | .rom => 0 | .firmware => 1 | .ready => 2 | .recovery => 3 | .hold => 4

/-- A signing-leaf record (R387). -/
structure LeafRec where
  seqNo : Nat
  fin   : Nat
  crc   : BitVec 32
  deriving DecidableEq, Repr

/-- The NOR flash (Table 18.1): slots A and B, the calibration set, each as bytes with erased bytes unlisted; the two
leaf sectors; the retirement entries; and MINSVN's fuses. The event-log spill area is
`Service.spill`, oldest first. -/
structure Flash where
  slots  : Tbl (Tbl Byte) := []
  cal    : Tbl Byte := []
  leafs  : Tbl (Option LeafRec) := []
  retire : List (BitVec 32) := []
  minsvn : Nat := 0
  deriving DecidableEq, Repr

/-- Boot and security (18). `calInj` that an injection made the set invalid at this boot (R403); `buf` is the recovery buffer; `tree` the highest bottom tree built; `fwProg` the length of the image that FW_UPDATE is programming into the other slot,
`calProg` the offset and length that CAL_WRITE is programming, `leafProg` the sector and SEQ of the leaf record that is being
programmed (R387). -/
structure Sec where
  st     : BootSt := .rom
  slot   : Nat := 0
  gen    : Nat := 0
  svn    : Nat := 0
  rejA   : Bool := false
  rejB   : Bool := false
  next   : Nat := 0
  fin    : Nat := 0
  meas   : Tbl (BitVec 256) := []
  calV   : Bool := false
  calInj : Bool := false
  calBad : Bool := true
  buf    : Tbl Byte := []
  tree   : Nat := 0
  fwProg : Option Nat := none
  calProg : Option (Nat × Nat) := none
  leafProg : Option (Nat × Nat) := none
  commit : Bool := false
  booted : Bool := false
  deriving DecidableEq, Repr

/-- An event-log record (Table 19.1). `crc` is the CRC that the flash holds, once the record is programmed. -/
structure LogRec where
  seqNo   : Nat
  type    : Byte
  inj     : Bool
  part    : Nat
  src     : Nat
  time    : Nat
  payload : List Word
  crc     : BitVec 32 := 0
  deriving DecidableEq, Repr

/-- An armed injection point: POINT, INSTANCE, ARG; `left` what a counted point has still to do, `hit` that it
has begun to fire. -/
structure Armed where
  point : Nat
  inst  : Nat
  arg   : Word
  left  : Nat := 1
  hit   : Bool := false
  deriving DecidableEq, Repr

/-- An INJ and RAS block (Table 19.5); `kept` are the sector addresses of R403. -/
structure InjBlk where
  point  : Word := 0
  arg    : Word := 0
  bad    : Bool := false
  armed  : Option Armed := none
  fired  : Nat := 0
  kept   : List Nat := []
  parity : Nat := 0
  poison : Nat := 0
  deriving DecidableEq, Repr

/-- What the health state counts over 24 hours (Table 19.7): corrected bursts, uncorrectable bursts, parity reports. -/
inductive HEv where
  | ce | ue | parity (die engine : Nat)
  deriving DecidableEq, Repr

/-- Service (19): the event log (pending and spilled records), coalescing by unit (tick of the last record, count
since), injection blocks by unit number, retirement entries not yet committed, health and the events of 24 hours by
tick. `katFail` counts the known-answer failures in a row, by engine and core; `mods` the UCIe modules lost, by
connection; `katDue` the cores whose reset waits for its test (R407), `katEng` the device engines whose test is due for another reason
(R404), `katPass` the pass that an engine failed first and its first cell that differed, and, at 512 + cluster, the failing test
of a core of a retired cluster, 0 scalar, 1 vector; `rates` the rate triggers that called for each state at
the last evaluation, at tick `evalAt`; `stuck` the triggers that hold until the next boot (R410); `bootCal` and `bootSlot` the injections that fire at the next boot. -/
structure Service where
  seqNo   : Nat := 0
  pend    : List LogRec := []
  spill   : List LogRec := []
  lost    : Nat := 0
  lostRec : Nat := 0
  flushAt : Nat := 0
  coal    : Tbl (Option Nat × Nat) := []
  inj     : Tbl InjBlk := []
  uncom   : List (BitVec 32) := []
  health  : Nat := 0
  events  : List (HEv × Nat) := []
  katFail : Tbl Nat := []
  katDue  : List Nat := []
  katEng  : List Nat := []
  katPass : Tbl (Nat × Nat) := []
  rates   : Nat × Nat := (0, 0)
  evalAt  : Nat := 0
  stuck   : Nat × Nat := (0, 0)
  mods    : Tbl Nat := []
  frmRef  : Bool := false
  bootCal : Bool := false
  bootSlot : BitVec 2 := 0
  deriving DecidableEq, Repr

/-- The instruction that the test access port holds (R422). -/
inductive Tap where
  | idcode | bypass | sample | extest | regacc
  deriving DecidableEq, Repr

/-- Straps, pins and the test port (20). `low` is PORST# low after power-up. -/
structure Pins where
  fcfg   : BitVec 30 := 0
  hmode  : BitVec 4 := 0
  dbgen  : Bool := false
  low    : Bool := false
  pwrgd  : Bool := true
  trip   : Bool := false
  bsr    : List Bool := []
  tap    : Tap := .idcode
  deriving DecidableEq, Repr

/-- What leaves the block. -/
inductive OutMsg where
  | hostWrite (port : Nat) (addr : Nat) (part : Nat) (bytes : List Byte) (ep : Bool)
  | hostRead (port tag : Nat) (addr : Nat) (part len : Nat)
  | hostAnswer (port : Nat) (f : Nat) (r : HostCompl)
  | msix (port f vector : Nat)
  | frame (port : Nat) (f : Frame) (crcOk fecOk : Bool)
  | eth (port : Nat) (bytes : List Byte)
  | answer (pa : Nat) (data : Line) (poison : BitVec 4)
  | contrib (code reason : Nat)
  | tdo (v : Word)
  | drive (bits : List Bool)
  | reg (v : Word)
  deriving DecidableEq, Repr

/-- What a partition holds beside clusters (R24): owners of LPDDR6 granules, host-window granules (4,096 × port + g),
sync blocks and census blocks (64 × die + b); which partitions exist (partition 0 always does); HRN_STAGE by 8p + s; `dying` is
the partition that PART_DESTROY has begun to take apart (R28). -/
structure Owners where
  gran    : Tbl Nat := []
  hgran   : Tbl Nat := []
  sync    : Tbl Nat := []
  census  : Tbl Nat := []
  parts   : Tbl Bool := []
  stages  : Tbl Word := []
  dying   : Option Nat := none
  deriving DecidableEq, Repr

end Sys2Proof.Machine
end

