-- ==== Sys2Proof/Machine/State.lean ====
section
/-! DEFINITION. The whole state of the block, its fault and refusal reasons, and the state after reset. -/

namespace Sys2Proof.Machine

/-- Reasons for which the machine stops. No meaning of this model stops: the spec gives every command an effect, and a
bad access is reported inside the state (a trap, a status, a reason). -/
inductive Fault where
  /-- Raised by no command; it keeps the type inhabited. Safe. -/
  | none
  deriving DecidableEq, Repr

/-- Reasons for which a command is refused. -/
inductive Refusal where
  /-- Raised by the arm of a command that has no meaning yet. Safe. -/
  | notModelled (mnemonic : String)
  deriving DecidableEq, Repr

/-- The state of the XT-3 (one line per unit; each unit's file names the rules). `now` counts always-on ticks; `freeCtr`
is the model's own counter of free values (log 5); `order` numbers the moments at which waits of packets were satisfied
(R299); `pending` the commands that wait, first in, first out. -/
structure State where
  cores    : Tbl Core := []
  clusters : Tbl Cluster := []
  dies     : Tbl Die := []
  tasks    : List Task := []
  mem      : MemSys := {}
  own      : Owners := {}
  hosts    : Tbl HPort := []
  aper     : Tbl Word := []
  answers  : List Ans := []
  fab      : Fabric := {}
  pwr      : Power := {}
  pmem     : PwrMem := {}
  flash    : Flash := {}
  sec      : Sec := {}
  svc      : Service := {}
  pins     : Pins := {}
  out      : List OutMsg := []
  freeCtr  : Nat := 0
  order    : Nat := 0
  now      : Nat := 0
  pending  : List Instr := []
  deriving DecidableEq, Repr

/-- The state after reset (R105, R132, R160, R261 and the reset columns of the register tables; logs 3 and 4). -/
def State.reset : State := {}

end Sys2Proof.Machine
end

