-- ==== Sys2Proof/Machine/Ops.lean ====
section
/-! DEFINITION. The named operations every command is built from: access to each unit, free values, the physical
address map (R16 to R19), the event log (R395, R396, R398), and how a command ends. -/

namespace Sys2Proof.Machine

/-- How a command ends. -/
abbrev Out := Host.Outcome State Fault Refusal

/-- A core. -/
def State.core (s : State) (c : Nat) : Core := tget {} s.cores c

/-- Replace a core. -/
def State.setCore (s : State) (c : Nat) (k : Core) : State := { s with cores := tset {} s.cores c k }

/-- A compute die. -/
def State.die (s : State) (d : Nat) : Die := tget {} s.dies d

/-- Replace a compute die. -/
def State.setDie (s : State) (d : Nat) (v : Die) : State := { s with dies := tset {} s.dies d v }

/-- A cluster, by device cluster number. -/
def State.cluster (s : State) (c : Nat) : Cluster := tget {} s.clusters c

/-- Replace a cluster. -/
def State.setCluster (s : State) (c : Nat) (v : Cluster) : State := { s with clusters := tset {} s.clusters c v }

/-- A slice of a die. -/
def State.slice (s : State) (d n : Nat) : Slice := tget {} (s.die d).slices n

/-- Replace a slice. -/
def State.setSlice (s : State) (d n : Nat) (v : Slice) : State :=
  let k := s.die d
  s.setDie d { k with slices := tset {} k.slices n v }

/-- The sync unit of a die. -/
def State.setSync (s : State) (d : Nat) (v : SyncUnit) : State := s.setDie d { s.die d with sync := v }

/-- A queue's record on its die: partition and number. -/
def qKey (q : QId) : Nat := 64 * q.part.val + q.q.val

/-- A queue. -/
def State.queue (s : State) (q : QId) : Queue := tget {} (s.die q.die.val).queues (qKey q)

/-- Replace a queue. -/
def State.setQueue (s : State) (q : QId) (v : Queue) : State :=
  let k := s.die q.die.val
  s.setDie q.die.val { k with queues := tset {} k.queues (qKey q) v }

/-- A Stitcher, by device cluster number. -/
def State.stitcher (s : State) (c : Nat) : Stitcher := tget {} (s.die (c / 8)).stc (c % 8)

/-- Replace a Stitcher. -/
def State.setStitcher (s : State) (c : Nat) (v : Stitcher) : State :=
  let k := s.die (c / 8)
  s.setDie (c / 8) { k with stc := tset {} k.stc (c % 8) v }

/-- A stream context. -/
def State.ctx (s : State) (c n : Nat) : SCtx := tget {} (s.stitcher c).ctxs n

/-- Replace a stream context. -/
def State.setCtx (s : State) (c n : Nat) (v : SCtx) : State :=
  let k := s.stitcher c
  s.setStitcher c { k with ctxs := tset {} k.ctxs n v }

/-- A host port. -/
def State.hport (s : State) (n : Nat) : HPort := tget {} s.hosts n

/-- Replace a host port. -/
def State.setHport (s : State) (n : Nat) (v : HPort) : State := { s with hosts := tset {} s.hosts n v }

/-- A Lumette port. -/
def State.fport (s : State) (n : Nat) : FPort := tget {} s.fab.ports n

/-- Replace a Lumette port. -/
def State.setFport (s : State) (n : Nat) (v : FPort) : State :=
  { s with fab := { s.fab with ports := tset {} s.fab.ports n v } }

/-- A memory channel, by 128d + n. -/
def State.chan (s : State) (n : Nat) : Chan := tget {} s.mem.chans n

/-- Replace a memory channel. -/
def State.setChan (s : State) (n : Nat) (v : Chan) : State :=
  { s with mem := { s.mem with chans := tset {} s.mem.chans n v } }

/-- An injection block, by unit: 0 CD0, 1 CD1, 2 steward, 4 + n LKn. -/
def State.injBlk (s : State) (u : Nat) : InjBlk := tget {} s.svc.inj u

/-- Replace an injection block. -/
def State.setInj (s : State) (u : Nat) (v : InjBlk) : State :=
  { s with svc := { s.svc with inj := tset {} s.svc.inj u v } }

/-- Send a message out of the block. -/
def State.emit (s : State) (m : OutMsg) : State := { s with out := s.out ++ [m] }

/-- A free value: nothing constrains it (log 5). -/
def State.free (s : State) : Word × State := (Config.freeValue s.freeCtr, { s with freeCtr := s.freeCtr + 1 })

/-- DEVID as CORE_ID and the fabric use it (R352, R416). -/
def State.devid (s : State) : Nat := field s.pins.fcfg 0 14

/-- State of a power domain; domains that never leave ON keep their default (Table 17.2). -/
def State.dom (s : State) (n : Nat) : DomSt := tget .on s.pwr.dom n

/-- The domain of a device cluster. -/
def clDom (c : Nat) : Nat := 12 * (c / 8) + c % 8

/-- The domain of an L2 half: slices 0 to 31 west, 32 to 63 east. -/
def l2Dom (d half : Nat) : Nat := 12 * d + 8 + half

/-- UCIe connections: 0 CD0 ↔ CD1, 1 and 2 STW ↔ CD0 and CD1, 3 to 6 LK0 to LK3, with their modules (Table 1.2). -/
def modules (conn : Nat) : Nat := if conn = 0 then 24 else if conn ≤ 2 then 2 else 4

/-- Modules of a connection in service. -/
def State.modsLeft (s : State) (conn : Nat) : Nat := modules conn - tget 0 s.svc.mods conn

/-- A compute die, or a link die, is out of service: its connection has no module left (R341). -/
def State.dieOut (s : State) (d : Nat) : Bool := decide (s.modsLeft (1 + d) = 0)
def State.lkOut (s : State) (n : Nat) : Bool := decide (s.modsLeft (3 + n) = 0)

/-- A device cluster is out of service: retired (R405), or on a die that is. -/
def State.clOut (s : State) (c : Nat) : Bool := (s.cluster c).retired || s.dieOut (c / 8)

/-- A domain that no request wakes: a cluster out of service (R405, R341), a cluster or L2 half of a die that boot has not yet
released, UNC, MIO or a link die before stage 2 has powered it (R385), a link die out of service. -/
def State.noPower (s : State) (n : Nat) : Bool :=
  s.pmem.lost || (s.pmem.held && decide (s.sec.st ≠ .hold) && decide ((n < 24 ∧ 10 ≤ n % 12) ∨ 26 ≤ n)) ||
  (if n < 24 then
    (decide (n % 12 < 10) && (s.pmem.held || s.dieOut (n / 12))) || (decide (n % 12 < 8) && s.clOut (8 * (n / 12) + n % 12))
  else decide (26 ≤ n) && s.lkOut (n - 26))

/-- The engines of a core whose test is due: all in service after its reset (R407), else those that R404 names. -/
def State.katTests (s : State) (c : Nat) : List Nat :=
  ((List.range 4).map (4 * c + ·)).filter (fun n =>
    bitAt (s.core c).cr.engmask (n % 4) && (s.svc.katDue.contains c || s.svc.katEng.contains n))

/-- Is a core out of service until its known-answer test has run (R404, R407)? One of a cluster out of service has none. -/
def State.katBusy (s : State) (c : Nat) : Bool :=
  (s.svc.katDue.contains c || !(s.katTests c).isEmpty) && !s.clOut (c / 8)

/-- Wake a domain, as a request that reaches it does (R368): the request is served in the same step. -/
def State.wake (s : State) (n : Nat) : State :=
  if s.dom n = .on ∨ s.noPower n then s
  else { s with pwr := { s.pwr with dom := tset .on s.pwr.dom n .on },
                pmem := { s.pmem with upAt := tset 0 s.pmem.upAt n s.now } }

/-- Wake a cluster: after OFF its cores start from device reset with CYCLE at 0 (R369, Table 4.11). -/
def State.wakeCluster (s : State) (c : Nat) : State :=
  if s.dom (clDom c) = .on ∨ s.noPower (clDom c) then s
  else
    let t := (s.die (c / 8)).cyc
    (List.range 8).foldl (fun s i => s.setCore (8 * c + i) { s.core (8 * c + i) with cycBase := t }) (s.wake (clDom c))

/-- A cluster that is off and that no request wakes. -/
def State.clDead (s : State) (c : Nat) : Bool := decide (s.dom (clDom c) ≠ .on) && s.noPower (clDom c)

/-- Partition that holds a device cluster. -/
def State.owner (s : State) (c : Nat) : Nat := (s.cluster c).owner

/-- Does a partition exist (R23)? Partition 0 always does. -/
def State.exists_ (s : State) (p : Nat) : Bool := p = 0 || tget false s.own.parts p

/-- Where an address leads (R16 to R20): a home die, a host window (port, offset), the core-local window, a register
space, another device, or nowhere. -/
inductive Loc where
  | dram (die pa : Nat)
  | host (port off : Nat)
  | locl (off : Nat)
  | reg (space off : Nat)
  | remote (dev lpa : Nat)
  | reserved
  | malformed
  deriving DecidableEq, Repr

/-- A local physical address (Table 1.4). Register spaces: 0 CD0, 1 CD1, 2 steward, 4 + n LKn. -/
def locPA (a : Nat) : Loc :=
  if a < 0x18000000000 then .dram 0 a
  else if a < 0x30000000000 then .dram 1 a
  else if 0x100000000000 ≤ a ∧ a < 0x200000000000 then
    .host ((a - 0x100000000000) / 0x40000000000) ((a - 0x100000000000) % 0x40000000000)
  else if 0xE00000000000 ≤ a ∧ a < 0xE00001000000 then .locl (a - 0xE00000000000)
  else if 0xF00000000000 ≤ a ∧ a < 0xF00100000000 then .reg 0 (a - 0xF00000000000)
  else if 0xF00100000000 ≤ a ∧ a < 0xF00200000000 then .reg 1 (a - 0xF00100000000)
  else if 0xF01000000000 ≤ a ∧ a < 0xF01100000000 then .reg 2 (a - 0xF01000000000)
  else if 0xF02000000000 ≤ a ∧ a < 0xF02400000000 then
    .reg (4 + (a - 0xF02000000000) / 0x100000000) ((a - 0xF02000000000) % 0x100000000)
  else .reserved

/-- A global address (R18, R19). -/
def State.locate (s : State) (a : Word) : Loc :=
  let dev := field a 48 14
  let lpa := field a 0 48
  if bitAt a 62 then .malformed
  else if bitAt a 63 then (if dev = s.devid then locPA lpa else .remote dev lpa)
  else if dev ≠ 0 then .malformed
  else locPA lpa

/-- Owner of the granule of a physical address: LPDDR6 or host window; none elsewhere (R24, R26). -/
def State.granOwner (s : State) : Loc → Option Nat
  | .dram _ pa => some (tget 0 s.own.gran (pa / 2 ^ 30))
  | .host p o => some (tget 0 s.own.hgran (4096 * p + o / 2 ^ 30))
  | _ => none

/-- Record types that are severe (Tables 16.10, 17.6, 18.7, 19.2; the census, stream and step types of 09, 12, 13). -/
def severeTypes : List Nat :=
  [0x32, 0x33, 0x35, 0x37, 0x42, 0x52, 0x53, 0x62, 0x63, 0x71, 0x73, 0x81, 0x84, 0x85, 0x86, 0x87, 0x88, 0x89, 0x8B, 0x8D]

/-- Is a record type severe? -/
def severe (t : Byte) : Bool := severeTypes.contains t.toNat

/-- The always-on ticks that the timestamp of a die counts (R395): 0, 1 compute dies, 2 steward, 4 + n link dies. -/
def State.stamp (s : State) (src : Nat) : Nat :=
  if src ≤ 1 then s.now - (s.die src).unc
  else if src = 2 then s.now
  else s.now - tget 0 s.pmem.upAt (22 + src)

/-- The steward accepts a record, or discards it while 255 are pending (R396). A record of partition 31 names none. -/
def State.log (s : State) (t : Byte) (part src : Nat) (inj : Bool) (payload : List Word) : State :=
  if 255 ≤ s.svc.pend.length then
    { s with svc := { s.svc with lost := satAdd s.svc.lost 1, lostRec := s.svc.lostRec + 1 } }
  else
    let r : LogRec := { seqNo := s.svc.seqNo, type := t, inj := inj, part := part, src := src, time := s.stamp src,
                        payload := payload.take 5 }
    { s with svc := { s.svc with pend := s.svc.pend ++ [r], seqNo := s.svc.seqNo + 1 } }

/-- A number as a payload word. -/
def w64 (n : Nat) : Word := BitVec.ofNat 64 n

/-- One record per unit and second, carrying the count since the previous, which `m` errors raise (R398, R338). -/
def State.coalesce (s : State) (key m : Nat) (f : Nat → State → State) : State :=
  let (last, n) := tget (none, 0) s.svc.coal key
  let due := match last with | none => true | some t => decide (25000000 ≤ s.now - t)
  if due then f (n + m) { s with svc := { s.svc with coal := tset (none, 0) s.svc.coal key (some s.now, 0) } }
  else { s with svc := { s.svc with coal := tset (none, 0) s.svc.coal key (last, n + m) } }

/-- The key of a unit's corrected errors in the table of coalesced records. -/
def corrKey (kind inst : Nat) : Nat := 65536 * (kind + 1) + inst % 65536

/-- `m` corrected errors of a unit, at most one ERR_CORRECTED of it in a second: kinds 0 L2 slice, 1 channel, 2 core caches,
3 link, which numbers module m of UCIe connection c as 32c + m and Lumette port p as 256 + p (R398). -/
def State.correctedN (s : State) (kind inst m src : Nat) (inj : Bool) (addr : Nat) : State :=
  s.coalesce (corrKey kind inst) m (fun n s => s.log 0x80 31 src inj [w64 kind, w64 inst, w64 n, w64 addr])

/-- One corrected error of a unit (R398). -/
def State.corrected (s : State) (kind inst src : Nat) (inj : Bool) (addr : Nat) : State :=
  s.correctedN kind inst 1 src inj addr

/-- Count an event for the health triggers (Table 19.7); injected events do not count (R403). The third parity report from one
engine within 24 hours, and each that follows so, makes its known-answer test due (R404). -/
def State.healthEv (s : State) (e : HEv) (inj : Bool) : State :=
  if inj then s
  else
    let l := s.svc.events ++ [(e, s.now)]
    let due := match e with
      | .parity _ n => if n < 512 ∧ 3 ≤ (l.filter (fun x => decide (x.1 = e) && decide (s.now - x.2 ≤ 2160000000000))).length
          then s.svc.katEng ++ [n] else s.svc.katEng
      | _ => s.svc.katEng
    { s with svc := { s.svc with events := l, katEng := due } }

/-- The steward or link-die unit, or compute die, whose block an address of LPDDR6 belongs to. -/
def homeDie (pa : Nat) : Nat := if pa < 0x18000000000 then 0 else 1

/-- Is a sector kept by an injection block (R403)? A compute die's block keeps what its own points fired at, sectors of the
other die's LPDDR6 among them. -/
def State.kept (s : State) (sec : Nat) : Bool := [0, 1].any (fun u => (s.injBlk u).kept.contains sec)

/-- A sector was written whole: it is kept no longer (R403). -/
def State.unkeep (s : State) (sec : Nat) : State :=
  [0, 1].foldl (fun s u =>
    let b := s.injBlk u
    if b.kept.contains sec then s.setInj u { b with kept := b.kept.filter (fun a => !decide (a = sec)) } else s) s

/-- An armed point of a block fires: it disarms when nothing of it is left (R401). A counted point fires once, and goes on
until its count is spent. -/
def State.fire (s : State) (u : Nat) (keep : List Nat) : State :=
  let b := s.injBlk u
  match b.armed with
  | none => s
  | some a =>
    let left := a.left - 1
    let s := s.setInj u { b with
      armed := if left = 0 then none else some { a with left := left, hit := true },
      fired := if a.hit then b.fired else satAdd b.fired 1, kept := b.kept ++ keep }
    if a.hit then s else s.log 0x8C 31 u true [w64 a.point, w64 a.inst, a.arg, 0]

/-- The armed point of block `u`, when it is point `p`. -/
def State.armedAt (s : State) (u p : Nat) : Option Armed :=
  (s.injBlk u).armed.bind (fun a => if a.point = p then some a else none)

/-- Complete with a next state. -/
def fin (s : State) : Out := .next s

/-- A command: what its body leaves, with the queue of waiting commands as it found it. -/
def State.cmd (s : State) (body : State → Out) : Out :=
  match body s with
  | .next t => .next { t with pending := s.pending }
  | r => r

end Sys2Proof.Machine
end

