-- ==== Sys2Proof/Machine/HealthOps.lean ====
section
/-! DEFINITION. The health state (R410, Table 19.7). -/

namespace Sys2Proof.Machine

/-- The retirement entries whose commit bit is programmed; the others are ignored (R408). -/
def Flash.live (f : Flash) : List (BitVec 32) := f.retire.filter (fun e => !bitAt e 31)

/-- Does an entry name the frame, engine or cluster with a number of R408? -/
def names (n : Nat) (e : BitVec 32) : Bool := decide (field e 0 30 = n)

/-- Commit a retirement entry: C is programmed to 0 in the next slot, or S in the slot of a soft entry that turns hard (R408). -/
def Flash.commit (f : Flash) (e : BitVec 32) : Flash :=
  let n := field e 0 30
  let e := e &&& 0x7FFFFFFF#32
  { f with retire := if f.live.any (names n) then f.retire.map (fun x => if names n x && !bitAt x 31 then e else x)
                     else f.retire ++ [e] }

/-- A retirement is reported once its entry is committed (R409). -/
def State.reported (s : State) (n : Nat) : Bool := !s.svc.uncom.any (names n) || s.flash.live.any (names n)

/-- An engine that is reported as retired. -/
def State.engShown (s : State) (n : Nat) : Bool := !bitAt (s.core (n / 4)).cr.engmask (n % 4) && s.reported (0x30000000 + n)

/-- A cluster that is reported as retired. -/
def State.clShown (s : State) (c : Nat) : Bool := (s.cluster c).retired && s.reported (0x38000000 + c)

/-- The retired frames of a die as they are reported: one whose entry waits for its commit as the flash still has it. -/
def State.framesShown (s : State) (d : Nat) : List Retired :=
  (tget [] s.mem.retired d).filterMap (fun r =>
    if s.svc.uncom.any (names r.frame) then (s.flash.live.find? (names r.frame)).map (fun e => ⟨r.frame, !bitAt e 30⟩)
    else some r)

/-- Engines retired in clusters in service. -/
def State.engRetired (s : State) : Nat :=
  (((List.range 16).filter (fun c => !s.clShown c)).map (fun c =>
    ((List.range 32).filter (fun i => s.engShown (32 * c + i))).length)).sum

/-- Retired clusters. -/
def State.clRetired (s : State) : Nat := ((List.range 16).filter s.clShown).length

/-- Hard-retired frames of a die. -/
def State.hardN (s : State) (d : Nat) : Nat := ((s.framesShown d).filter (·.hard)).length

/-- Erased DQ pins of the device. -/
def State.pinsErased (s : State) : Nat := (s.mem.chans.map (fun e => b2n (bitAt e.2.erase 4) + b2n (bitAt e.2.erase 9))).sum

/-- Erased DQ pins that no injection erased (R403). -/
def State.pinsWorn (s : State) : Nat :=
  (s.mem.chans.map (fun e => b2n (bitAt e.2.erase 4 && !bitAt e.2.pinInj 0) + b2n (bitAt e.2.erase 9 && !bitAt e.2.pinInj 1))).sum

/-- Lumette ports at half width that no injection made so (R403). -/
def State.halfPorts (s : State) : Nat :=
  ((List.range 8).filter (fun n =>
    let p := s.fport n
    decide (p.st = .up) && (decide (p.width = 1) || decide (p.width = 2)) && decide (p.dead = 0))).length

/-- Events of 24 hours that `p` picks. -/
def State.eventsN (s : State) (p : HEv → Bool) : Nat :=
  (s.svc.events.filter (fun e => p e.1 && decide (s.now - e.2 ≤ 2160000000000))).length

/-- A parity report of a die. -/
def parityOf (d : Nat) : HEv → Bool
  | .parity x _ => decide (x = d)
  | _ => false

/-- Triggers as a mask. -/
def trigMask (l : List (Nat × Bool)) : Nat := (l.map (fun e => if e.2 then 2 ^ e.1 else 0)).sum

/-- The rate triggers as the steward evaluates them every hour: those that call for DEGRADED, and for REPLACE_REQUESTED. -/
def State.rateTrig (s : State) : Nat × Nat :=
  let ce := s.eventsN (fun e => decide (e = .ce))
  let ue := s.eventsN (fun e => decide (e = .ue))
  let pa := max (s.eventsN (parityOf 0)) (s.eventsN (parityOf 1))
  (trigMask [(5, decide (100000 ≤ ce)), (6, decide (1 ≤ ue) && decide (ue ≤ 15)), (7, decide (8 ≤ pa) && decide (pa ≤ 63))],
   trigMask [(6, decide (16 ≤ ue)), (7, decide (64 ≤ pa))])

/-- The count triggers: those that call for DEGRADED, and for REPLACE_REQUESTED. -/
def State.countTrig (s : State) : Nat × Nat :=
  let e := s.engRetired
  let c := s.clRetired
  let h := max (s.hardN 0) (s.hardN 1)
  let p := s.pinsWorn
  let m := s.modsLeft 0
  let w := s.halfPorts
  let lost := [1, 2, 3, 4, 5, 6].any (fun n => decide (0 < tget 0 s.svc.mods n))
  let gone := [1, 2, 3, 4, 5, 6].any (fun n => decide (s.modsLeft n = 0))
  let full := decide (3584 ≤ h) || s.svc.frmRef
  (trigMask [(0, decide (1 ≤ e) && decide (e ≤ 15)), (1, decide (c = 1)), (2, decide (1024 ≤ h) && !full),
     (4, decide (1 ≤ p) && decide (p ≤ 3)), (8, decide (22 ≤ m) && decide (m ≤ 23)), (9, lost && !gone),
     (10, decide (1 ≤ w) && decide (w ≤ 2)), (11, s.sec.booted && !s.sec.calV && !s.sec.calInj)],
   trigMask [(0, decide (16 ≤ e)), (1, decide (2 ≤ c)), (2, full), (3, s.mem.chans.any (fun x => decide (x.2.state = 3))),
     (4, decide (4 ≤ p)), (8, decide (m ≤ 21)), (9, gone), (10, decide (3 ≤ w))])

/-- The triggers that hold until the next boot: counts of retirements, modules, pins, channels and the calibration set
(R410). -/
def heldTrig : Nat := trigMask [(0, true), (1, true), (2, true), (3, true), (4, true), (8, true), (9, true), (11, true)]

/-- The triggers that call for DEGRADED and for REPLACE_REQUESTED: those of now, the rates as last evaluated, those held. -/
def State.trig (s : State) : Nat × Nat :=
  let (d, r) := s.countTrig
  (d ||| s.svc.rates.1 ||| s.svc.stuck.1, r ||| s.svc.rates.2 ||| s.svc.stuck.2)

/-- The trigger mask of Table 19.7. -/
def State.triggers (s : State) : Nat := s.trig.1 ||| s.trig.2

/-- The health state that the triggers call for: 0 OK, 1 DEGRADED, 2 REPLACE_REQUESTED. -/
def State.healthNow (s : State) : Nat := if s.trig.2 ≠ 0 then 2 else if s.trig.1 ≠ 0 then 1 else 0

/-- The triggers of now that hold until the next boot are kept. -/
def State.holdTrig (s : State) : State :=
  { s with svc := { s.svc with stuck := (s.trig.1 &&& heldTrig, s.trig.2 &&& heldTrig) } }

/-- A change of state writes HEALTH_CHANGE (R410). -/
def State.healthCheck (s : State) : State :=
  let s := s.holdTrig
  let n := s.healthNow
  if n = s.svc.health then s
  else ({ s with svc := { s.svc with health := n } }).log 0x8B 31 2 false [w64 s.svc.health, w64 n, w64 s.triggers]

/-- READY is high while SEC_BOOT.STATE is READY (Table 20.2). -/
def State.readyPin (s : State) : Bool := decide (s.sec.st = .ready)

/-- ALERT# is low while the health state is not OK, or while a junction reads TCRIT or more (Table 20.2). -/
def State.alertLow (s : State) : Bool :=
  decide (s.svc.health ≠ 0) || (List.range 42).any (fun n =>
    decide ((16 * s.pwr.tcrit : Int) ≤ (tget (0 : BitVec 16) s.pwr.temps n).toInt))

end Sys2Proof.Machine
end

