-- ==== Sys2Proof/Machine/Sha.lean ====
section
/-! DEFINITION. SHA-256 (R381, R387 to R390) and the CRC-32 of IEEE 802.3 (R387, R395), over byte lists. -/

namespace Sys2Proof.Machine

/-- The largest `r < 2 ^ n` with `r ^ d ≤ v`, found bit by bit from the top. -/
def rootDown (d v : Nat) : Nat → Nat → Nat
  | 0, r => r
  | n + 1, r => rootDown d v n (if (r + 2 ^ n) ^ d ≤ v then r + 2 ^ n else r)

/-- The first 32 fractional bits of the `d`-th root of `p`: how the standard gives its constants. -/
def rootBits (d p : Nat) : BitVec 32 := BitVec.ofNat 32 (rootDown d (p <<< (32 * d)) 40 0)

/-- The first 64 primes. -/
def shaPrimes : List Nat :=
  ((List.range 312).filter (fun n => 2 ≤ n && (List.range 18).all (fun d => d < 2 || n ≤ d || n % d != 0)))

/-- The round constants: of the cube roots of the first 64 primes. -/
def shaK : List (BitVec 32) := shaPrimes.map (rootBits 3)

/-- The hash words: the last four values of the two running sequences, the newest of each first. -/
structure ShaState where
  lo : List (BitVec 32)
  hi : List (BitVec 32)
  deriving DecidableEq, Repr

/-- The words before the first block: of the square roots of the first eight primes. -/
def ShaState.init : ShaState :=
  let h := (shaPrimes.take 8).map (rootBits 2)
  ⟨h.take 4, h.drop 4⟩

/-- The exclusive OR of a word's rotations to the right. -/
def spins (x : BitVec 32) (ns : List Nat) : BitVec 32 := ns.foldl (fun a n => a ^^^ x.rotateRight n) 0

/-- One round: both sequences grow by one word; `kw` is the sum of the constant and the schedule word. -/
def ShaState.round (s : ShaState) (kw : BitVec 32) : ShaState :=
  match s.lo, s.hi with
  | [p, q, r, old], [x, y, z, last] =>
    let t := kw + last + spins x [6, 11, 25] + (z ^^^ (x &&& (y ^^^ z)))
    ⟨[t + spins p [2, 13, 22] + ((p &&& q) ||| (r &&& (p ||| q))), p, q, r], [old + t, x, y, z]⟩
  | _, _ => s

/-- The next word of a message schedule whose last 16 words stand oldest first. -/
def shaNext (w : List (BitVec 32)) : BitVec 32 :=
  let at' (i : Nat) := w.getD i 0
  at' 0 + at' 9 + (spins (at' 1) [7, 18] ^^^ (at' 1 >>> 3)) + (spins (at' 14) [17, 19] ^^^ (at' 14 >>> 10))

/-- Run the rounds of a block over the constants left, sliding the schedule's window of 16 words along. -/
def ShaState.rounds (s : ShaState) : List (BitVec 32) → List (BitVec 32) → ShaState
  | [], _ => s
  | k :: ks, w => (s.round (k + w.headD 0)).rounds ks (w.tail ++ [shaNext w])

/-- Compress one block of 64 bytes, each word big-endian. -/
def ShaState.block (s : ShaState) (b : List Byte) : ShaState :=
  let t := s.rounds shaK ((chunks 4 16 b).map (fun l => BitVec.ofNat 32 (ofBytes l.reverse)))
  ⟨List.zipWith (· + ·) s.lo t.lo, List.zipWith (· + ·) s.hi t.hi⟩

/-- The digest bytes. -/
def ShaState.bytes (s : ShaState) : List Byte := (s.lo ++ s.hi).flatMap (fun w => (toBytes 4 w.toNat).reverse)

/-- SHA-256 of a byte list: the bit 1, zeros and the length in bits fill the last block. -/
def sha256 (m : List Byte) : List Byte :=
  let z := (119 - m.length % 64) % 64
  let p := m ++ [0x80] ++ List.replicate z 0 ++ (toBytes 8 (8 * m.length)).reverse
  ((chunks 64 (p.length / 64) p).foldl ShaState.block ShaState.init).bytes

/-- A digest as a number, its first byte lowest. -/
def digest (m : List Byte) : BitVec 256 := BitVec.ofNat 256 (ofBytes (sha256 m))

/-- One bit of the CRC-32 of IEEE 802.3. -/
def crcBit (c : BitVec 32) : BitVec 32 := if c.getLsbD 0 then (c >>> 1) ^^^ 0xEDB88320#32 else c >>> 1

/-- CRC-32 of IEEE 802.3 over bytes. -/
def crc32 (l : List Byte) : BitVec 32 :=
  ~~~(l.foldl (fun c b =>
    let c := c ^^^ b.setWidth 32
    crcBit (crcBit (crcBit (crcBit (crcBit (crcBit (crcBit (crcBit c)))))))) (0xFFFFFFFF#32))

end Sys2Proof.Machine
end

