-- ==== Sys2Proof/Machine/Hss.lean ====
section
/-! DEFINITION. The hash-based signatures of R380: HSS with two levels of LMS_SHA256_M32_H20 over LMOTS_SHA256_N32_W8, under
RFC 8554 (log 7). -/

namespace Sys2Proof.Machine

/-- A number as `n` bytes, the highest first. -/
def bigBytes (n v : Nat) : List Byte := (toBytes n v).reverse

/-- The number of bytes, the highest first. -/
def ofBig (l : List Byte) : Nat := ofBytes l.reverse

/-- What a hash of the scheme starts with: the key's identifier, a number of the tree and a tag. -/
def hssTag (id : List Byte) (q tag : Nat) : List Byte := id ++ bigBytes 4 q ++ bigBytes 2 tag

/-- `n` steps of Winternitz chain `i` of one-time key `q`, from step `j` on. -/
def otsChain (id : List Byte) (q i : Nat) : Nat → Nat → List Byte → List Byte
  | 0, _, x => x
  | n + 1, j, x => otsChain id q i n (j + 1) (sha256 (hssTag id q i ++ bigBytes 1 j ++ x))

/-- The 34 digits that a one-time signature signs: the message's hash and its checksum. -/
def otsDigits (id : List Byte) (q : Nat) (rnd msg : List Byte) : List Nat :=
  let h := (sha256 (hssTag id q 0x8181 ++ rnd ++ msg)).map (·.toNat)
  let c := (h.map (fun d => 255 - d)).sum
  h ++ [c / 256, c % 256]

/-- A leaf of a tree: the hash of a one-time public key, of which `ends` are the chains' ends. -/
def lmsLeaf (id : List Byte) (q : Nat) (ends : List Byte) : List Byte :=
  sha256 (hssTag id (2 ^ 20 + q) 0x8282 ++ sha256 (hssTag id q 0x8080 ++ ends))

/-- An inner node of a tree. -/
def lmsJoin (id : List Byte) (r : Nat) (l x : List Byte) : List Byte := sha256 (hssTag id r 0x8383 ++ l ++ x)

/-- The root above node `r` with value `t`, by the siblings on the way. -/
def lmsClimb (id : List Byte) : Nat → List Byte → List (List Byte) → List Byte
  | _, t, [] => t
  | r, t, y :: ys => lmsClimb id (r / 2) (if r % 2 = 1 then lmsJoin id (r / 2) y t else lmsJoin id (r / 2) t y) ys

/-- Typecodes of LMS_SHA256_M32_H20 and LMOTS_SHA256_N32_W8. -/
def lmsType : List Byte := bigBytes 4 8
def otsType : List Byte := bigBytes 4 4

/-- The 34 chain values of a one-time signature carried to their ends. -/
def otsEnds (id : List Byte) (q : Nat) (digits : List Nat) (ys : List (List Byte)) : List Byte :=
  ((List.zip digits ys).zipIdx).flatMap (fun e => otsChain id q e.2 (255 - e.1.1) e.1.1 e.1.2)

/-- Does an LMS signature of 1,772 bytes hold for a message under a 56-byte public key? -/
def lmsVerifies (pub msg sig : List Byte) : Bool :=
  let part (a n : Nat) : List Byte := (sig.drop a).take n
  let id := (pub.drop 8).take 16
  let q := ofBig (part 0 4)
  let leaf := lmsLeaf id q (otsEnds id q (otsDigits id q (part 8 32) msg) (chunks 32 34 (part 40 1088)))
  decide (pub.take 8 = lmsType ++ otsType) && decide (part 4 4 = otsType) && decide (part 1128 4 = lmsType) &&
    decide (q < 2 ^ 20) && decide (sig.length = 1772) &&
    decide (lmsClimb id (2 ^ 20 + q) leaf (chunks 32 20 (part 1132 640)) = pub.drop 24)

/-- Does a signature of 3,604 bytes hold for a message under a 60-byte public key (R380)? -/
def hssVerifies (key msg sig : List Byte) : Bool :=
  let sub := (sig.drop 1776).take 56
  decide (key.take 4 = bigBytes 4 2) && decide (sig.take 4 = bigBytes 4 1) &&
    lmsVerifies (key.drop 4) sub ((sig.drop 4).take 1772) && lmsVerifies sub msg (sig.drop 1832)

/-- The identifier of the device's trees: 0 the top tree, 1 + t the bottom tree t. -/
def treeId (t : Nat) : List Byte := toBytes 16 (Config.hssId t).toNat

/-- A one-time private key's chain start. -/
def otsSecret (t q i : Nat) : List Byte := toBytes 32 (Config.hssSecret t q i).toNat

/-- The node `r` of a tree of the device, `h` levels above the leaves. -/
def lmsNode (t : Nat) : Nat → Nat → List Byte
  | 0, r => let q := r - 2 ^ 20; lmsLeaf (treeId t) q ((List.range 34).flatMap (fun i => otsChain (treeId t) q i 255 0 (otsSecret t q i)))
  | h + 1, r => lmsJoin (treeId t) r (lmsNode t h (2 * r)) (lmsNode t h (2 * r + 1))

/-- The public key of a tree. -/
def lmsPub (t : Nat) : List Byte := lmsType ++ otsType ++ treeId t ++ lmsNode t 20 1

/-- The signature that leaf `q` of a tree gives a message. -/
def lmsSign (t q : Nat) (msg : List Byte) : List Byte :=
  let rnd := toBytes 32 (Config.hssRandom t q).toNat
  let y := ((otsDigits (treeId t) q rnd msg).zipIdx).flatMap (fun e => otsChain (treeId t) q e.2 e.1 0 (otsSecret t q e.2))
  let path := (List.range 20).flatMap (fun h =>
    let r := (2 ^ 20 + q) / 2 ^ h
    lmsNode t h (if r % 2 = 1 then r - 1 else r + 1))
  bigBytes 4 q ++ otsType ++ rnd ++ y ++ lmsType ++ path

/-- The device's signature of a message with leaf `L`: top-tree leaf L >> 20, bottom-tree leaf L mod 2^20 (R380). -/
def hssSign (leaf : Nat) (msg : List Byte) : List Byte :=
  let top := leaf / 2 ^ 20
  bigBytes 4 1 ++ lmsSign 0 top (lmsPub (1 + top)) ++ lmsPub (1 + top) ++ lmsSign (1 + top) (leaf % 2 ^ 20) msg

/-- The device's 60-byte public key, which the fuses hold (R379, Table 20.6). -/
def devicePub : List Byte := bigBytes 4 2 ++ lmsPub 0

end Sys2Proof.Machine
end

