-- ==== Sys2Proof/Machine/FlashOps.lean ====
section
/-! DEFINITION. What the flash holds (18): firmware images and their check (R381), the calibration set (R390, R391, R393),
measurements (R388). -/

namespace Sys2Proof.Machine

/-- Bytes of a flash area; an erased byte reads 0xFF. -/
def flashRead (t : Tbl Byte) (off n : Nat) : List Byte := (List.range n).map (fun i => tget 0xFF t (off + i))

/-- A flash area that holds bytes from its start, the rest erased. -/
def flashOf (l : List Byte) : Tbl Byte := (l.zipIdx).filterMap (fun e => if e.1 = 0xFF then none else some (e.2, e.1))

/-- Program bytes of a flash area. -/
def flashPut (t : Tbl Byte) (off : Nat) (l : List Byte) : Tbl Byte :=
  (l.zipIdx).foldl (fun t e => tset 0xFF t (off + e.2) e.1) t

/-- A 64-bit field of an area. -/
def flashWord (t : Tbl Byte) (off : Nat) : Nat := ofBytes (flashRead t off 8)

/-- Header fields of an image (Table 18.2). -/
def imgGen (t : Tbl Byte) : Nat := flashWord t 0x008 % 2 ^ 32
def imgSvn (t : Tbl Byte) : Nat := flashWord t 0x010
def imgLen (t : Tbl Byte) : Nat := flashWord t 0x018
def imgCommit (t : Tbl Byte) : Bool := decide (flashWord t 0x028 % 2 = 1)

/-- The fused digest of the key that an image names, when there is one and it is not revoked. -/
def imgKey (t : Tbl Byte) : Option (BitVec 256) :=
  let k := flashWord t 0x020
  if k < 4 ∧ !bitAt Config.keyRevoked k then some (Config.keyDigest k) else none

/-- The first check of R381, 1 to 7 in its order, that an image fails. `present` takes GEN as present (R382, R383); `reject`
is a SLOT_CHECK injection. -/
def imgBad (minsvn : Nat) (t : Tbl Byte) (present reject : Bool) : Option Nat :=
  let pub := flashRead t 0x030 60
  let key := digest pub
  if flashWord t 0x000 ≠ 0x58465749 then some 1
  else if !present ∧ imgGen t = 0xFFFFFFFF then some 2
  else if 2 ^ 25 - 4096 < imgLen t then some 3
  else if imgKey t ≠ some key then some 4
  else if reject ∨ !hssVerifies pub (flashRead t 0x010 0x80) (flashRead t 0x090 3604) then some 5
  else if digest (flashRead t 4096 (imgLen t)) ≠ BitVec.ofNat 256 (ofBytes (flashRead t 0x070 32)) then some 6
  else if imgSvn t < minsvn then some 7
  else none

/-- A firmware slot: 0 A, 1 B. -/
def Flash.slot (f : Flash) (n : Nat) : Tbl Byte := tget [] f.slots n

/-- Extend a measurement (R388). -/
def State.measure (s : State) (i : Nat) (d : List Byte) : State :=
  let m := tget (0 : BitVec 256) s.sec.meas i
  { s with sec := { s.sec with meas := tset 0 s.sec.meas i (digest (toBytes 32 m.toNat ++ d)) } }

/-- The CRC-32 of a signing-leaf record (R387; the order of the bytes is log 34). -/
def leafSum (seqNo fin : Nat) : BitVec 32 := crc32 (toBytes 8 seqNo ++ toBytes 8 fin)

/-- The record of a leaf sector, when its CRC holds. -/
def Flash.leaf (f : Flash) (n : Nat) : Option LeafRec :=
  match tget none f.leafs n with
  | some r => if r.crc = leafSum r.seqNo r.fin then some r else none
  | none => none

/-- The leaf sector that the next record goes into: the older one. -/
def Flash.leafOld (f : Flash) : Nat :=
  match f.leaf 0, f.leaf 1 with
  | some a, some b => if a.seqNo < b.seqNo then 0 else 1
  | some _, none => 1
  | none, _ => 0

/-- SEQ of the next leaf record. -/
def Flash.leafSeq (f : Flash) : Nat := max (((f.leaf 0).map (·.seqNo)).getD 0) (((f.leaf 1).map (·.seqNo)).getD 0) + 1

/-- Fields of the calibration set's header (log 34): MAGIC at 0x00, format at 0x08, LENGTH at 0x10, SHA-256 at 0x20, the VALID
marker, 1, at 0x40. -/
def calHeader (body : List Byte) : List Byte :=
  let h := toBytes 8 0x4C414358 ++ toBytes 8 1 ++ toBytes 8 0x40000 ++ toBytes 8 0 ++ sha256 body ++ toBytes 8 1
  h ++ List.replicate (256 - h.length) 0

/-- The first check that fails of a calibration set (R391): 0 MAGIC, 1 format, 2 VALID marker, 3 digest. -/
def calCheck (t : Tbl Byte) : Option Nat :=
  if flashWord t 0x00 ≠ 0x4C414358 then some 0
  else if flashWord t 0x08 ≠ 1 then some 1
  else if flashWord t 0x40 ≠ 1 then some 2
  else if sha256 (flashRead t 0x100 (0x40000 - 0x100)) ≠ flashRead t 0x20 32 then some 3
  else none

/-- A voltage of the set in mV (log 34): die, DVFS point, rail 0 core, 1 NoC, as 64-bit words in that order. -/
def calVolt (t : Tbl Byte) (die pt rail : Nat) : Nat := flashWord t (0x20300 + 8 * (8 * die + 2 * pt + rail))

/-- TTHROT and TCRIT of the set (log 34): two 64-bit words. -/
def calThrot (t : Tbl Byte) : Nat := flashWord t 0x20400
def calCrit (t : Tbl Byte) : Nat := flashWord t 0x20408

/-- May the set stand as it would after a CAL_WRITE (R393, Table 20.4)? -/
def calAllowed (t : Tbl Byte) : Bool :=
  [0, 1].all (fun d => [0, 1, 2, 3].all (fun p =>
    decide (600 ≤ calVolt t d p 0) && decide (calVolt t d p 0 ≤ 950) &&
    decide (650 ≤ calVolt t d p 1) && decide (calVolt t d p 1 ≤ 900))) &&
  decide (calThrot t + 5 ≤ calCrit t) && decide (calCrit t < 120)

end Sys2Proof.Machine
end

