-- ==== Sys2Proof/Machine/BurstCode.lean ====
section
/-! DEFINITION. The burst code (R324, R325): a Reed–Solomon code over GF(2^8). A sector is held as its data with the
pattern of symbols in error, so a decode needs the pattern alone: the code is linear. -/

namespace Sys2Proof.Machine

/-- Multiplication by α = 0x02 modulo x^8 + x^4 + x^3 + x^2 + 1. -/
def xtime (a : Byte) : Byte := (a <<< 1) ^^^ (if a.getLsbD 7 then 0x1D#8 else 0#8)

/-- Product in GF(2^8), `n` bits of the second factor. -/
def gfMulN : Nat → Byte → Byte → Byte
  | 0, _, _ => 0
  | n + 1, a, b => (if b.getLsbD 0 then a else 0) ^^^ gfMulN n (xtime a) (b >>> 1)

/-- Product in GF(2^8). -/
def gfMul (a b : Byte) : Byte := gfMulN 8 a b

/-- α^n. -/
def gfPow : Nat → Byte
  | 0 => 1
  | n + 1 => xtime (gfPow n)

/-- a^(2^n). -/
def gfSq : Nat → Byte → Byte
  | 0, a => a
  | n + 1, a => gfSq n (gfMul a a)

/-- Inverse in GF(2^8): a^254. -/
def gfInv (a : Byte) : Byte := (List.range 7).foldl (fun p i => gfMul p (gfSq (i + 1) a)) 1

/-- Locator of symbol k: the coefficient of x^(35 − k), so that the check symbols are the low coefficients (log 21). -/
def locator (k : Nat) : Byte := gfPow (35 - k)

/-- Syndrome j of a pattern. -/
def syndrome (p : ErrPat) (j : Nat) : Byte :=
  p.foldl (fun s e => s ^^^ gfMul e.2 (gfPow (j * (35 - e.1) % 255))) 0

/-- Sum of two patterns. -/
def xorPat (p q : ErrPat) : ErrPat := q.foldl (fun t e => tmod 0 t e.1 (fun b => b ^^^ e.2)) p

/-- The poison mask of R327 on symbols 32 to 35. -/
def poisonMask : ErrPat := [(32, 0xA7), (33, 0x3D), (34, 0x6E), (35, 0xD1)]

/-- The one-symbol pattern that explains the syndromes, if one does. -/
def oneError (p : ErrPat) : Option (Nat × Byte) :=
  let s0 := syndrome p 0
  if s0 = 0 then none
  else
    let x := gfMul (syndrome p 1) (gfInv s0)
    match (List.range 36).find? (fun k => locator k == x) with
    | none => none
    | some k =>
      if syndrome p 2 = gfMul s0 (gfMul x x) ∧ syndrome p 3 = gfMul s0 (gfMul x (gfMul x x)) then some (k, s0) else none

/-- The two-symbol pattern that explains the syndromes, if one does. -/
def twoErrors (p : ErrPat) : Option ErrPat :=
  let s0 := syndrome p 0
  let s1 := syndrome p 1
  let s2 := syndrome p 2
  let s3 := syndrome p 3
  let det := gfMul s0 s2 ^^^ gfMul s1 s1
  if det = 0 then none
  else
    let a := gfMul (gfMul s0 s3 ^^^ gfMul s1 s2) (gfInv det)
    let b := gfMul (gfMul s1 s3 ^^^ gfMul s2 s2) (gfInv det)
    let roots := (List.range 36).filter (fun k =>
      let x := locator k
      (gfMul x x ^^^ gfMul a x ^^^ b) == 0)
    match roots with
    | [i, j] =>
      let x := locator i
      let y := locator j
      let e := gfMul (s1 ^^^ gfMul s0 y) (gfInv (x ^^^ y))
      let f := s0 ^^^ e
      if e = 0 ∨ f = 0 then none else some [(i, e), (j, f)]
    | _ => none

/-- The three symbols of an erased DQ that explain the syndromes, if they do: the fourth check detects. -/
def erasures (p : ErrPat) (dq : Nat) : Option ErrPat :=
  let k := 3 * dq
  let x := locator k
  let y := locator (k + 1)
  let z := locator (k + 2)
  let s0 := syndrome p 0
  let s1 := syndrome p 1
  let s2 := syndrome p 2
  let val (u v w : Byte) : Byte :=
    gfMul (s2 ^^^ gfMul s1 (v ^^^ w) ^^^ gfMul s0 (gfMul v w)) (gfInv (gfMul (u ^^^ v) (u ^^^ w)))
  let a := val x y z
  let b := val y x z
  let c := val z x y
  let cube (u : Byte) : Byte := gfMul u (gfMul u u)
  if syndrome p 3 = gfMul a (cube x) ^^^ gfMul b (cube y) ^^^ gfMul c (cube z) then
    some ([(k, a), (k + 1, b), (k + 2, c)].filter (fun e => e.2 != 0))
  else none

/-- What a decode finds (Table 15.1): clean, corrected with the symbols it changes, poisoned, or uncorrectable. -/
inductive Decoded where
  | clean
  | corrected (fix : ErrPat)
  | poisoned
  | uncorrectable
  deriving DecidableEq, Repr

/-- Is the syndrome of a pattern zero? -/
def codeword (p : ErrPat) : Bool := (List.range 4).all (fun j => syndrome p j == 0)

/-- The first outcome of Table 15.1 that applies to a stored pattern, the poison mask included. -/
def decodePat (p : ErrPat) (dq : Option Nat) : Decoded :=
  if codeword p then .clean
  else
    match (oneError p).map (fun e => [e]) <|> twoErrors p <|> dq.bind (erasures p) with
    | some f => .corrected f
    | none =>
      let q := xorPat p poisonMask
      if codeword q || (oneError q).isSome then .poisoned else .uncorrectable

/-- A sector with the data symbols of a pattern changed. -/
def applyPat (d : Sector) (p : ErrPat) : Sector :=
  p.foldl (fun d e => if e.1 < 32 then setByte d e.1 (byteOf d e.1 ^^^ e.2) else d) d

end Sys2Proof.Machine
end

