-- ==== Sys2Proof/Machine/MemOps.lean ====
section
/-! DEFINITION. Main memory and L2: the address mapping (R219, R323), burst decode with its consequences (R325, R326,
R331, R400), L2 slices with locked lines and sum entries (R220 to R236), and the control cache. An access made inside
another unit's step is complete in that step: a miss is filled at once (log 28). -/

namespace Sys2Proof.Machine

/-- Bits `lo` to `lo + n − 1` of an address. -/
def pbits (pa lo n : Nat) : Nat := pa / 2 ^ lo % 2 ^ n

/-- Slice of an address (R219). -/
def paSlice (pa : Nat) : Nat :=
  pbits pa 7 6 ^^^ pbits pa 13 6 ^^^ pbits pa 19 6 ^^^ pbits pa 25 6 ^^^ pbits pa 31 6 ^^^ pbits pa 37 6 ^^^ pbits pa 43 5

/-- Set of an address (R219). -/
def paSet (pa : Nat) : Nat := pa / 2 ^ 13 % 1536

/-- Channel within the die (R219). -/
def paChan (pa : Nat) : Nat := 2 * paSlice pa + pbits pa 13 1

/-- Sub-channel (R219). -/
def paSub (pa : Nat) : Nat := pbits pa 14 1

/-- Bank (R219). -/
def paBank (pa : Nat) : Nat := pbits pa 15 4 ^^^ pbits pa 19 4

/-- Channel by 128d + n. -/
def chanKey (pa : Nat) : Nat := 128 * homeDie pa + paChan pa

/-- The DQ that a channel has erased on a sub-channel (Table 15.3). -/
def Chan.erased (c : Chan) (sub : Nat) : Option Nat :=
  if bitAt c.erase (4 + 5 * sub) then some (field c.erase (5 * sub) 4) else none

/-- A sector's frame is hard-retired, or its channel failed training (R331, R332). -/
def State.deadFrame (s : State) (pa : Nat) : Bool :=
  decide ((s.chan (chanKey pa)).state = 3) ||
    (tget [] s.mem.retired (homeDie pa)).any (fun r => decide (r.frame = pa / 4096) && r.hard)

/-- Retire a frame (R331): nothing when it already stands so, refused when the table is full. The entry is committed by
RETIREMENT_COMMIT, which writes the record (R408, R409). -/
def State.retire (s : State) (pa : Nat) (hard : Bool) : State :=
  let d := homeDie pa
  let f := pa / 4096
  let l := tget [] s.mem.retired d
  let entry : BitVec 32 := BitVec.ofNat 32 (f % 2 ^ 30 + (if hard then 0 else 2 ^ 30))
  let add (l : List Retired) : State :=
    { s with mem := { s.mem with retired := tset [] s.mem.retired d l },
             svc := { s.svc with uncom := s.svc.uncom ++ [entry] } }
  let more (s : State) : State := { s with mem := { s.mem with retN := tmod 0 s.mem.retN d (· + 1) } }
  match l.find? (fun r => decide (r.frame = f)) with
  | some r => if hard && !r.hard then (add (l.map (fun r => if r.frame = f then { r with hard := true } else r))) else s
  | none =>
    if 4096 ≤ l.length then
      let s := if hard then { s with svc := { s.svc with frmRef := true } } else s
      (s.log 0x84 31 d false [w64 d, w64 (4096 * f), w64 (b2n hard), w64 l.length, 1]).healthCheck
    else more (add (l ++ [⟨f, hard⟩]))

/-- Always-on ticks that a channel has spent out of self-refresh by tick `now`: scrub periods are measured in them (R330). -/
def Chan.active (c : Chan) (now : Nat) : Nat := now - c.slept - (if c.sleep then now - c.sleptAt else 0)

/-- A channel leaves self-refresh at tick `now` (R330). -/
def Chan.awake (c : Chan) (now : Nat) : Chan :=
  if c.sleep then { c with sleep := false, slept := c.slept + (now - c.sleptAt) } else c

/-- A channel enters self-refresh at tick `now` (R330). -/
def Chan.rest (c : Chan) (now : Nat) : Chan := if c.sleep then c else { c with sleep := true, sleptAt := now }

/-- Ticks of a channel's scrub period: hours of 25 MHz ticks. -/
def Chan.period (c : Chan) : Nat := field c.scrub 0 16 * 90000000000

/-- Count a corrected burst toward the erased pin of R326: 64 in a scrub period with an error on one DQ. A second DQ that
comes to 64 is logged as refused; the one already marked is marked once. -/
def State.pinCount (s : State) (pa : Nat) (dqs : List Nat) (inj : Bool) : State :=
  let k := chanKey pa
  let sub := paSub pa
  dqs.foldl (fun s dq =>
    let c := s.chan k
    let n := tget 0 c.pins (16 * sub + dq) + 1
    let s := s.setChan k { c with pins := tset 0 c.pins (16 * sub + dq) n }
    if n ≠ 64 then s
    else
      let c := s.chan k
      let free := (c.erased sub).isNone
      let v : Word := place 1 (4 + 5 * sub) 1 ||| place dq (5 * sub) 4
      let s := if free then
          s.setChan k { c with erase := c.erase ||| v, pinInj := if inj then c.pinInj ||| ones sub 1 else c.pinInj }
        else s
      if c.erased sub = some dq then s
      else (s.log 0x85 31 (homeDie pa) inj [w64 (homeDie pa), w64 (paChan pa), w64 sub, w64 dq, w64 (b2n (!free))]).healthCheck) s

/-- Soft retirement: 16 corrected bursts in a frame within one scrub period of active time (R330, R331), each burst
judged by its own channel's period (DESIGN CHOICE, log 32). -/
def State.softCount (s : State) (pa : Nat) : State :=
  let f := pa / 4096
  let k := chanKey pa
  let young (e : Nat × Nat × Nat) : Bool :=
    let c := s.chan e.2.1
    decide (c.period = 0) || decide (c.active s.now ≤ e.2.2 + c.period)
  let l := s.mem.softs.filter young ++ [(f, k, (s.chan k).active s.now)]
  let s := { s with mem := { s.mem with softs := l } }
  if 16 ≤ (l.filter (fun e => decide (e.1 = f))).length then s.retire pa false else s

/-- A sector as it is held. -/
structure Held32 where
  data   : Sector
  poison : Bool := false
  errs   : ErrPat := []
  deriving DecidableEq, Repr

/-- Decode of a held sector. A poisoned sector with at most one further symbol error is poisoned, with two it is
uncorrectable (R327; log 22). -/
def Held32.decode (h : Held32) (dq : Option Nat) : Decoded :=
  if h.poison && decide (h.errs.length ≤ 1) then .poisoned
  else if h.poison && decide (h.errs.length = 2) then .uncorrectable
  else decodePat (if h.poison then xorPat h.errs poisonMask else h.errs) dq

/-- The consequences of decoding a sector at `pa` (Table 15.1): the data, whether it is poisoned, whether it was
corrected. `kind` is 0 for an L2 slice and 1 for a channel; `inj` that an injection caused the pattern. -/
def State.afterDecode (s : State) (kind pa : Nat) (h : Held32) (inj : Bool) : State × Sector × Bool × Bool :=
  let d := homeDie pa
  let k := chanKey pa
  let c := s.chan k
  let inst := if kind = 0 then 64 * d + paSlice pa else k
  let pat := if h.poison then xorPat h.errs poisonMask else h.errs
  match h.decode (if kind = 1 then c.erased (paSub pa) else none) with
  | .clean => (s, applyPat h.data pat, false, false)
  | .corrected f =>
    let s := if kind = 1 then s.setChan k { c with ce := satAdd c.ce 1 } else s
    let s := s.corrected kind inst d inj pa
    let s := if kind = 1 then s.pinCount pa (f.map (fun e => e.1 / 3)).eraseDups inj else s
    let s := if inj ∨ kind ≠ 1 then s else (s.healthEv .ce false).softCount pa
    (s, applyPat h.data (xorPat pat f), false, true)
  | .poisoned =>
    (if kind = 1 then s.setChan k { c with poison := satAdd c.poison 1 } else s, h.data, true, false)
  | .uncorrectable =>
    let s := s.setChan k { c with ue := satAdd c.ue 1 }
    let s := s.log 0x81 31 d inj [w64 kind, w64 inst, w64 pa, 4]
    let s := if inj then s else (s.healthEv .ue false).retire pa true
    (s, applyPat h.data pat, true, false)

/-- A request reaches a channel: it leaves self-refresh and its idle time starts again (R330). -/
def State.touch (s : State) (pa : Nat) : State :=
  let c := s.chan (chanKey pa)
  s.setChan (chanKey pa) { c.awake s.now with lastReq := s.now }

/-- The 32 bytes of a sector of main memory. -/
def sectorBytes (cells : List Host.Cell) (sec : Nat) : Sector :=
  BitVec.ofNat 256 (ofBytes ((List.range 32).map (fun i => tget 0 cells (32 * sec + i))))

/-- Replace the bytes of a sector of main memory. -/
def putSector (cells : List Host.Cell) (sec : Nat) (d : Sector) : List Host.Cell :=
  (List.range 32).foldl (fun m i => tset 0 m (32 * sec + i) (byteOf d i)) cells

/-- Free nonzero error values on the first `n` of some symbols, the symbols themselves free (Table 19.4). -/
def State.errorAt (s : State) (syms : List Nat) : State × ErrPat :=
  syms.foldl (fun (a : State × ErrPat) k =>
    let (v, s) := a.1.free
    (s, xorPat a.2 [(k, BitVec.ofNat 8 (v.toNat % 255 + 1))])) (s, [])

/-- `n` distinct symbols of a burst from a free value. -/
def State.someSymbols (s : State) (n : Nat) : State × List Nat :=
  let (v, s) := s.free
  (s, (List.range n).map (fun i => (v.toNat % 12 + 12 * i) % 36))

/-- MEM_PIN: an error symbol on the DQ of this burst, at a free third of it (Table 19.4). -/
def State.memPin (s : State) (pa : Nat) : State × ErrPat :=
  let u := homeDie pa
  match s.armedAt u 0x08 with
  | none => (s, [])
  | some a =>
    if a.inst % 256 = paChan pa ∧ field a.arg 8 1 = paSub pa then
      let (v, s) := s.free
      let (s, e) := s.errorAt [3 * (field a.arg 0 4) + v.toNat % 3]
      (s.fire u [], e)
    else (s, [])

/-- Read a burst of main memory (R325): the sector, whether it is poisoned, whether a correction must be written back. -/
def State.memRead (s : State) (pa : Nat) : State × Sector × Bool × Bool :=
  let sec := pa / 32
  let s := s.touch pa
  if s.deadFrame pa then
    let c := s.chan (chanKey pa)
    (s.setChan (chanKey pa) { c with poison := satAdd c.poison 1 }, sectorBytes s.mem.cells sec, true, false)
  else
    let (s, e) := s.memPin pa
    let h : Held32 := { data := sectorBytes s.mem.cells sec, poison := tget false s.mem.poison sec,
                        errs := xorPat (tget [] s.mem.errs sec) e }
    s.afterDecode 1 pa h (!e.isEmpty || s.kept sec)

/-- Write a burst of main memory; a hard-retired frame discards it (Table 15.2). MEM_SYMBOL corrupts it (Table 19.4). -/
def State.memWrite (s : State) (pa : Nat) (d : Sector) (poison : Bool) : State :=
  let sec := pa / 32
  let s := s.touch pa
  if s.deadFrame pa then s
  else
    let u := homeDie pa
    let (s, e) := match s.armedAt u 0x07 with
      | none => (s, [])
      | some a =>
        if field a.arg 5 43 = sec then
          let (s, l) := s.someSymbols (field a.arg 48 2)
          let (s, e) := s.errorAt l
          (s.fire u [sec], e)
        else (s, [])
    { s with mem := { s.mem with cells := putSector s.mem.cells sec d, poison := tset false s.mem.poison sec poison,
                                 errs := tset [] s.mem.errs sec e } }

/-- Sector `i` of a line. -/
def lineSec (l : Line) (i : Nat) : Sector := BitVec.ofNat 256 (l.toNat / 2 ^ (256 * i))

/-- Replace sector `i` of a line. -/
def setLineSec (l : Line) (i : Nat) (d : Sector) : Line :=
  (l &&& ~~~(ones (256 * i) 256)) ||| BitVec.ofNat 1024 (d.toNat * 2 ^ (256 * i))

/-- Set bit `i` of a sector mask. -/
def setMaskBit (m : BitVec 4) (i : Nat) (b : Bool) : BitVec 4 :=
  if b then m ||| ones i 1 else m &&& ~~~(ones i 1)

/-- Bits of a byte mask that fall in sector `i`: none, some, all. -/
def maskSec (m : BitVec 128) (i : Nat) : Nat := field m (32 * i) 32

/-- Count a prefetch outcome against a source: 0 to 15 a Stitcher, 16 + d the Tannery of die d (R282). -/
def State.pfCount (s : State) (src : Nat) (f : PfCnt → PfCnt) : State :=
  if src < 16 then
    let k := s.stitcher src
    s.setStitcher src { k with pf := f k.pf }
  else
    let k := s.die (src - 16)
    s.setDie (src - 16) { k with tny := { k.tny with pf := f k.tny.pf } }

/-- The way that holds a line of a slice. -/
def Slice.way (k : Slice) (set line : Nat) : Option (Nat × L2Line) :=
  (List.range 16).findSome? (fun w =>
    match tget none k.ways (16 * set + w) with
    | some l => if l.line = line then some (w, l) else none
    | none => none)

/-- The way that holds the line of an address. -/
def State.l2Find (s : State) (pa : Nat) : Option (Nat × L2Line) :=
  (s.slice (homeDie pa) (paSlice pa)).way (paSet pa) (pa / 128)

/-- Put a line into way `w` of its set, or empty the way. -/
def State.l2Put (s : State) (pa w : Nat) (l : Option L2Line) : State :=
  let d := homeDie pa
  let k := s.slice d (paSlice pa)
  s.setSlice d (paSlice pa) { k with ways := tset none k.ways (16 * paSet pa + w) l }

/-- The use of way `w` on a die. -/
def State.wayUse (s : State) (d w : Nat) : WayUse := tget {} (s.die d).ways w

/-- Write back the dirty sectors of a line, decoding each as it is read (R220, R325). -/
def State.writeBack (s : State) (l : L2Line) : State × L2Line :=
  let pa := 128 * l.line
  let dirty := (List.range 4).filter (fun i => bitAt (l.valid &&& l.dirty) i)
  let s := dirty.foldl (fun s i =>
    let a := pa + 32 * i
    let h : Held32 := { data := lineSec l.data i, poison := bitAt l.poison i, errs := tget [] l.errs i }
    let (s, d, p, _) := s.afterDecode 0 a h (s.kept (a / 32))
    s.memWrite a d p) s
  let d := homeDie pa
  let k := s.slice d (paSlice pa)
  (s.setSlice d (paSlice pa) { k with wb := satAdd k.wb dirty.length }, { l with dirty := 0 })

/-- A tracked line leaves L2 before any demand read (R282). -/
def State.untrack (s : State) (l : L2Line) (f : PfCnt → PfCnt) : State :=
  match l.track with
  | none => s
  | some src => s.pfCount src f

/-- EVICTED. -/
def pfEvict (c : PfCnt) : PfCnt := { c with evict := satAdd c.evict 1 }
/-- NEVER. -/
def pfNever (c : PfCnt) : PfCnt := { c with never := satAdd c.never 1 }
/-- USED. -/
def pfUsed (c : PfCnt) : PfCnt := { c with used := satAdd c.used 1 }
/-- LATE. -/
def pfLate (c : PfCnt) : PfCnt := { c with late := satAdd c.late 1 }
/-- ISSUED. -/
def pfIssue (c : PfCnt) : PfCnt := { c with issue := satAdd c.issue 1 }

/-- The normal way that R220 replaces in the set of `pa`: an invalid way, the lowest dead-marked, else the pseudo-least
recently used, whose choice is free (log 5). Ways that a miss register has reserved are not taken: there is none while
every normal way of the set is reserved. -/
def State.victim (s : State) (pa : Nat) : State × Option Nat :=
  let d := homeDie pa
  let k := s.slice d (paSlice pa)
  let taken := k.miss.filterMap (fun m => if paSet (128 * m.line) = paSet pa then some m.way else none)
  let cand := (List.range 16).filter (fun w => decide ((s.wayUse d w).use = 0) && !taken.contains w)
  let at_ (w : Nat) : Option L2Line := tget none k.ways (16 * paSet pa + w)
  match cand.find? (fun w => (at_ w).isNone) with
  | some w => (s, some w)
  | none =>
    match cand.find? (fun w => ((at_ w).map (·.dead)).getD false) with
    | some w => (s, some w)
    | none =>
      let (v, s) := s.free
      (s, cand[v.toNat % max 1 cand.length]?)

/-- Evict what a way of the set of `pa` holds (R220). -/
def State.evict (s : State) (pa w : Nat) : State :=
  let k := s.slice (homeDie pa) (paSlice pa)
  match tget none k.ways (16 * paSet pa + w) with
  | none => s
  | some l =>
    let s := if l.dead then s else (s.writeBack l).1
    (s.untrack l pfEvict).l2Put pa w none

/-- The control-cache half that may hold a line (R235). -/
def ccHalf (pa : Nat) : Nat := (pbits pa 7 1 + pbits pa 13 1 + pbits pa 19 1) % 2

/-- Invalidate the control-cache copies of a line (R236): either die's cache may hold one. -/
def State.snoop (s : State) (pa : Nat) : State :=
  let h := ccHalf pa
  let set := pa / 128 % 4096
  [0, 1].foldl (fun s d =>
    let k := s.die d
    let c := tget {} k.cc h
    let l := tget [] c.sets set
    if l.any (fun e => decide (e.line = pa / 128)) then
      let c := { c with sets := tset [] c.sets set (l.filter (fun e => !decide (e.line = pa / 128))),
                        snoop := satAdd c.snoop 1 }
      s.setDie d { k with cc := tset {} k.cc h c }
    else s) s

/-- Fetch every invalid sector of a line from memory, the sector of `pa` first (R220): a corrected sector is installed
dirty (R325). -/
def State.fillLine (s : State) (pa : Nat) (l : L2Line) : State × L2Line :=
  let first := pa / 32 % 4
  (List.range 4).foldl (fun (a : State × L2Line) j =>
    let i := (first + j) % 4
    if bitAt a.2.valid i then a
    else
      let (s, d, p, fix) := a.1.memRead (128 * l.line + 32 * i)
      (s, { a.2 with valid := setMaskBit a.2.valid i true, data := setLineSec a.2.data i d,
                     poison := setMaskBit a.2.poison i p, errs := tset [] a.2.errs i [],
                     dirty := setMaskBit a.2.dirty i fix })) (s, l)

/-- L2_SYMBOL corrupts a sector of a line at its next access (Table 19.4). -/
def State.l2Symbol (s : State) (l : L2Line) (i : Nat) : State × L2Line :=
  let pa := 128 * l.line + 32 * i
  let u := homeDie pa
  match s.armedAt u 0x06 with
  | none => (s, l)
  | some a =>
    if field a.arg 5 43 = pa / 32 ∧ bitAt l.valid i then
      let (s, syms) := s.someSymbols (field a.arg 48 2)
      let (s, e) := s.errorAt syms
      (s.fire u [pa / 32], { l with errs := tset [] l.errs i (xorPat (tget [] l.errs i) e) })
    else (s, l)

/-- Read the sectors of a line that are valid, decoding each of them in `want` (R325): corrected data replace it, and what
decodes with outcome 3 or 4 is held as a poisoned sector from then on (R327). -/
def State.readSecs (s : State) (l : L2Line) (want : List Nat) : State × L2Line × Line × BitVec 4 :=
  want.foldl (fun (a : State × L2Line × Line × BitVec 4) i =>
    let (s, l) := a.1.l2Symbol a.2.1 i
    let pa := 128 * l.line + 32 * i
    let h : Held32 := { data := lineSec l.data i, poison := bitAt l.poison i, errs := tget [] l.errs i }
    let (s, d, p, fix) := s.afterDecode 0 pa h (s.kept (pa / 32))
    let l := if fix || p then { l with data := setLineSec l.data i d, errs := tset [] l.errs i [],
                                       poison := setMaskBit l.poison i p } else l
    (s, l, setLineSec a.2.2.1 i d, setMaskBit a.2.2.2 i p)) (s, l, 0, 0)

/-- The open group whose range holds a line (R228). -/
def State.groupAt (s : State) (pa : Nat) : Option Group :=
  (s.die (homeDie pa)).groups.find? (fun g => decide (g.base ≤ pa) && decide (pa < g.base + g.len))

/-- Replace a group of a die. -/
def State.setGroup (s : State) (d : Nat) (g : Group) : State :=
  let k := s.die d
  s.setDie d { k with groups := k.groups.map (fun h => if h.part = g.part ∧ h.g = g.g then g else h) }

/-- The sum entry of a line of a group. -/
def Group.lineAt (g : Group) (pa : Nat) : RedLine := tget {} g.lines ((pa - g.base) / 128)

/-- Replace the sum entry of a line of a group. -/
def Group.setLine (g : Group) (pa : Nat) (l : RedLine) : Group :=
  { g with lines := tset {} g.lines ((pa - g.base) / 128) l }

/-- Wake the L2 half of an address (R370). -/
def State.wakeL2 (s : State) (pa : Nat) : State :=
  (s.wake (l2Dom (homeDie pa) (paSlice pa / 32))).wake (12 * homeDie pa + 11)

/-- Count a hit or a miss-register allocation of a slice. -/
def State.l2Count (s : State) (pa : Nat) (hit : Bool) : State :=
  let d := homeDie pa
  let k := s.slice d (paSlice pa)
  s.setSlice d (paSlice pa)
    (if hit then { k with hitN := satAdd k.hitN 1 } else { k with missN := satAdd k.missN 1 })

/-- Count a read that finds its line dead-marked, and end the tracking of a prefetched line (R225, R282). -/
def State.onRead (s : State) (pa : Nat) (l : L2Line) (demand : Bool) : State × L2Line :=
  let d := homeDie pa
  let k := s.slice d (paSlice pa)
  let s := if l.dead then s.setSlice d (paSlice pa) { k with deadrd := satAdd k.deadrd 1 } else s
  if demand then (s.untrack l pfUsed, { l with track := none }) else (s, l)

/-- Give a missing line a replaced way; none while every normal way of its set is reserved. -/
def State.l2Alloc (s : State) (pa : Nat) : State × Option (Nat × L2Line) :=
  match s.victim pa with
  | (s, some w) => (s.evict pa w, some (w, { line := pa / 128 }))
  | (s, none) => (s, none)

/-- Merge a masked write into a line whose partly covered sectors are valid (R220, R327). `bad` marks the sectors that
are written poisoned. -/
def mergeLine (l : L2Line) (mask : BitVec 128) (data : Line) (bad : BitVec 4) : L2Line :=
  (List.range 4).foldl (fun l i =>
    let m := maskSec mask i
    if m = 0 then l
    else
      let new := (List.range 32).foldl (fun d b =>
        if bitAt mask (32 * i + b) then setByte d b (byteOf data (32 * i + b)) else d) (lineSec l.data i)
      let whole := decide (m = 2 ^ 32 - 1)
      { l with data := setLineSec l.data i new, valid := setMaskBit l.valid i true, dirty := setMaskBit l.dirty i true,
               poison := setMaskBit l.poison i (bitAt bad i || (!whole && bitAt l.poison i)),
               errs := if whole then tset [] l.errs i [] else l.errs }) { l with dead := false }

/-- Sectors that a mask covers in part. -/
def partSecs (mask : BitVec 128) : List Nat :=
  (List.range 4).filter (fun i => decide (0 < maskSec mask i) && decide (maskSec mask i < 2 ^ 32 - 1))

/-- Sectors that a mask covers whole. -/
def wholeSecs (mask : BitVec 128) : List Nat := (List.range 4).filter (fun i => decide (maskSec mask i = 2 ^ 32 - 1))

/-- Sectors that a request needs valid: the one that a read names, those that a write covers in part (R220). -/
def needSecs (pa : Nat) : L2Req → List Nat
  | .read => [pa / 32 % 4]
  | .write mask _ => partSecs mask

/-- Serve a request from way `w`, whose line holds every sector it needs (R220, R225, R236). A read is answered with the
sector that it names. `bad` marks the sectors that a write leaves poisoned. Every sector of a hard-retired frame reads
poisoned, and a write of one is discarded (Table 15.2). -/
def State.serveLine (s : State) (pa : Nat) (req : L2Req) (bad : BitVec 4) (w : Nat) (l : L2Line) : State :=
  match req with
  | .read =>
    let (s, l, d, p) := s.readSecs l (needSecs pa .read)
    let (s, l) := s.onRead pa l true
    (s.l2Put pa w (some l)).emit (.answer pa d (if s.deadFrame pa then 0xF else p))
  | .write mask data =>
    if s.deadFrame pa then s
    else
    let s := (wholeSecs mask).foldl (fun s i => s.unkeep (pa / 128 * 4 + i)) s
    let (s, l, _, _) := s.readSecs l (partSecs mask)
    (s.snoop pa).l2Put pa w (some (mergeLine l mask data bad))

/-- The oldest miss register that tracks a line. -/
def Slice.tracks (k : Slice) (line : Nat) : Option L2Miss := k.miss.find? (fun m => decide (m.line = line))

/-- The oldest miss register of a line that merges another request: it holds fewer than 32 (R221). -/
def Slice.joins (k : Slice) (line : Nat) : Option Nat :=
  k.miss.findIdx? (fun m => decide (m.line = line) && decide (m.reqs.length < 32))

/-- Memory returns the line of a miss register: its sectors are filled, that of `first` before the others, the register
frees, its requests are served oldest first (R220, R221). A prefetched line is tracked unless a demand read has joined it,
and a line that is tracked already stays so (R282). -/
def State.fillAt (s : State) (m : L2Miss) (first : Nat) : State :=
  let pa := 128 * m.line
  let d := homeDie pa
  let l := ((s.l2Find pa).map (·.2)).getD { line := m.line }
  let (s, l) := s.fillLine first l
  let news := m.pref.isSome && !m.demand
  let s := if news then s.untrack l pfNever else s
  let s := s.l2Put pa m.way (some { l with track := if news then m.pref else l.track })
  let k := s.slice d (paSlice pa)
  let s := s.setSlice d (paSlice pa) { k with miss := k.miss.erase m }
  m.reqs.foldl (fun s r => match s.l2Find r.pa with
    | some (w, l) => s.serveLine r.pa r.req 0 w l
    | none => s) s

/-- Memory returns the line of a miss register, the sector of its oldest request first (R220). -/
def State.fillMiss (s : State) (m : L2Miss) : State := s.fillAt m ((m.reqs.head?.map (·.pa)).getD (128 * m.line))

/-- L2S_MSHRLIM.LIM as it acts (Table 10.8). -/
def Slice.limit (k : Slice) : Nat := max 1 (min 16 (field k.lim 0 5))

/-- The (channel, bank) pair of an address (R221). -/
def paPair (pa : Nat) : Nat × Nat := (paChan pa, paBank pa)

/-- May a new miss register be allocated for an address (R221)? -/
def Slice.room (k : Slice) (pa : Nat) : Bool :=
  decide (k.miss.length < 64) &&
    decide ((k.miss.filter (fun m => decide (paPair (128 * m.line) = paPair pa))).length < k.limit)

/-- Join a request to register `i` of its slice; a demand read that joins a prefetch makes it LATE (R282). -/
def State.joinMiss (s : State) (pa : Nat) (req : L2Req) (i : Nat) : State :=
  let d := homeDie pa
  let late := decide (req = .read)
  let s := match (s.slice d (paSlice pa)).miss[i]? with
    | some { pref := some src, demand := false, .. } => if late then s.pfCount src pfLate else s
    | _ => s
  let k := s.slice d (paSlice pa)
  s.setSlice d (paSlice pa) { k with
    miss := k.miss.modify i (fun m => { m with reqs := m.reqs ++ [⟨pa, req⟩], demand := m.demand || late }) }

/-- The way that a miss of a line takes: its own when it is present in part, the one that another register of the line has
reserved, else a replaced one (R220). -/
def State.missWay (s : State) (pa : Nat) : State × Option Nat :=
  match s.l2Find pa with
  | some (w, _) => (s, some w)
  | none =>
    match (s.slice (homeDie pa) (paSlice pa)).tracks (pa / 128) with
    | some m => (s, some m.way)
    | none => match s.l2Alloc pa with
      | (s, some (w, _)) => (s, some w)
      | (s, none) => (s, none)

/-- Allocate a miss register for a line (R220, R221), unless no way of its set can be taken. `pref` is the source of a
prefetch. -/
def State.openMiss (s : State) (pa : Nat) (reqs : List L2Wait) (pref : Option Nat) : State × Bool :=
  match s.missWay pa with
  | (s, none) => (s, false)
  | (s, some w) =>
    let s := s.l2Count pa false
    let k := s.slice (homeDie pa) (paSlice pa)
    (s.setSlice (homeDie pa) (paSlice pa)
      { k with miss := k.miss ++ [{ line := pa / 128, way := w, reqs := reqs, pref := pref }] }, true)

/-- What a request meets at its slice: a line of an open group (R234), a hit or a write that needs no fetch, a register to
join, a register to allocate, or nothing that it can take now. -/
inductive L2Meet where
  | group (g : Group)
  | hit (w : Nat) (l : L2Line)
  | whole
  | join (i : Nat)
  | open_
  | wait
  deriving DecidableEq, Repr

/-- What a request meets (R220, R221, R234): a hit never waits behind a miss. -/
def State.l2Meet (s : State) (pa : Nat) (req : L2Req) : L2Meet :=
  let k := s.slice (homeDie pa) (paSlice pa)
  let miss : L2Meet :=
    match k.joins (pa / 128) with
    | some i => .join i
    | none => if k.room pa then .open_ else .wait
  match s.groupAt pa with
  | some g => .group g
  | none =>
    match s.l2Find pa with
    | some (w, l) => if (needSecs pa req).all (bitAt l.valid) then .hit w l else miss
    | none => if (needSecs pa req).isEmpty && (k.tracks (pa / 128)).isNone then .whole else miss

/-- A request acts on what it meets; false when it can take nothing now. A line that no way of its set can hold waits
until a fill of the set has freed one (DESIGN CHOICE, log 28). -/
def State.l2Act (s : State) (pa : Nat) (req : L2Req) : State × Bool :=
  match s.l2Meet pa req with
  | .group g =>
    match req with
    | .read => (s.emit (.answer pa (g.lineAt pa).sum (if s.deadFrame pa then 0xF else (g.lineAt pa).poison)), true)
    | .write _ _ => (s.setGroup (homeDie pa) { g with wr := true }, true)
  | .hit w l => ((s.l2Count pa true).serveLine pa req 0 w l, true)
  | .whole =>
    match s.l2Alloc pa with
    | (s, some (w, l)) => (s.serveLine pa req 0 w l, true)
    | (s, none) => (s, false)
  | .join i => (s.joinMiss pa req i, true)
  | .open_ => s.openMiss pa [⟨pa, req⟩] none
  | .wait => (s, false)

/-- A request arrives at its slice (R220, R221): it acts, or waits in the slice queue. False when the slice takes no
request because its queue is full. -/
def State.arriveL2 (s : State) (pa : Nat) (req : L2Req) : State × Bool :=
  let d := homeDie pa
  if 256 ≤ (s.slice d (paSlice pa)).queue.length then (s, false)
  else
    match s.l2Act pa req with
    | (s, true) => (s, true)
    | (s, false) =>
      let k := s.slice d (paSlice pa)
      (s.setSlice d (paSlice pa) { k with queue := k.queue ++ [⟨pa, req⟩] }, true)

/-- Queued requests of a slice that can go on do so, oldest first (R221): `i` of the queue's oldest have stayed. -/
def State.promote (s : State) (d n : Nat) : Nat → Nat → State
  | 0, _ => s
  | fuel + 1, i =>
    let k := s.slice d n
    match k.queue[i]? with
    | none => s
    | some r =>
      match s.l2Act r.pa r.req with
      | (t, true) =>
        let k := t.slice d n
        (t.setSlice d n { k with queue := k.queue.eraseIdx i }).promote d n fuel i
      | (_, false) => s.promote d n fuel (i + 1)

/-- Queued requests of the slice of an address go on. -/
def State.promoteAt (s : State) (pa : Nat) : State :=
  s.promote (homeDie pa) (paSlice pa) (s.slice (homeDie pa) (paSlice pa)).queue.length 0

/-- Complete the fills of a line that miss registers track now, oldest first. -/
def State.quietLine (s : State) (pa : Nat) : State :=
  let l := (s.slice (homeDie pa) (paSlice pa)).miss.filter (fun m => decide (m.line = pa / 128))
  if l.isEmpty then s else (l.foldl State.fillMiss s).promoteAt pa

/-- More fills than the registers and the queued requests of a slice can cause in a row. -/
def fillFuel : Nat := 400

/-- Memory returns the oldest line that a register picked by `which` tracks in the slice of `pa`, and queued requests go on;
none where there is no such register. -/
def State.fillOldest (s : State) (pa : Nat) (which : L2Miss → Bool) : Option State :=
  ((s.slice (homeDie pa) (paSlice pa)).miss.find? which).map (fun m => (s.fillMiss m).promoteAt pa)

/-- Complete the fills of slice `n` that `line` or `way` picks, by their line or reserved way, those too that queued requests
open meanwhile; while a request for a picked line is still queued, the oldest fill completes. -/
def State.settleSlice (d n : Nat) (line way : Nat → Bool) : Nat → State → State
  | 0, s => s
  | fuel + 1, s =>
    let k := s.slice d n
    let stuck := k.queue.any (fun r => line (r.pa / 128))
    match k.miss.find? (fun m => line m.line || way m.way) <|> (if stuck then k.miss.head? else none) with
    | none => s
    | some m =>
      let t := s.fillMiss m
      State.settleSlice d n line way fuel (t.promote d n (t.slice d n).queue.length 0)

/-- Complete everything that the slice of `pa` has in flight or queued for its line. -/
def State.settleLine (s : State) (pa : Nat) : State :=
  State.settleSlice (homeDie pa) (paSlice pa) (fun n => decide (n = pa / 128)) (fun _ => false) fillFuel s

/-- An access that another unit makes in its own step waits, in that step, while the slice's queue is full: the slice's oldest
fills complete until it accepts a request (R221, log 28). -/
def State.l2Admit (pa : Nat) : Nat → State → State
  | 0, s => s
  | fuel + 1, s =>
    if (s.slice (homeDie pa) (paSlice pa)).queue.length < 256 then s
    else
      match s.fillOldest pa (fun _ => true) with
      | none => s
      | some s => State.l2Admit pa fuel s

/-- A way for a line that an access made inside another unit's step writes without a fetch: while every normal way of its set
is reserved, the oldest fill of the set completes first (log 28). -/
def State.l2Own (pa : Nat) : Nat → State → State × Option (Nat × L2Line)
  | 0, s => (s, none)
  | fuel + 1, s =>
    match s.l2Alloc pa with
    | (s, some r) => (s, some r)
    | (_, none) =>
      match s.fillOldest pa (fun m => decide (paSet (128 * m.line) = paSet pa)) with
      | none => (s, none)
      | some s => State.l2Own pa fuel s

/-- Fetch a line that misses for an access made inside another unit's step: it takes a miss register, whose fill completes in
that step (R220, R221). While 64 registers are busy, its pair is at LIM or every normal way of its set is reserved, it
waits as a queued request would, the oldest fills that stand in its way completing first (log 28). -/
def State.l2Fetch (pa : Nat) : Nat → State → State
  | 0, s => s
  | fuel + 1, s =>
    let k := s.slice (homeDie pa) (paSlice pa)
    let after (which : L2Miss → Bool) : State :=
      match s.fillOldest pa which with
      | none => s
      | some s => State.l2Fetch pa fuel s
    if !k.room pa then
      after (fun m => decide (64 ≤ k.miss.length) || decide (paPair (128 * m.line) = paPair pa))
    else
      match s.openMiss pa [] none with
      | (t, true) =>
        match (t.slice (homeDie pa) (paSlice pa)).miss.getLast? with
        | some m => (t.fillAt m pa).promoteAt pa
        | none => t
      | (_, false) => after (fun m => decide (paSet (128 * m.line) = paSet pa))

/-- An access made inside another unit's step reaches its slice: the half is awake, the slice accepts it, and what the slice
has in flight or queued for its line is complete (R221, R370). -/
def State.l2Meets (s : State) (pa : Nat) : State := (State.l2Admit pa fillFuel (s.wakeL2 pa)).settleLine pa

/-- A demand read finds the fill of a prefetched line in flight: LATE (R282). -/
def State.lateDemand (s : State) (pa : Nat) : State :=
  let d := homeDie pa
  match (s.slice d (paSlice pa)).tracks (pa / 128) with
  | none => s
  | some m =>
    match m.pref with
    | none => s
    | some src =>
      if m.demand then s
      else
        let s := s.pfCount src pfLate
        let k := s.slice d (paSlice pa)
        s.setSlice d (paSlice pa)
          { k with miss := k.miss.map (fun x => if x.line = pa / 128 then { x with demand := true } else x) }

/-- Read the line of `pa` at its home L2 (R220, R221, R225, R234): the line and its poisoned sectors, all of them in a
hard-retired frame (Table 15.2). `want` lists the sectors whose data the reader takes; `demand` is false for a prefetch. A
line that no way of its set can ever hold, which no grant of R222 allows, passes L2 by. -/
def State.l2Read (s : State) (pa : Nat) (want : List Nat) (demand : Bool) : State × Line × BitVec 4 :=
  let s := (if demand then s.lateDemand pa else s).l2Meets pa
  match s.groupAt pa with
  | some g => (s, (g.lineAt pa).sum, if s.deadFrame pa then 0xF else (g.lineAt pa).poison)
  | none =>
    let has := match s.l2Find pa with | some (_, l) => want.all (bitAt l.valid) | none => false
    let s := if has then s.l2Count pa true else State.l2Fetch pa fillFuel s
    match s.l2Find pa with
    | some (w, l) =>
      let (s, l, d, p) := s.readSecs l want
      let (s, l) := s.onRead pa l demand
      (s.l2Put pa w (some l), d, if s.deadFrame pa then 0xF else p)
    | none =>
      let (s, l) := s.fillLine pa { line := pa / 128 }
      let (s, _, d, p) := s.readSecs l want
      (s, d, if s.deadFrame pa then 0xF else p)

/-- A masked write of the line of `pa` at its home L2 (R220, R221, R225, R227, R234, R236). -/
def State.l2Write (s : State) (pa : Nat) (mask : BitVec 128) (data : Line) (bad : BitVec 4) : State :=
  let s := s.l2Meets pa
  match s.groupAt pa with
  | some g => s.setGroup (homeDie pa) { g with wr := true }
  | none =>
    let (s, at_) := match s.l2Find pa with
      | some (w, l) =>
        if (partSecs mask).all (bitAt l.valid) then (s.l2Count pa true, some (w, l))
        else
          let s := State.l2Fetch pa fillFuel s
          (s, s.l2Find pa)
      | none =>
        if (partSecs mask).isEmpty then State.l2Own pa fillFuel s
        else
          let s := State.l2Fetch pa fillFuel s
          (s, s.l2Find pa)
    match at_ with
    | some (w, l) => s.serveLine pa (.write mask data) bad w l
    | none =>
      let (s, l) := s.fillLine pa { line := pa / 128 }
      (s.writeBack (mergeLine l mask data bad)).1

/-- Bytes of a line from `off` on. -/
def lineBytes (l : Line) (off n : Nat) : List Byte := (List.range n).map (fun i => byteOf l (off + i))

/-- Sectors that `n` bytes from `off` of a line touch. -/
def touched (off n : Nat) : List Nat :=
  (List.range 4).filter (fun i => decide (32 * i < off + n) && decide (off < 32 * i + 32))

/-- The pieces of a byte range, one per line: (address, bytes). `fuel` bounds the lines. -/
def pieces : Nat → Nat → Nat → List (Nat × Nat)
  | 0, _, _ => []
  | fuel + 1, a, n => if n = 0 then [] else
    let k := min n (128 - a % 128)
    (a, k) :: pieces fuel (a + k) (n - k)

/-- Read `n` bytes of this device's LPDDR6: the bytes, and the address of the first poisoned sector touched. -/
def State.readMem (s : State) (a n : Nat) : State × List Byte × Option Nat :=
  (pieces (n / 128 + 2) a n).foldl (fun (r : State × List Byte × Option Nat) e =>
    let off := e.1 % 128
    let t := touched off e.2
    let (s, l, p) := r.1.l2Read e.1 t true
    let bad := (t.find? (bitAt p)).map (fun i => max e.1 (e.1 / 128 * 128 + 32 * i))
    (s, r.2.1 ++ lineBytes l off e.2, r.2.2 <|> bad)) (s, [], none)

/-- Write bytes to this device's LPDDR6; `poison` marks every sector touched as poisoned. -/
def State.writeMem (s : State) (a : Nat) (bytes : List Byte) (poison : Bool) : State :=
  ((pieces (bytes.length / 128 + 2) a bytes.length).foldl (fun (r : State × List Byte) e =>
    let off := e.1 % 128
    (r.1.l2Write e.1 (ones off e.2) (setBytes 0 off (r.2.take e.2)) (if poison then 0xF else 0), r.2.drop e.2))
    (s, bytes)).1

/-- Write bytes of which each poisoned source sector writes its destination sector poisoned (Table 19.3): `bad i` says
whether byte i came from a poisoned sector. -/
def State.writeMark (s : State) (a : Nat) (bytes : List Byte) (bad : Nat → Bool) : State :=
  ((pieces (bytes.length / 128 + 2) a bytes.length).foldl (fun (r : State × List Byte × Nat) e =>
    let off := e.1 % 128
    let b : BitVec 4 := (List.range 4).foldl (fun m i =>
      setMaskBit m i ((List.range e.2).any (fun j => decide ((off + j) / 32 = i) && bad (r.2.2 + j)))) 0
    (r.1.l2Write e.1 (ones off e.2) (setBytes 0 off (r.2.1.take e.2)) b, r.2.1.drop e.2, r.2.2 + e.2))
    (s, bytes, 0)).1

/-- Count an access of the control cache that enters on `side`: the crossing of the link, and a hit or a miss in the home
half (R235, Table 10.7). -/
def State.ccCount (s : State) (d side pa : Nat) (hit : Bool) : State :=
  let k := s.die d
  let h := ccHalf pa
  let cc := if h = side then k.cc else tmod {} k.cc side (fun c => { c with link := satAdd c.link 1 })
  let cc := tmod {} cc h (fun c => if hit then { c with hitN := satAdd c.hitN 1 } else { c with missN := satAdd c.missN 1 })
  s.setDie d { k with cc := cc }

/-- The copies of its set that the home half of a line holds, in a die's control cache. -/
def State.ccSet (s : State) (d pa : Nat) : List CLine := tget [] (tget {} (s.die d).cc (ccHalf pa)).sets (pa / 128 % 4096)

/-- Replace the copies of a line's set. -/
def State.setCcSet (s : State) (d pa : Nat) (l : List CLine) : State :=
  let k := s.die d
  s.setDie d { k with cc := tmod {} k.cc (ccHalf pa) (fun c => { c with sets := tset [] c.sets (pa / 128 % 4096) l }) }

/-- The copy of a line in a die's control cache; a hard-retired frame is read at L2, where it reads poisoned. -/
def State.ccCopy (s : State) (d pa : Nat) : Option CLine :=
  if s.deadFrame pa then none else (s.ccSet d pa).find? (fun e => decide (e.line = pa / 128))

/-- The other copies of the set of a line. -/
def State.ccOthers (s : State) (d pa : Nat) : List CLine := (s.ccSet d pa).filter (fun e => !decide (e.line = pa / 128))

/-- One read of the control cache (R235, R236): `side` 0 west, 1 east. The line, and its poisoned sectors. -/
def State.ccRead (s : State) (d side pa : Nat) : State × Line × BitVec 4 :=
  match s.ccCopy d pa with
  | some e => ((s.ccCount d side pa true).setCcSet d pa (e :: s.ccOthers d pa), e.data, 0)
  | none =>
    let (s, data, p) := (s.ccCount d side pa false).l2Read pa [0, 1, 2, 3] true
    if p ≠ 0 ∨ (s.groupAt pa).isSome then (s, data, p)
    else (s.setCcSet d pa ({ line := pa / 128, valid := 0xF, data := data } :: (s.ccOthers d pa).take 15), data, 0)

/-- Read bytes through a die's control cache, each request entering on `side`. -/
def State.ccBytes (s : State) (d side a n : Nat) : State × List Byte × Option Nat :=
  (pieces (n / 128 + 2) a n).foldl (fun (r : State × List Byte × Option Nat) e =>
    let off := e.1 % 128
    let (s, l, p) := r.1.ccRead d side e.1
    let bad := ((touched off e.2).find? (bitAt p)).map (fun i => max e.1 (e.1 / 128 * 128 + 32 * i))
    (s, r.2.1 ++ lineBytes l off e.2, r.2.2 <|> bad)) (s, [], none)

/-- One write of the control cache (R236): it goes to the home L2, which invalidates any copy but the one written
through. A write that finds no copy makes none (DESIGN CHOICE, log 28). -/
def State.ccPut (s : State) (d side pa : Nat) (b : List Byte) : State :=
  let off := pa % 128
  let toL2 (s : State) : State := s.l2Write pa (ones off b.length) (setBytes 0 off b) 0
  match s.ccCopy d pa with
  | none => toL2 (s.ccCount d side pa false)
  | some e =>
    let s := toL2 ((s.ccCount d side pa true).setCcSet d pa (s.ccOthers d pa))
    s.setCcSet d pa ({ e with data := setBytes e.data off b } :: s.ccOthers d pa)

/-- Write bytes through a die's control cache, each request entering on `side`. -/
def State.ccWrite (s : State) (d side a : Nat) (bytes : List Byte) : State :=
  ((pieces (bytes.length / 128 + 2) a bytes.length).foldl (fun (r : State × List Byte) e =>
    (r.1.ccPut d side e.1 (r.2.take e.2), r.2.drop e.2)) (s, bytes)).1

/-- Is poison at an address the work of an injection (R403): at a kept sector, or in an answer that an injection made fail? -/
def State.poisonInj (s : State) (addr : Nat) : Bool :=
  s.kept (addr / 32) || s.answers.any (fun a => a.inj && decide (a.addr ≤ addr) && decide (addr < a.addr + a.len))

/-- Consuming poison (R400): a record and RAS_POISONRD of the die. `kind` is the row of Table 19.3. -/
def State.consume (s : State) (kind who part src addr : Nat) : State :=
  let b := s.injBlk src
  let s := s.setInj src { b with poison := satAdd b.poison 1 }
  let inj := s.poisonInj addr
  let s := if inj ∧ kind < 4 ∧ who < 128 then s.setCore who { s.core who with injSync := true } else s
  s.log 0x82 part src inj [w64 kind, w64 who, w64 addr]

end Sys2Proof.Machine
end

