-- ==== Sys2Proof/Machine/FabricOps.lean ====
section
/-! DEFINITION. The Lumette fabric as a sender sees it: frames (R344), routing (R352 to R357), credits and the retry
buffer (R345, R346), requests and their tags (R348, R349), host-window requests (R337, R338). -/

namespace Sys2Proof

/-- Fields of H0 and H1 (Table 16.1). -/
def Frame.type (f : Frame) : Nat := Machine.field f.h0 60 4
def Frame.vc (f : Frame) : Nat := Machine.field f.h0 57 3
def Frame.det (f : Frame) : Bool := Machine.bitAt f.h0 56
def Frame.dst (f : Frame) : Nat := Machine.field f.h0 42 14
def Frame.src (f : Frame) : Nat := Machine.field f.h0 28 14
def Frame.inter (f : Frame) : Nat := Machine.field f.h0 14 14
def Frame.part (f : Frame) : Nat := Machine.field f.h0 9 5
def Frame.len (f : Frame) : Nat := Machine.field f.h0 4 5
def Frame.flags (f : Frame) : Nat := Machine.field f.h0 0 4
def Frame.lseq (f : Frame) : BitVec 16 := BitVec.ofNat 16 (Machine.field f.h1 48 16)
def Frame.lack (f : Frame) : BitVec 16 := BitVec.ofNat 16 (Machine.field f.h1 32 16)
def Frame.tag (f : Frame) : Nat := Machine.field f.h1 16 16
def Frame.cvc (f : Frame) : Nat := Machine.field f.h1 13 3
def Frame.ccnt (f : Frame) : Nat := Machine.field f.h1 0 13

/-- Units of credit that a frame uses (R346). -/
def Frame.units (f : Frame) : Nat := 1 + f.len

/-- Does a frame carry a sequence number: every one but HELLO, NAK and credit-only frames (R346)? -/
def Frame.seqd (f : Frame) : Bool := decide (f.type ≠ 0) || decide (Machine.field f.h2 56 8 = 3)

/-- The line in which a frame waits for its port: its virtual channel, or 8 for LINK frames, which need no credit (R346). -/
def Frame.lane (f : Frame) : Nat := if f.type = 0 then 8 else f.vc

end Sys2Proof

namespace Sys2Proof.Machine

/-- Replace `n` bits at `lo` of a word. -/
def putField (w : Word) (lo n v : Nat) : Word := (w &&& ~~~(ones lo n)) ||| place v lo n

/-- A frame of class 0 or 1 from this device, before routing. -/
def State.mkFrame (s : State) (type cls dst part flags tag : Nat) (h2 h3 : Word) (payload : List Sector) : Frame :=
  { h0 := place type 60 4 ||| place cls 59 1 ||| place dst 42 14 ||| place s.devid 28 14 ||| place part 9 5 |||
      place payload.length 4 5 ||| place flags 0 4,
    h1 := place tag 16 16, h2 := h2, h3 := h3, payload := payload }

/-- LOGi (R352, R416). -/
def State.logDim (s : State) (i : Nat) : Nat := field s.pins.fcfg (14 + 3 * i) 3

/-- Is dimension i a mesh? -/
def State.mesh (s : State) (i : Nat) : Bool := bitAt s.pins.fcfg (26 + i)

/-- Lowest DEVID bit of dimension i. -/
def State.dimLo (s : State) (i : Nat) : Nat := ((List.range i).map s.logDim).sum

/-- Coordinate i of a device. -/
def State.coord (s : State) (dev i : Nat) : Nat := dev / 2 ^ s.dimLo i % 2 ^ s.logDim i

/-- The device with coordinate i replaced. -/
def State.setCoord (s : State) (dev i x : Nat) : Nat := dev - s.coord dev i * 2 ^ s.dimLo i + x * 2 ^ s.dimLo i

/-- The configuration is invalid (R352). -/
def State.badCfg (s : State) : Bool :=
  (List.range 4).any (fun i => decide (4 < s.logDim i) || (s.mesh i && decide (s.logDim i = 0))) ||
    decide (14 < s.dimLo 4) || decide (2 ^ s.dimLo 4 ≤ s.devid)

/-- The partner that R353 names for a port of a device: (device, port), when the port is wired. -/
def State.partner (s : State) (dev port : Nat) : Option (Nat × Nat) :=
  let i := port / 2
  let n := 2 ^ s.logDim i
  let x := s.coord dev i
  if n ≤ 1 then none
  else if port % 2 = 0 then
    if x + 1 = n then (if s.mesh i then none else some (s.setCoord dev i 0, 2 * i + 1))
    else some (s.setCoord dev i (x + 1), 2 * i + 1)
  else if x = 0 then (if s.mesh i then none else some (s.setCoord dev i (n - 1), 2 * i))
  else some (s.setCoord dev i (x - 1), 2 * i)

/-- What a device's latest LSA says of its port: 0 not UP, 1 half, 2 full width (R359). -/
def State.lsaPort (s : State) (dev port : Nat) : Nat :=
  match tget none s.fab.lsas dev with
  | none => 0
  | some (_, v) => field v (2 * port) 2

/-- A link is usable when both endpoints' latest LSAs report it UP (R359). -/
def State.usable (s : State) (dev port : Nat) : Bool :=
  match s.partner dev port with
  | none => false
  | some (e, q) => decide (s.lsaPort dev port ≠ 0) && decide (s.lsaPort e q ≠ 0)

/-- The next port of primary routing from `dev` toward `dst`, and whether that hop crosses a wrap (R354, R355): a tie goes
by + when every link of that path is usable. -/
def State.hop (s : State) (dev dst : Nat) : Option (Nat × Bool) :=
  (List.range 4).findSome? (fun i =>
    let n := 2 ^ s.logDim i
    let x := s.coord dev i
    let y := s.coord dst i
    if x = y then none
    else
      let up := (y + n - x) % n
      let plus := if s.mesh i then decide (x < y)
        else if 2 * up < n then true
        else if n < 2 * up then false
        else (List.range up).all (fun k => s.usable (s.setCoord dev i ((x + k) % n)) (2 * i))
      some (if plus then (2 * i, decide (x + 1 = n)) else (2 * i + 1, decide (x = 0))))

/-- Is every link of the primary path usable, in at most `fuel` hops? The number of hops when it is. -/
def State.pathLen (s : State) : Nat → Nat → Nat → Option Nat
  | 0, a, b => if a = b then some 0 else none
  | fuel + 1, a, b =>
    if a = b then some 0
    else match s.hop a b with
      | none => none
      | some (p, _) =>
        if s.usable a p then
          match s.partner a p with
          | none => none
          | some (c, _) => (s.pathLen fuel c b).map (· + 1)
        else none

/-- The route-table entry of a destination (Table 16.9). -/
def State.rtab (s : State) (dst : Nat) : Word := tget 0x8000 s.fab.rtab dst

/-- Is the destination marked unreachable? -/
def State.noRoute (s : State) (dst : Nat) : Bool := bitAt (s.rtab dst) 15

/-- Does an injection spoil what a port sends next (FAB_CRC, FAB_FEC of Table 19.4)? The points act on the frames that follow. -/
def State.spoils (s : State) (port point : Nat) : Bool :=
  match s.armedAt (4 + port / 2) point with
  | some a => decide (a.inst = port) && decide (0 < a.left)
  | none => false

/-- A frame leaves a port: the bytes are counted, and an injection may spoil its CRC or its codeword. -/
def State.wire (s : State) (port : Nat) (f : Frame) : State :=
  let c := tget ({} : FCnt) s.fab.cnts port
  let crc := s.spoils port 0x0B
  let fec := s.spoils port 0x0C
  let s := { s with fab := { s.fab with cnts := tset {} s.fab.cnts port { c with tx := satAdd c.tx (36 + 32 * f.len) } } }
  let s := if crc || fec then s.setFport port { s.fport port with hurt := true } else s
  (if crc || fec then s.fire (4 + port / 2) [] else s).emit (.frame port f (!crc) (!fec))

/-- Put a frame on the wire of a port: LSEQ, LACK and returned credits; the retry buffer keeps it (R345, R346). LINK
frames other than LSA carry no sequence number and are not kept. -/
def State.transmit (s : State) (port : Nat) (f : Frame) : State :=
  let p := s.fport port
  let link := decide (f.type = 0)
  let seqd := f.seqd
  let (vc, n) := match p.owed.head? with | some e => e | none => (0, 0)
  let n := min n 8191
  let h1 := place (if seqd then p.txSeq.toNat else 0) 48 16 ||| place p.rxSeq.toNat 32 16 ||| place f.tag 16 16 |||
    place vc 13 3 ||| place n 0 13
  let f := { f with h1 := h1 }
  let p := { p with owed := tmod 0 p.owed vc (fun m => m - n),
                    txSeq := if seqd then p.txSeq + 1 else p.txSeq,
                    retry := if seqd then p.retry ++ [f] else p.retry,
                    used := if link then p.used else tmod 0 p.used f.vc (· + f.units) }
  (s.setFport port p).wire port f

/-- Bytes of a frame: header, payload and CRC (R344). -/
def frameBytes (f : Frame) : Nat := 36 + 32 * f.len

/-- May a port send a frame: it holds the credit, which a LINK frame does not use (R346), and its retry buffer of 256 KiB has
room for one that it keeps (R345)? -/
def FPort.hasCredit (p : FPort) (f : Frame) : Bool :=
  (decide (f.type = 0) || decide (tget 0 p.used f.vc + f.units ≤ 1024)) &&
    (!f.seqd || decide ((p.retry.map frameBytes).sum + frameBytes f ≤ 262144))

/-- The first waiting frame that may go, with those that go on waiting: it is the oldest of its channel, and the port holds
its credit. `held` are the channels whose oldest frame may not go. -/
def FPort.pick (p : FPort) : List Nat → List Frame → Option (Frame × List Frame)
  | _, [] => none
  | held, f :: t =>
    if !held.contains f.lane && p.hasCredit f then some (f, t)
    else (p.pick (f.lane :: held) t).map (fun e => (e.1, f :: e.2))

/-- Send a frame on a port: at once while the port is UP and holds the credit and no frame of its channel waits, else it
waits (R346). -/
def State.sendOn (s : State) (port : Nat) (f : Frame) : State :=
  let p := s.fport port
  if p.st = .up ∧ p.wait.all (fun g => decide (g.lane ≠ f.lane)) ∧ p.hasCredit f then s.transmit port f
  else s.setFport port { p with wait := p.wait ++ [f] }

/-- Send what waits and has its credit. -/
def State.drainPort (s : State) (port : Nat) : Nat → State
  | 0 => s
  | fuel + 1 =>
    let p := s.fport port
    match if p.st = .up then p.pick [] p.wait else none with
    | none => s
    | some (f, t) => ((s.setFport port { p with wait := t }).transmit port f).drainPort port fuel

/-- Send a frame of this device (R356): a destination's route, an intermediate device when the table names one; the leg,
class and dateline bits of R355. A frame to this device itself, or to one that the table marks unreachable, is not sent; one
whose first link is not usable is discarded, and its request ends by FAB_E2E (R357). -/
def State.send (s : State) (f : Frame) : State :=
  let e := s.rtab f.dst
  let det := bitAt e 14
  let target := if det then field e 0 14 else f.dst
  let h0 := putField (putField f.h0 56 1 (b2n det)) 14 14 (if det then field e 0 14 else 0)
  match s.hop s.devid target with
  | none => s
  | some (port, wrap) =>
    if bitAt e 15 || !s.usable s.devid port then s
    else
    let h0 := putField (putField h0 58 1 (if det then 0 else 1)) 57 1 (b2n wrap)
    s.sendOn port { f with h0 := h0 }

/-- A fresh tag. -/
def State.newTag (s : State) : Nat × State :=
  let t := s.fab.nxtTag % 65536
  (t, { s with fab := { s.fab with nxtTag := s.fab.nxtTag + 1 } })

/-- Record an outstanding request. -/
def State.addReq (s : State) (tag : Nat) (r : FReq) : State :=
  { s with fab := { s.fab with reqs := tset none s.fab.reqs tag (some r) } }

/-- Remove a request. -/
def State.dropReq (s : State) (tag : Nat) : State :=
  { s with fab := { s.fab with reqs := tset none s.fab.reqs tag none } }

/-- Send a request frame and record it. -/
def State.request (s : State) (who : Agent) (kind : FKind) (type dst part flags : Nat) (h2 h3 : Word)
    (payload : List Sector) : State :=
  let (tag, s) := s.newTag
  let f := s.mkFrame type 0 dst part flags tag h2 h3 payload
  (s.addReq tag { who := who, kind := kind, frame := f, sent := s.now }).send f

/-- Outstanding requests of an agent. -/
def State.outstanding (s : State) (who : Agent) : Bool :=
  s.fab.reqs.any (fun e => match e.2 with | some r => decide (r.who = who) | none => false)

/-- Sector-aligned pieces of a range, at most 16 sectors each and none crossing 4 KiB (R347): (address, sectors). -/
def framePieces : Nat → Nat → Nat → List (Nat × Nat)
  | 0, _, _ => []
  | fuel + 1, a, n => if n = 0 then [] else
    let k := min n (min 16 ((4096 - a % 4096) / 32))
    (a, k) :: framePieces fuel (a + 32 * k) (n - k)

/-- The sectors of a byte list. -/
def sectorsOf (b : List Byte) : List Sector := (chunks 32 (b.length + 1) b).map (fun l => BitVec.ofNat 256 (ofBytes l))

/-- A remote write of whole sectors: one PUT per piece (R347). `va` is the address that its requester named. -/
def State.putRemote (s : State) (who : Agent) (part dev lpa : Nat) (va : Word) (bytes : List Byte) : State :=
  ((framePieces (bytes.length / 32 + 1) lpa (bytes.length / 32)).foldl (fun (a : State × List Byte) e =>
    let n := 32 * e.2
    (a.1.request who (.write (va + w64 (e.1 - lpa))) 1 dev part 0 (w64 e.1) (w64 (2 ^ e.2 - 1)) (sectorsOf (a.2.take n)), a.2.drop n))
    (s, bytes)).1

/-- A remote read of whole sectors: one GET per piece. `addr` and `total` name the read in its answers. -/
def State.getRemote (s : State) (who : Agent) (part dev lpa n addr : Nat) : State :=
  (framePieces (n / 32 + 1) lpa (n / 32)).foldl (fun s e =>
    s.request who (.read addr n (e.1 - lpa) (32 * e.2)) 2 dev part 0 (w64 e.1) (w64 e.2) []) s

/-- A remote signal (R254). -/
def State.signalRemote (s : State) (who : Agent) (part dev op die obj : Nat) (v : Word) : State :=
  s.request who .signal 5 dev part 0 (place op 13 3 ||| place die 12 1 ||| place obj 0 12) v []

/-- Failures of host-window accesses that share a HOST_FAIL record per port and second (R338): `kind` 0 link down,
1 completion timeout, 2 UR, 3 CA. An injected one is coalesced with the others, and the record tells of the failure that wrote
it (R403). -/
def State.hostFail (s : State) (port kind who part addr : Nat) (inj : Bool) : State :=
  s.coalesce port 1 (fun n s => s.log 0x8E part 2 inj [w64 port, w64 kind, w64 who, w64 addr, w64 n])

/-- The kind of a requester in a HOST_FAIL record: 0 core, 1 stream context, 2 packet, 3 Harness ring, 4 Ethernet. -/
def agentKind : Agent → Nat
  | .core _ => 0 | .ctx .. => 1 | .pkt .. => 2 | .tny _ => 2 | .ring _ => 3 | .sync _ => 3 | .eth .. => 4

/-- Is a host port's link up (HPT_LINK.UP)? -/
def HPort.up (p : HPort) : Bool := bitAt p.link 0

/-- The host-side address of offset `o` in a port's window, when its granule is translated (R337). -/
def HPort.xlat (p : HPort) (o : Nat) : Option Nat :=
  let w := tget 0 p.wxlat (o / 2 ^ 30)
  if bitAt w 0 then some (field w 30 34 * 2 ^ 30 + o % 2 ^ 30) else none

/-- The host-window address of offset `o` of a port. -/
def winPA (port o : Nat) : Nat := 0x100000000000 + 0x40000000000 * port + o

/-- A global address of another device (Table 1.5). -/
def globPA (dev lpa : Nat) : Nat := 2 ^ 63 + dev * 2 ^ 48 + lpa

/-- A link found down: the counter, the record (R338). -/
def State.linkDown (s : State) (port : Nat) (who : Agent) (part addr : Nat) : State :=
  let p := s.hport port
  (s.setHport port { p with linkdn := satAdd p.linkdn 1 }).hostFail port 0 (agentKind who) part addr false

/-- How a read through a window or the fabric stands: its bytes, a failure, or it waits for an answer. -/
inductive Got where
  | bytes (b : List Byte)
  | fail (f : ReadFail)
  | wait
  deriving DecidableEq, Repr

/-- The answer of a read that has arrived. Answers stay until their agent's operation ends. -/
def State.answer (s : State) (who : Agent) (addr len : Nat) : Option Ans :=
  s.answers.find? (fun a => decide (a.who = who) && decide (a.addr = addr) && decide (a.len = len))

/-- What an agent has asked of other devices no longer concerns its later operations. -/
def State.staleReqs (s : State) (who : Agent) : State :=
  { s with fab := { s.fab with reqs := s.fab.reqs.map (fun e => (e.1, e.2.map (fun r =>
    if r.who = who then { r with stale := true } else r))) } }

/-- An agent's operation ended: the answers it held are forgotten. -/
def State.forget (s : State) (who : Agent) : State :=
  { s with answers := s.answers.filter (fun a => !decide (a.who = who)) }

/-- Read `n` bytes at offset `o` of a port's window (R337, R338). -/
def State.hostRead (s : State) (who : Agent) (part port o n : Nat) : State × Got :=
  let p := s.hport port
  let pa := winPA port o
  match p.xlat o with
  | none => (s, .fail .host)
  | some a =>
    match s.answer who pa n with
    | some r => (s, match r.fail with | none => .bytes r.bytes | some f => .fail f)
    | none =>
      if p.reqs.any (fun e => match e.2 with
          | some r => decide (r.who = who) && decide (r.pa = pa) && decide (r.len = n) | none => false) then (s, .wait)
      else if !p.up then
        let a : Ans := { who := who, addr := pa, len := n, bytes := [], fail := some .host }
        ({ s.linkDown port who part pa with answers := s.answers ++ [a] }, .fail .host)
      else
        let tag := ((List.range (p.reqs.length + 1)).find? (fun t => (tget none p.reqs t).isNone)).getD 0
        let s := s.setHport port { p with reqs := tset none p.reqs tag (some ⟨who, pa, n, part, s.now⟩) }
        (s.emit (.hostRead port tag a part n), .wait)

/-- Write bytes at offset `o` of a port's window, at most 512 in a message (Table 15.4): posted; it fails only without a
translation or with the link down (R337, R338). -/
def State.hostWrite (s : State) (who : Agent) (part port o : Nat) (bytes : List Byte) (ep : Bool) : State × Bool :=
  let p := s.hport port
  match p.xlat o with
  | none => (s, false)
  | some a =>
    if p.up then
      (((chunks 512 (bytes.length + 1) bytes).zipIdx).foldl (fun s e => s.emit (.hostWrite port (a + 512 * e.2) part e.1 ep)) s,
        true)
    else (s.linkDown port who part (winPA port o), false)

/-- Read `n` bytes of another device, whole sectors (R349). The answer of one frame does not end the read. -/
def State.remoteRead (s : State) (who : Agent) (part dev lpa n : Nat) : State × Got :=
  let addr := 2 ^ 63 + dev * 2 ^ 48 + lpa
  if s.fab.reqs.any (fun e => match e.2 with
      | some r => decide (r.who = who) && (match r.kind with | .read a t _ _ => decide (a = addr) && decide (t = n) | _ => false)
      | none => false) then (s, .wait)
  else
    match s.answer who addr n with
    | some r => (s, match r.fail with | none => .bytes r.bytes | some f => .fail f)
    | none => if s.noRoute dev then (s, .fail .noRoute) else (s.getRemote who part dev lpa n addr, .wait)

end Sys2Proof.Machine
end

