-- ==== Sys2Proof/Machine/SyncOps.lean ====
section
/-! DEFINITION. Sync objects (R245 to R251), what a satisfied wait does, census counts (R187 to R191), and the poisoning
of steps (R203 to R205). Operations that cause one another run as a list of jobs. -/

namespace Sys2Proof.Machine

/-- What a core instruction sees of the state. -/
def State.ctxOf (s : State) (c : Nat) : Ctx :=
  let k := s.core c
  let armed (j : Nat) : Bool := [0, 1].any (fun d => (s.die d).sync.waits.any (fun w => decide (w.who = Who.arm c j)))
  { core := c, part := s.owner (c / 8),
    rung := match k.task with
      | none => 0
      | some t => ((s.tasks.find? (fun u => decide (u.q = t.queue) && decide (u.pos = t.pos))).map (·.rung)).getD 0,
    cycle := (s.die (c / 64)).cyc - k.cycBase, now := s.now, devid := s.devid, test := (s.cluster (c / 8)).test,
    armed := flagIf (armed 0) 1 ||| flagIf (armed 1) 2 ||| flagIf (armed 2) 4 ||| flagIf (armed 3) 8 }

/-- Size of the landing buffer (Table 4.17). -/
def lbSize (k : Core) : Nat := 65536 * field k.cr.lbcfg 0 2

/-- Read the landing buffer: the bytes, and whether a word read has bad parity (R181). -/
def landRead (k : Core) (off n : Nat) : List Byte × Bool :=
  (lineBytes (tget 0 k.mem.landing (off / 128)) (off % 128) n,
   (List.range 16).any (fun w => tget false k.mem.lbBad (off / 128 * 16 + w) && decide (8 * w < off % 128 + n) &&
     decide (off % 128 < 8 * w + 8)))

/-- Write the landing buffer. With `bad`, every word of the sectors touched takes bad parity (R181); else a word written
whole takes good parity. -/
def landWrite (k : Core) (off : Nat) (b : List Byte) (bad : Bool) : Core :=
  let line := off / 128
  let o := off % 128
  let mark (t : Tbl Bool) (w : Nat) : Tbl Bool :=
    if bad && (touched o b.length).contains (w / 4) then tset false t (16 * line + w) true
    else if !bad && decide (o ≤ 8 * w) && decide (8 * w + 8 ≤ o + b.length) then tset false t (16 * line + w) false
    else t
  { k with mem := { k.mem with landing := tmod 0 k.mem.landing line (fun l => setBytes l o b),
                               lbBad := (List.range 16).foldl mark k.mem.lbBad } }

/-- Invalidate the L1 and victim caches (R215). -/
def invalL1 (k : Core) : Core := { k with mem := { k.mem with l1 := [], victim := [] } }

/-- Invalidate the read-only caches (R218). -/
def invalRo (k : Core) : Core := { k with mem := { k.mem with icache := [], kcache := [], dcache := [] } }

/-- WFE completes while an interrupt bit is set or an asynchronous trap is pending (R103). -/
def wakeWfe (x : Ctx) (k : Core) : Core :=
  if k.run = .waitEvent ∧ (ipOf x k ≠ 0 ∨ k.watchdog ∨ k.parity.isSome) then loopBack { k with run := .running } k.pc
  else k

/-- Set sticky interrupt bits of a core; a core in WFE then completes it. -/
def State.pend (s : State) (c : Nat) (bits : BitVec 6) : State :=
  let k := s.core c
  s.setCore c (wakeWfe (s.ctxOf c) { k with tc := { k.tc with ip := k.tc.ip ||| bits } })

/-- The next instruction of a stream context after the one at `pc` completes (R268): levels from the innermost. -/
def ctxBack : Nat → SCtx → SCtx
  | 0, x => { x with pc := x.pc + 1 }
  | fuel + 1, x =>
    if x.depth = 0 then { x with pc := x.pc + 1 }
    else
      let l := x.depth - 1
      let v := tget {} x.loops l
      if x.pc ≠ v.stop then { x with pc := x.pc + 1 }
      else if v.idx + 1 < v.count then { x with loops := tset {} x.loops l { v with idx := v.idx + 1 }, pc := v.start }
      else ctxBack fuel { x with loops := tset {} x.loops l { v with idx := 0 }, depth := l }

/-- A context goes on after the instruction at `pc`; past the last instruction the run has none left (R266). -/
def SCtx.after (x : SCtx) (pc : Nat) : SCtx :=
  let y := ctxBack 6 { x with pc := pc }
  if y.progLen ≤ y.pc then { y with pc := x.pc, ended := true } else y

/-- A Chroup instruction completes. -/
def SCtx.advance (x : SCtx) : SCtx := x.after x.pc

/-- The partition that holds the block of a sync object. -/
def State.syncOwner (s : State) (d obj : Nat) : Nat := tget 0 s.own.sync (64 * d + obj / 64)

/-- The value of a sync object. -/
def State.objVal (s : State) (d obj : Nat) : Word := tget 0 (s.die d).sync.vals obj

/-- A wait condition (Table 11.5). -/
def condHolds (cond : Nat) (val v : Word) : Bool :=
  match cond with
  | 0 => decide (v.toNat ≤ val.toNat)
  | 1 => decide (val = v)
  | _ => decide (val ≠ v)

/-- A signal operation (Table 11.5). -/
def sigVal (op : Nat) (val v : Word) : Word :=
  match op with
  | 0 => v
  | 1 => val + v
  | _ => if val.toNat ≤ v.toNat then v else val

/-- A wait of an agent is satisfied: SYNC.WAIT completes (R249), an arm slot fires (R251), a context goes on, a packet's
pair stays satisfied (R247). -/
def State.waitMet (s : State) (w : SWait) : State :=
  match w.who with
  | .core c =>
    let k := s.core c
    match k.run with
    | .waitSync acq =>
      let k := if acq then invalL1 k else k
      s.setCore c (loopBack { k with run := .running } k.pc)
    | _ => s
  | .arm c slot =>
    let k := s.core c
    let s := s.setCore c { k with cr := { k.cr with fired := k.cr.fired ||| BitVec.ofNat 4 (2 ^ slot) } }
    s.pend c 2
  | .ctx cl n => s.setCtx cl n { (s.ctx cl n).advance with st := .running }
  | .pkt q pos i =>
    let u := s.queue q
    let sat (p : Pkt) : Pkt :=
      let b := p.sat ||| BitVec.ofNat 4 (2 ^ i)
      { p with sat := b, since := s.order }
    s.setQueue q { u with pkts := u.pkts.map (fun p => if p.pos = pos then sat p else p) }

/-- Enter a wait: satisfied at once, or an entry of the waiter table (R258). -/
def State.addWait (s : State) (d : Nat) (w : SWait) : State :=
  let u := (s.die d).sync
  if condHolds w.cond (tget 0 u.vals w.obj) w.val then s.waitMet w
  else s.setSync d { u with waits := u.waits ++ [w], waitsN := satAdd u.waitsN 1 }

/-- Remove the waits of an agent that `p` picks. -/
def State.dropWaits (s : State) (p : Who → Bool) : State :=
  [0, 1].foldl (fun s d =>
    let u := (s.die d).sync
    if u.waits.any (fun w => p w.who) then s.setSync d { u with waits := u.waits.filter (fun w => !p w.who) } else s) s

/-- Does an agent hold a waiter-table entry? -/
def State.waiting (s : State) (w : Who) : Bool := [0, 1].any (fun d => (s.die d).sync.waits.any (fun e => decide (e.who = w)))

/-- Give an object a value and re-evaluate every wait on it (R247). -/
def State.setObj (s : State) (d obj : Nat) (v : Word) : State :=
  let u := (s.die d).sync
  let met := u.waits.filter (fun w => decide (w.obj = obj) && condHolds w.cond v w.val)
  let rest := u.waits.filter (fun w => !(decide (w.obj = obj) && condHolds w.cond v w.val))
  let s := s.setSync d { u with vals := tset 0 u.vals obj v, waits := rest }
  let s := if met.any (fun w => match w.who with | .pkt .. => true | _ => false) then { s with order := s.order + 1 } else s
  met.foldl (fun s w => s.waitMet w) s

/-- Why a step becomes poisoned: a row of Table 9.10, an arrival's device and poison object, or a local operation (R203). -/
inductive PCause where
  | row (n : Nat) (inj : Bool)
  | arrival (dev : Nat) (sync : Option Nat)
  | locl
  deriving DecidableEq, Repr

/-- What remains to be done for a signal and its consequences. -/
inductive Job where
  | sig (die obj op : Nat) (v : Word)
  | arrive (dev : Nat) (sync : Option Nat) (part die obj : Nat) (v : Word) (tag : Nat)
  | poison (q : QId) (cause : PCause)
  | acked (tag : Nat) (undeliv : Bool)
  | pair (q : QId) (pos : Nat) (g : SigPair)
  | sigs (q : QId)
  | reply (q : QId) (r : Reply)
  | credit (die obj : Nat)
  deriving DecidableEq, Repr

/-- Queues with an identity, of a die. -/
def dieQueues (d : DieId) : List QId :=
  (List.finRange 17).flatMap (fun p => (List.finRange 64).map (fun q => (⟨d, p, q⟩ : QId)))

/-- The queues that exist or hold state, of both dies. -/
def State.queues (s : State) : List QId :=
  [0, 1].flatMap (fun (d : DieId) => (s.die d.val).queues.filterMap (fun e =>
    if h : e.1 < 17 * 64 then some ⟨d, ⟨e.1 / 64, by omega⟩, ⟨e.1 % 64, by omega⟩⟩ else none))

/-- Does the queue exist (HRN_QCFG.V)? -/
def Queue.v (u : Queue) : Bool := bitAt u.cfg 15

/-- The poison object of a queue's open step. -/
def Queue.poisonObj (u : Queue) : Nat × Nat := (field u.pobj 12 1, field u.pobj 0 12)

/-- A response frame to a request (R348). -/
def State.respond (s : State) (dst part tag code reason : Nat) : State :=
  s.send (s.mkFrame 7 1 dst part 0 tag (w64 (code + 256 * reason)) (w64 s.devid) [])

/-- Answer an arrival: over the fabric, or to this device's own Harness. -/
def State.ackArrival (s : State) (a : Arrival) (part : Nat) : State × List Job :=
  match a.tag with
  | none => (s, [])
  | some t => if a.dev = s.devid then (s, [.acked t false]) else (s.respond a.dev part t 0 0, [])

/-- The arrivals that a queue holds are acknowledged, but for one that another queue of the same poison object still holds
(R203). -/
def State.releaseArrivals (s : State) (q : QId) : State × List Job :=
  let u := s.queue q
  u.arrivals.foldl (fun (a : State × List Job) x =>
    if a.1.queues.any (fun r => (a.1.queue r).arrivals.any (fun y => decide (y.dev = x.dev ∧ y.tag = x.tag))) then a
    else
      let (s, l) := a.1.ackArrival x u.stepPart
      (s, a.2 ++ l)) (s.setQueue q { u with arrivals := [] }, [])

/-- The signal that a pair word names. -/
def sigOf (part : Nat) (w : Word) : SigPair := { word := w, val := w64 (field w 0 32), part := part }

/-- What an operation of this device on an object that leaves it holding `x` causes: the steps that it poisons (R203), and the
multicast receivers that may have credit. -/
def State.objJobs (s : State) (d obj : Nat) (x : Word) (credit : Bool) : List Job :=
  (s.queues.filter (fun q =>
    let u := s.queue q
    u.stepOpen && !u.poisoned && decide (u.poisonObj = (d, obj)) && decide (x = u.stepCtr))).map (fun q => .poison q .locl) ++
    (if credit then [.credit d obj] else [])

/-- A record of the Harness of a queue: partition, queue and step first (R207). `inj`: an injection caused it. -/
def State.qlog (s : State) (t : Byte) (q : QId) (inj : Bool) (l : List Word) : State :=
  s.log t q.part.val q.die.val inj ([w64 (q.part.val * 64 + q.q.val), (s.queue q).stepCtr] ++ l)

/-- The status that a reply of a queue takes: OK and OK_REPLAYED become OK_POISONED while its step is poisoned, with the
undelivered entries as DETAIL (R205, Table 14.6). The reply of a STEP_END tells of its own step alone (R34). -/
def Queue.mapReply (u : Queue) (r : Reply) : Reply :=
  if u.poisoned && decide (r.status.toNat ≤ 1) && decide (r.op ≠ 0x11) then { r with status := 0x02, detail := w64 u.undeliv } else r

/-- Put a completed packet's reply in line for the ring and forget the packet (R309, R311). -/
def State.lineReply (s : State) (q : QId) (r : Reply) : State :=
  let u := s.queue q
  (s.setQueue q { u with waitRep := u.waitRep ++ [u.mapReply r],
                         pkts := u.pkts.filter (fun p => !decide (p.pos = r.pos)) }).forget (.pkt q r.pos)

/-- The signal pair words of a packet, SIG0 first. -/
def Pkt.sigs (p : Pkt) : List Word :=
  [0, 1].filterMap (fun i =>
    let f := field p.h1 (16 + 4 * i) 4
    if 8 ≤ f then p.w[f % 8]? else none)

/-- Does a pair word name an object on another device? -/
def State.pairRemote (s : State) (w : Word) : Bool := bitAt w 63 && decide (field w 48 14 ≠ s.devid)

/-- A REMOTE_FAIL record (Table 16.10): `side` 0 requester, 1 target; `code` and `reason` of the response, code 5 a
timeout and 6 no route. -/
def State.remoteFail (s : State) (src side type part dev code reason : Nat) : State :=
  s.log 0x55 part src false [w64 side, w64 type, w64 part, w64 dev, w64 (code + 256 * reason)]

/-- A remote signal that was refused or not delivered: SYN_RNAK of the sender's die and a record (R254). -/
def State.rnak (s : State) (d part dev code reason : Nat) : State :=
  let u := (s.die d).sync
  (s.setSync d { u with rnak := satAdd u.rnak 1 }).remoteFail d 0 5 part dev code reason

/-- The partition a packet acts for (R306). -/
def Pkt.part (p : Pkt) : Nat := field p.h0 40 8

/-- The reply of a packet. -/
def Pkt.reply (p : Pkt) (own : Nat) (status : Byte) (detail : Word) : Reply :=
  { pos := p.pos, part := if field p.h0 40 8 ≤ 16 then field p.h0 40 8 else own, op := BitVec.ofNat 8 (field p.h0 0 8),
    seqNo := BitVec.ofNat 16 (field p.h0 16 16), status := status, detail := detail, irq := bitAt p.h0 9 }

/-- Is a receiver of a multicast run on another device? -/
def State.recvRemote (s : State) (r : Recv) : Bool := bitAt r.e0 62 && decide (field r.e0 48 14 ≠ s.devid)

/-- The device core number of a receiver. -/
def Recv.core (r : Recv) : Nat := 64 * field r.e0 15 1 + 8 * field r.e0 12 3 + field r.e0 9 3

/-- RDY and ARR of a receiver. -/
def Recv.rdy (r : Recv) : Nat := field r.e1 52 12
def Recv.arr (r : Recv) : Nat := field r.e1 40 12

/-- Write bytes into a core's landing buffer, line by line; its cluster wakes (R368). -/
def State.landPut (s : State) (c off : Nat) (b : List Byte) : State :=
  let s := s.wakeCluster (c / 8)
  let k := (pieces (b.length / 128 + 2) off b.length).foldl (fun (a : Core × List Byte) e =>
    (landWrite a.1 e.1 (a.2.take e.2) false, a.2.drop e.2)) (s.core c, b)
  s.setCore c k.1

/-- May a receiver take a buffer: it holds the credit (R276)? -/
def State.hasReady (s : State) (d part : Nat) (r : Recv) (b : McBuf) : Bool :=
  decide (s.syncOwner d r.rdy = part) && decide (b.seqNo + 1 ≤ (s.objVal d r.rdy).toNat)

/-- The signal that tells a local receiver of a buffer (R276). -/
def State.arrJob (s : State) (part : Nat) (r : Recv) : List Job :=
  if s.syncOwner (r.core / 64) r.arr = part then [.sig (r.core / 64) r.arr 1 1] else []

/-- Deliver to a local receiver every buffer that it lacks and has credit for, in order (R276, R278). -/
def State.mcLocal (d part : Nat) (bufs : List McBuf) : Nat → State → Recv → State × Recv × List Job
  | 0, s, r => (s, r, [])
  | fuel + 1, s, r =>
    match bufs.find? (fun b => decide (b.idx = r.got)) with
    | none => (s, r, [])
    | some b =>
      if s.hasReady d part r b then
        let (s, r', l) := State.mcLocal d part bufs fuel (s.landPut r.core b.off b.data) { r with got := r.got + 1 }
        (s, r', s.arrJob part r ++ l)
      else (s, r, [])

/-- A record of a multicast receiver (Table 12.5): the context and the entry, its device, a sequence number, DETACH, and the
reason of a drop. -/
def State.mcLog (s : State) (t : Byte) (cl : Nat) (m : McRun) (j : Nat) (r : Recv) (seqNo : Nat) (why : List Word) : State :=
  s.log t (s.owner cl) (cl / 8) false ([w64 (cl + 256 * m.ctx + 65536 * j), w64 (field r.e0 48 14), w64 seqNo, w64 m.detach] ++ why)

/-- Core mask of a receiver in H2 (CD0) or H3 (CD1) of an MCAST frame (Table 16.2). -/
def Recv.mask (r : Recv) (die : Nat) : Word := if field r.e0 15 1 = die then ones (field r.e0 9 6) 1 else 0

/-- Send a buffer, read as `data`, to receivers of one device that `now` picks: one frame per 15 sectors (R276, R347). Where no
route leads there they are dropped (R279). -/
def State.mcSend (s : State) (cl : Nat) (m : McRun) (dev : Nat) (b : McBuf) (data : List Byte) (now : Recv → Bool) :
    State × McRun :=
  if s.noRoute dev then
    let s := (m.recvs.zipIdx.filter (fun e => now e.1)).foldl (fun s e => s.mcLog 0x42 cl m e.2 e.1 b.seqNo [6]) s
    (s, { m with recvs := m.recvs.map (fun r => if now r then { r with dropped := true } else r) })
  else
    let who := m.recvs.filter now
    let h2 := who.foldl (fun w r => w ||| r.mask 0) 0
    let h3 := who.foldl (fun w r => w ||| r.mask 1) 0
    let s := ((chunks 480 (data.length + 1) data).zipIdx).foldl (fun (s : State) e =>
      s.request (.ctx cl m.ctx) (.mcast m.id b.idx) 6 dev (s.owner cl) 0 h2 h3
        (BitVec.ofNat 256 (b.off + 480 * e.2) :: sectorsOf e.1)) s
    (s, { m with recvs := m.recvs.map (fun r => if now r then { r with flight := true } else r) })

/-- Does a receiver lack a buffer that it could take now (R276)? -/
def State.takes (s : State) (cl : Nat) (r : Recv) (b : McBuf) : Bool :=
  !r.dropped && !r.flight && decide (r.got = b.idx) && s.hasReady (cl / 8) (s.owner cl) r b

/-- Send a buffer to the attached receivers of one device that lack it and have credit, in one packet (R276). -/
def State.mcRemote (s : State) (cl : Nat) (m : McRun) (dev : Nat) (b : McBuf) : State × McRun :=
  let now (r : Recv) : Bool := s.recvRemote r && decide (field r.e0 48 14 = dev) && !r.detached && s.takes cl r b
  if m.recvs.any now then s.mcSend cl m dev b b.data now else (s, m)

/-- May the context execute its next MCAST: every attached receiver is within the slack window (R277)? -/
def McRun.room (m : McRun) : Bool := m.recvs.all (fun r => r.detached || r.dropped || decide (m.next < r.got + 8))

/-- The buffers that a receiver still lacks; the bytes of one stay while an attached receiver lacks them (R277, R278). -/
def McRun.trim (m : McRun) : McRun :=
  let lacks (b : McBuf) (r : Recv) : Bool := !r.dropped && decide (r.got ≤ b.idx)
  { m with bufs := (m.bufs.filter (fun b => m.recvs.any (lacks b))).map (fun b =>
      if m.recvs.any (fun r => !r.detached && lacks b r) then b else { b with data := [] }) }

/-- Replace a multicast run; one that its context has left goes when nothing of it is to be delivered. -/
def State.setRun (s : State) (cl : Nat) (m : McRun) : State :=
  let k := s.stitcher cl
  let l := if m.left && m.bufs.isEmpty then k.runs.filter (fun x => decide (x.id ≠ m.id))
    else k.runs.map (fun x => if x.id = m.id then m else x)
  s.setStitcher cl { k with runs := l }

/-- Deliver to the attached receivers of a run what credit allows; a context that held at its MCAST goes on when the window
allows (R276, R277). -/
def State.mcPump (s : State) (cl : Nat) (m : McRun) : State × List Job :=
  let d := cl / 8
  let part := s.owner cl
  let (s, rs, l) := m.recvs.foldl (fun (a : State × List Recv × List Job) r =>
    if s.recvRemote r || r.dropped || r.detached then (a.1, a.2.1 ++ [r], a.2.2)
    else
      let (s, r, j) := State.mcLocal d part m.bufs m.bufs.length a.1 r
      (s, a.2.1 ++ [r], a.2.2 ++ j)) (s, [], [])
  let devs := ((rs.filter s.recvRemote).map (fun r => field r.e0 48 14)).eraseDups
  let (s, m) := devs.foldl (fun (a : State × McRun) dev =>
    a.2.bufs.foldl (fun (a : State × McRun) b => a.1.mcRemote cl a.2 dev b) a) (s, { m with recvs := rs })
  let m := m.trim
  let x := s.ctx cl m.ctx
  let go := decide (x.st = .held) && decide (x.pc = m.pc) && m.since.isSome && m.room
  let s := if go then s.setCtx cl m.ctx { x with st := .running } else s
  (s.setRun cl (if go then { m with since := none } else m), l)

/-- The runs of a die that an object's change may serve. -/
def State.credited (s : State) (d obj : Nat) : List (Nat × McRun) :=
  (List.range 8).flatMap (fun c => ((s.stitcher (8 * d + c)).runs.filter (fun m =>
    m.recvs.any (fun r => decide (r.rdy = obj)))).map (fun m => (8 * d + c, m)))

/-- The entry of a poison list that an arrival came from, which is skipped (R203). A frame names its device only: among
several entries of that device the choice is free (log 37). -/
def State.senderEntry (s : State) (live : List Word) (dev : Nat) (sync : Option Nat) : Option Nat × State :=
  let mine := (live.zipIdx.filter (fun e => decide (field e.1 50 14 = dev))).map (·.2)
  match sync with
  | some o => (mine.find? (fun i => decide (field (live.getD i 0) 37 13 = o)), s)
  | none =>
    if mine.length ≤ 1 then (mine.head?, s)
    else
      let (v, s) := s.free
      (mine[v.toNat % mine.length]?, s)

/-- The mark of a packet that closed its region and waits for acknowledgements (R203): its status and its signals follow. -/
def commitWork : Word := 0xC0

/-- Is a signal that a packet of the queue sent to another device still to be applied (R249, R254)? -/
def State.sigBusy (s : State) (q : QId) : Bool :=
  s.fab.reqs.any (fun e => match e.2 with
    | some r => decide (r.kind = .signal) && (match r.who with | .pkt x _ => decide (x = q) | _ => false)
    | none => false)

/-- Perform one signal of a packet (R246, R254): where no route leads to its device it is not delivered. -/
def State.pairNow (s : State) (q : QId) (pos : Nat) (g : SigPair) : State × List Job :=
  let op := field g.word 45 3
  let d := field g.word 44 1
  let obj := field g.word 32 12
  if s.pairRemote g.word then
    let dev := field g.word 48 14
    if s.noRoute dev then (s.rnak q.die.val g.part dev 6 0, [])
    else (s.signalRemote (.pkt q pos) g.part dev op d obj g.val, [])
  else if s.syncOwner d obj = g.part then (s, [.sig d obj op g.val])
  else (s, [])

/-- Does a queue act for a partition: it is its own, or a partition 0 queue whose last step was its (R321)? -/
def State.actsFor (s : State) (q : QId) (part : Nat) : Bool :=
  decide (q.part.val = part) || (decide (q.part.val = 0) && decide ((s.queue q).stepPart = part))

/-- A POISON_LATE record of a queue: partition and queue, the value, the open step or 0 (Table 9.12). -/
def State.poisonLate (s : State) (q : QId) (v : Word) : State :=
  s.log 0x36 q.part.val q.die.val false
    [w64 (q.part.val * 64 + q.q.val), v, if (s.queue q).stepOpen then (s.queue q).stepCtr else 0]

/-- The records of an arrival while no open step has its object as poison object (R203). Which queue it belongs to is left
open: the idle queues that act for its partition and named the object for their last step; where there is none, it is late
for no queue while one that acts for the partition expects it, and else the record names none, bit 16 in place of the queue
(DESIGN CHOICE, logs 18 and 69). -/
def State.lateIdle (s : State) (part d obj : Nat) (v : Word) : State :=
  let due (q : QId) : Bool := decide (v = (s.queue q).stepCtr + 1)
  let idle := s.queues.filter (fun q => s.actsFor q part && !(s.queue q).stepOpen)
  let mine := idle.filter (fun q => decide ((s.queue q).poisonObj = (d, obj)) && decide ((s.queue q).stepPart = part) &&
    decide ((s.queue q).stepCtr ≠ 0))
  if mine.isEmpty then
    if idle.any due then s else s.log 0x36 part d false [w64 (part * 64 + 2 ^ 16), v, 0]
  else (mine.filter (fun q => !due q)).foldl (fun s q => s.poisonLate q v) s

/-- One job. What an arrival while no step is open belongs to is the model's choice (`State.lateIdle`, log 69). -/
def doJob (s : State) (j : Job) : State × List Job :=
  match j with
  | .sig d obj op v =>
    let u := (s.die d).sync
    let x := sigVal op (tget 0 u.vals obj) v
    let s := s.setSync d { u with signals := satAdd u.signals 1, arr := tset none u.arr obj none }
    let s := s.setObj d obj x
    (s, s.objJobs d obj x (!(s.credited d obj).isEmpty))
  | .arrive dev sync part d obj v tag =>
    let u := (s.die d).sync
    if s.syncOwner d obj ≠ part then
      (s.setSync d { u with rrefused := satAdd u.rrefused 1 }, [.acked tag true])
    else
    let s := s.setSync d { u with signals := satAdd u.signals 1, arr := tset none u.arr obj (some (dev, sync, v)) }
    let s := s.setObj d obj v
    let a : Arrival := { dev := dev, val := v, tag := some tag }
    let credit : List Job := if (s.credited d obj).isEmpty then [] else [.credit d obj]
    match s.queues.filter (fun q => (s.queue q).stepOpen && decide ((s.queue q).poisonObj = (d, obj))) with
    | [] =>
      let (s, l) := (s.lateIdle part d obj v).ackArrival a part
      (s, l ++ credit)
    | mine =>
      let (s, hit) := mine.foldl (fun (r : State × List Job) q =>
        let u := r.1.queue q
        if v ≠ u.stepCtr then (r.1.poisonLate q v, r.2)
        else if u.poisoned then r
        else (r.1.setQueue q { u with arrivals := u.arrivals ++ [a] }, r.2 ++ [.poison q (.arrival dev sync)])) (s, [])
      if hit.isEmpty then
        let (s, l) := s.ackArrival a part
        (s, l ++ credit)
      else (s, hit ++ credit)
  | .poison q cause =>
    let u := s.queue q
    if u.poisoned then (s, [])
    else
      let n := u.stepCtr
      let (d, obj) := u.poisonObj
      let s := s.setQueue q { u with poisoned := true }
      let y := (s.die d).sync
      let (s, more) := if tget 0 y.vals obj = n ∨ s.syncOwner d obj ≠ u.stepPart then (s, []) else
        let s := (s.setSync d { y with arr := tset none y.arr obj none }).setObj d obj n
        (s, s.objJobs d obj n (!(s.credited d obj).isEmpty))
      let live := u.plist.filter (fun e => bitAt e 0)
      let (skip, s) := match cause with
        | .arrival dev sync => s.senderEntry live dev sync
        | _ => (none, s)
      let todo := (live.zipIdx.filter (fun e => !decide (some e.2 = skip))).map (·.1)
      let (s, jobs) := todo.foldl (fun (a : State × List Job) e =>
        let dev := field e 50 14
        let od := field e 49 1
        let oo := field e 37 12
        let (tag, s) := a.1.newTag
        let f := s.mkFrame 5 0 dev u.stepPart 1 tag (place od 12 1 ||| place oo 0 12) n []
        let s := s.addReq tag { who := .ring q, kind := .psn 0 (dev = s.devid) false, frame := f, sent := s.now }
        let w := s.queue q
        let s := s.setQueue q { w with psnTags := w.psnTags ++ [tag] }
        if dev = s.devid then (s, a.2 ++ [.arrive dev (some (u.pobj.toNat)) u.stepPart od oo n tag])
        else (if s.noRoute dev then s else s.send f, a.2)) (s, more)
      let s := match cause with
        | .row r inj => s.qlog 0x33 q inj [w64 r, w64 todo.length]
        | .arrival dev _ => s.qlog 0x34 q false [w64 (dev + 1), w64 todo.length]
        | .locl => s.qlog 0x34 q false [0, w64 todo.length]
      let w := s.queue q
      if w.psnTags.isEmpty then
        let (s, l) := s.releaseArrivals q
        (s, jobs ++ l)
      else
        let told (x : Arrival) : Bool := s.queues.any (fun r => decide (r ≠ q) && !(s.queue r).psnTags.isEmpty &&
          (s.queue r).arrivals.any (fun y => decide (y.dev = x.dev ∧ y.tag = x.tag)))
        let s := w.arrivals.foldl (fun s x => match x.tag with
          | some t => if x.dev = s.devid || told x then s else s.respond x.dev w.stepPart t 4 0
          | none => s) s
        (s, jobs)
  | .acked tag undeliv =>
    match tget none s.fab.reqs tag with
    | none => (s, [])
    | some r =>
      let s := s.dropReq tag
      match r.who with
      | .ring q =>
        let u := s.queue q
        let u := { u with psnTags := u.psnTags.filter (fun t => !decide (t = tag)),
                          undeliv := if undeliv then u.undeliv + 1 else u.undeliv }
        let s := s.setQueue q u
        let y := (s.die q.die.val).sync
        let s := if undeliv then
            (s.setSync q.die.val { y with rnak := satAdd y.rnak 1 }).qlog 0x35 q false [w64 r.frame.dst, w64 (field r.frame.h2 0 13)]
          else s
        if u.psnTags.isEmpty then
          let (s, l) := s.releaseArrivals q
          let u := s.queue q
          match u.pkts.find? (fun p => decide (p.work.head? = some commitWork)) with
          | some p =>
            let st : Byte := BitVec.ofNat 8 (p.work.getD 1 0).toNat
            (s, l ++ (p.work.drop 2).map (fun w => .pair q p.pos (sigOf p.part w)) ++
              [.reply q (p.reply q.part.val st (w64 u.undeliv))])
          | none => (s, l)
        else (s, [])
      | _ => (s, [])
  | .pair q pos g =>
    let u := s.queue q
    if s.sigBusy q || !u.sigWait.isEmpty then (s.setQueue q { u with sigWait := u.sigWait ++ [(pos, g)] }, [])
    else s.pairNow q pos g
  | .sigs q =>
    let u := s.queue q
    match u.sigWait with
    | [] => (s, [])
    | (pos, g) :: rest =>
      if s.sigBusy q then (s, [])
      else
        let (s, l) := (s.setQueue q { u with sigWait := rest }).pairNow q pos g
        (s, l ++ [.sigs q])
  | .reply q r => (s.lineReply q r, [])
  | .credit d obj =>
    (s.credited d obj).foldl (fun (a : State × List Job) e =>
      let (s, l) := a.1.mcPump e.1 e.2
      (s, a.2 ++ l)) (s, [])

/-- Run jobs and what they cause; `fuel` bounds their number. -/
def runJobs : Nat → List Job → State → State
  | 0, _, s => s
  | _ + 1, [], s => s
  | fuel + 1, j :: js, s =>
    let (s, l) := doJob s j
    runJobs fuel (l ++ js) s

/-- More jobs than the queues of a device can cause in a row. -/
def jobFuel : Nat := 100000

/-- Perform one local signal (R246, R247). -/
def State.signal (s : State) (d obj op : Nat) (v : Word) : State := runJobs jobFuel [.sig d obj op v] s

/-- The partition that holds a census slot. -/
def State.censusOwner (s : State) (d slot : Nat) : Nat := tget 0 s.own.census (64 * d + slot / 16)

/-- A census slot. -/
def State.cslot (s : State) (d slot : Nat) : CSlot := tget {} (s.die d).census.slots slot

/-- Replace a census slot. -/
def State.setCslot (s : State) (d slot : Nat) (v : CSlot) : State :=
  let k := s.die d
  s.setDie d { k with census := { k.census with slots := tset {} k.census.slots slot v } }

/-- Add to a partition's unenrolled count on a die (R185). -/
def State.unenrolled (s : State) (d part n : Nat) : State :=
  let k := s.die d
  s.setDie d { k with census := { k.census with unenr := tmod 0 k.census.unenr part (fun m => satAdd m n) } }

/-- Saturating sum of counts (R186). -/
def satCounts (a b : Counts) : Counts :=
  { elems := satAdd a.elems b.elems, zero := satAdd a.zero b.zero, ufl := satAdd a.ufl b.ufl, sat := satAdd a.sat b.sat,
    nonfin := satAdd a.nonfin b.nonfin }

/-- Raise an event of a slot: bit 0 NFEV, 1 RATEV, 2 STRKEV (R191). -/
def State.censusEvent (s : State) (d slot bit : Nat) : State :=
  let c := s.cslot d slot
  let p := s.censusOwner d slot
  let s := s.setCslot d slot { c with flags := c.flags ||| BitVec.ofNat 4 (2 ^ bit) }
  let s := s.log 0x30 p d false [w64 slot, w64 (2 ^ bit), c.lstep.setWidth 64, w64 c.streak]
  if bitAt c.ctl 35 && decide (s.syncOwner d (field c.ctl 36 12) = p) then s.signal d (field c.ctl 36 12) 1 1 else s

/-- The queue of a partition with a number, on whichever die it exists. -/
def State.findQueue (s : State) (p : PartId) (q : Fin 64) : Option QId :=
  [0, 1].findSome? (fun (d : DieId) => if (s.queue ⟨d, p, q⟩).v then some ⟨d, p, q⟩ else none)

/-- Is a layer region open on a partition's queue? -/
def State.regionOn (s : State) (p : PartId) (q : Fin 64) : Bool :=
  match s.findQueue p q with
  | none => false
  | some k => (s.queue k).region.isSome

/-- A count reaches a slot (R188, R189) from a task that a queue of partition `part` launched; `inside` tells whether a layer
region was open on that queue then. A site outside any task belongs to no queue. -/
def State.censusCount (s : State) (d slot : Nat) (part : PartId) (q : Option (Fin 64)) (inside : Bool) (n : Counts) : State :=
  let c := s.cslot d slot
  let h := s.censusOwner d slot
  if !bitAt c.ctl 0 then s.unenrolled d h n.elems
  else
    let mine := decide (h = part.val) && decide (some (field c.ctl 23 6) = q.map (·.val))
    let c' := if mine && inside then { c with shadow := satCounts c.shadow n } else { c with cur := satCounts c.cur n }
    let c' := if mine then c' else { c' with flags := c'.flags ||| 8 }
    let thr := field c.thr 0 32
    let before := c.cur.nonfin + c.shadow.nonfin
    let after := c'.cur.nonfin + c'.shadow.nonfin
    let s := s.setCslot d slot c'
    if thr ≠ 0 ∧ before < thr ∧ thr ≤ after then s.censusEvent d slot 0 else s

/-- Close the step of a slot with step number `n` (R190): each rate threshold that is reached raises RATEV. -/
def State.censusClose (s : State) (d slot : Nat) (n : Word) : State :=
  let c := s.cslot d slot
  let e := c.cur.elems
  let uthr := field c.thr 48 16
  let sthr := field c.thr 32 16
  let lim := if field c.ctl 48 16 = 0 then 64 else field c.ctl 48 16
  let zero := decide (c.cur.zero + c.cur.ufl = e)
  let streak := if e = 0 then c.streak else if zero then min (c.streak + 1) 65535 else 0
  let rated (thr n : Nat) : Bool := decide (e ≠ 0) && decide (thr ≠ 0) && decide (thr * e ≤ n * 65536)
  let strk := decide (e ≠ 0) && decide (streak ≠ 0) && decide (streak % lim = 0)
  let s := s.setCslot d slot { c with last := c.cur, cur := {}, lstep := n.setWidth 32, streak := streak }
  let s := if rated uthr c.cur.ufl then s.censusEvent d slot 1 else s
  let s := if rated sthr c.cur.sat then s.censusEvent d slot 1 else s
  if strk then s.censusEvent d slot 2 else s

end Sys2Proof.Machine
end

