-- ==== Sys2Proof/Machine/CoreMem.lean ====
section
/-! DEFINITION. A core's memory system: translation (R77 to R80), the access checks of R17, R19, R20, R26, R209, the L1,
victim and read-only caches (R210 to R218), the write-combining buffer (R211, R212), the landing buffer and the debug
view of Table 1.5. -/

namespace Sys2Proof.Machine

/-- A width and alignment that R6 allows. -/
def regFits (off bytes : Nat) : Bool := (decide (bytes = 4) || decide (bytes = 8)) && decide (off % bytes = 0)

/-- The kinds of access that translation distinguishes (R77). -/
inductive AccKind where
  | fetch | load | store
  deriving DecidableEq, Repr

/-- The page fault of each kind. -/
def pageCode : AccKind → Byte
  | .fetch => cFETCH_PAGE | .load => cLOAD_PAGE | .store => cSTORE_PAGE

/-- Bits 63:57 equal bit 56 (R77). -/
def canonical (va : Word) : Bool := decide (field va 56 8 = 0) || decide (field va 56 8 = 255)

/-- A leaf (R78). -/
def pteLeaf (p : Word) : Bool := bitAt p 1 || bitAt p 3

/-- A table pointer (R78). -/
def ptePointer (p : Word) : Bool := bitAt p 0 && decide (p &&& 0x7FFF00000000011E#64 = 0#64)

/-- The conditions of R78 under which an entry found at `lvl` raises the page fault, but for U, RD, W and X. -/
def pteBad (lvl : Nat) (p : Word) : Bool :=
  !bitAt p 0 || !(pteLeaf p || ptePointer p) || decide (p &&& 0x80000000000000E0#64 ≠ 0#64) ||
    (bitAt p 2 && !bitAt p 1) || (!pteLeaf p && decide (lvl = 0)) ||
    (pteLeaf p && (decide (3 ≤ lvl) || (!bitAt p 62 && decide (field p 48 14 ≠ 0)) || (bitAt p 8 && decide (lvl ≠ 0)) ||
      (decide (lvl = 2) && decide (field p 12 18 ≠ 0)) || (decide (lvl = 1) && decide (field p 12 9 ≠ 0))))

/-- Do U, RD, W and X allow the access (R78)? -/
def pteAllows (kind : AccKind) (l : Level) (p : Word) : Bool :=
  (match l with
   | .u => bitAt p 4
   | _ => !(decide (kind = .fetch) && bitAt p 4)) &&
  (match kind with
   | .fetch => bitAt p 3
   | .load => bitAt p 1
   | .store => bitAt p 2)

/-- log2 of the page that a leaf at `lvl` maps (Table 4.19a). -/
def pageLog (lvl : Nat) (p : Word) : Nat :=
  match lvl with
  | 2 => 30
  | 1 => 21
  | _ => if bitAt p 8 then 16 else 12

/-- The level of a leaf whose page has that size. -/
def logLevel (log : Nat) : Nat := if log = 30 then 2 else if log = 21 then 1 else 0

/-- The address that a leaf gives a virtual address: global when REMOTE is set. -/
def ptePA (log : Nat) (p va : Word) : Word :=
  let pa := field p 12 36 * 4096 / 2 ^ log * 2 ^ log + va.toNat % 2 ^ log
  BitVec.ofNat 64 (pa + if bitAt p 62 then 2 ^ 63 + field p 48 14 * 2 ^ 48 else 0)

/-- How a walk ends. -/
inductive Walk where
  | fault (level : Nat)
  | leaf (level : Nat) (pte : Word)
  deriving DecidableEq, Repr

/-- Read a page-table entry through the control cache, checked under R26; none when the read fails (R78, Table 19.3). -/
def State.pteRead (s : State) (d side part who a : Nat) : State × Option Word :=
  match locPA a with
  | .dram _ pa =>
    if s.granOwner (.dram 0 pa) = some part then
      let (s, b, bad) := s.ccBytes d side pa 8
      match bad with
      | none => (s, some (BitVec.ofNat 64 (ofBytes b)))
      | some x => (s.consume 2 who part d x, none)
    else (s, none)
  | _ => (s, none)

/-- Walk from the table at `table`, whose level is the first argument (R77, R78). -/
def walkFrom (d side part who : Nat) (va : Word) : Nat → Nat → State → State × Walk
  | 0, table, s =>
    match s.pteRead d side part who (table + 8 * field va 12 9) with
    | (s, none) => (s, .fault 0)
    | (s, some p) => (s, if pteBad 0 p then .fault 0 else .leaf 0 p)
  | n + 1, table, s =>
    match s.pteRead d side part who (table + 8 * field va (21 + 9 * n) 9) with
    | (s, none) => (s, .fault (n + 1))
    | (s, some p) =>
      if pteBad (n + 1) p then (s, .fault (n + 1))
      else if pteLeaf p then (s, .leaf (n + 1) p)
      else walkFrom d side part who va n (field p 12 36 * 4096) s

/-- The control-cache half that serves a cluster (10, Table 1.3 text): clusters 0 to 3 west, 4 to 7 east. -/
def sideOf (cluster : Nat) : Nat := if cluster % 8 < 4 then 0 else 1

/-- An entry that holds a translation. -/
def tlbHit (l : List Tlb) (asid : Nat) (va : Word) : Option Tlb :=
  l.find? (fun e => decide (e.asid = asid) && decide (va.toNat / 2 ^ e.log = e.base))

/-- Translate an address for an agent that keeps no translations: the address, or the level of the fault. -/
def State.walkTo (s : State) (d side part who : Nat) (asctl : Word) (l : Level) (kind : AccKind) (va : Word) :
    State × Except Nat Word :=
  if !canonical va then (s, .error 5)
  else
    match walkFrom d side part who va 4 (field asctl 12 36 * 4096) s with
    | (s, .fault n) => (s, .error n)
    | (s, .leaf n p) => (s, if pteAllows kind l p then .ok (ptePA (pageLog n p) p va) else .error n)

/-- Translate a core's address, filling both translation buffers (R77, R80): off at F. What R79 and R80 leave open is the
model's choice (DESIGN CHOICE, log 68): an entry with C = 1 whose group is inconsistent is used as the 64 KiB page that the
entry found names; a full buffer gives up the entry it has held longest; a hit in the cluster's buffer does not fill the
core's. -/
def State.translateAt (s : State) (c : Nat) (l : Level) (kind : AccKind) (va : Word) : State × Except Nat Word :=
  let k := s.core c
  match l with
  | .f => (s, .ok va)
  | lv =>
    if !canonical va then (s, .error 5)
    else
      let asid := field k.cr.asctl 48 16
      match tlbHit k.mem.tlb asid va <|> tlbHit (s.cluster (c / 8)).tlb asid va with
      | some e => (s, if pteAllows kind lv e.pte then .ok (ptePA e.log e.pte va) else .error (logLevel e.log))
      | none =>
        match walkFrom (c / 64) (sideOf (c / 8)) (s.owner (c / 8)) c va 4 (field k.cr.asctl 12 36 * 4096) s with
        | (s, .fault n) => (s, .error n)
        | (s, .leaf n p) =>
          if pteAllows kind lv p then
            let g := pageLog n p
            let e : Tlb := { asid := asid, base := va.toNat / 2 ^ g, log := g, pte := p }
            let k := s.core c
            let s := s.setCore c { k with mem := { k.mem with tlb := e :: k.mem.tlb.take 63 } }
            let u := s.cluster (c / 8)
            (s.setCluster (c / 8) { u with tlb := e :: u.tlb.take 1023 }, .ok (ptePA g p va))
          else (s, .error n)

/-- The checks that follow translation: where the access leads, or the DETAIL of ACCESS (Table 5.3). `own` asks for
this device's LPDDR6, as a fetch and LDK do: for them DETAIL 2 is a global address that names another device, 1 any other
that is not this LPDDR6 (R209). -/
def State.checkPA (s : State) (c : Nat) (l : Level) (own : Bool) (a : Word) : Except Nat Loc :=
  let k := s.core c
  let part := s.owner (c / 8)
  match s.locate a with
  | .malformed => .error (if own then 1 else 2)
  | .reserved => .error 1
  | .dram d pa => if s.granOwner (.dram d pa) = some part then .ok (.dram d pa) else .error 0
  | .host p o =>
    if own then .error 1
    else if s.granOwner (.host p o) ≠ some part then .error 0
    else if ((s.hport p).xlat o).isNone then .error 1
    else .ok (.host p o)
  | .locl o =>
    if own then .error 1
    else if o < lbSize k then .ok (.locl o)
    else if 0x800000 ≤ o ∧ o < 0x822000 ∧ l ≠ .u then .ok (.locl o)
    else .error 1
  | .reg sp o => if own then .error 1 else if l = .f then .ok (.reg sp o) else .error 3
  | .remote dev lpa => if own ∨ s.noRoute dev then .error 2 else .ok (.remote dev lpa)

/-- A piece of an access that lies in one 128-byte line: where it leads, its address as the core names it, its length. -/
structure Piece where
  loc : Loc
  va  : Word
  len : Nat
  deriving DecidableEq, Repr

/-- Is a piece of an access in register space, where the access is not one aligned read or write of 4 or 8 bytes (R6)? -/
def regMisfit (ps : List Piece) (n : Nat) : Bool :=
  ps.any (fun p => match p.loc with | .reg _ off => !regFits off n | _ => false)

/-- Translate and check every piece of an access before any byte moves, page faults before ACCESS (R26, R69). An access of
register space of a width or alignment that R6 does not allow raises ACCESS whole. -/
def State.resolve (s : State) (c : Nat) (kind : AccKind) (own : Bool) (va : Word) (n : Nat) :
    State × Except Trap (List Piece) :=
  let l := (s.core c).level
  let ps := pieces (n / 128 + 2) va.toNat n
  let (s, r) := ps.foldl (fun (a : State × Except Trap (List (Word × Word × Nat))) e =>
    match a.2 with
    | .error t => (a.1, .error t)
    | .ok done =>
      let v := BitVec.ofNat 64 e.1
      match a.1.translateAt c l kind v with
      | (s, .error lv) => (s, .error ⟨pageCode kind, v, BitVec.ofNat 32 lv⟩)
      | (s, .ok pa) => (s, .ok (done ++ [(v, pa, e.2)]))) (s, .ok [])
  match r with
  | .error t => (s, .error t)
  | .ok l' =>
    match l'.foldl (fun (a : Except Trap (List Piece)) e =>
      match a with
      | .error t => .error t
      | .ok done =>
        match s.checkPA c l own e.2.1 with
        | .error d => .error ⟨cACCESS, e.1, BitVec.ofNat 32 d⟩
        | .ok loc => .ok (done ++ [⟨loc, e.1, e.2.2⟩])) (.ok []) with
    | .error t => (s, .error t)
    | .ok ps => (s, if regMisfit ps n then .error ⟨cACCESS, va, 3⟩ else .ok ps)

/-- A corrected parity error of a core's caches: the record, and interrupt source 4 (R217, Table 5.8). -/
def State.cacheParity (s : State) (c line : Nat) (inj : Bool) : State :=
  (s.corrected 2 c (c / 64) inj (128 * line)).pend c 16

/-- The armed parity injection of a core's cache line (Table 19.4): L1_PARITY, or ROC_PARITY of cache `roc`. -/
def State.parityArmed (s : State) (c line : Nat) (roc : Option Nat) : Bool :=
  match s.armedAt (c / 64) (if roc.isSome then 0x04 else 0x03) with
  | none => false
  | some a => decide (a.inst = c) && decide (field a.arg 7 41 = line) &&
      (match roc with | none => true | some r => decide (field a.arg 62 2 = r))

/-- A line and its poisoned sectors with the bytes of a write-combining entry laid over them: a sector that the entry covers
whole is poisoned as the entry's is, another also as it was (R212, R327). -/
def Wcb.over (e : Wcb) (r : Line × BitVec 4) : Line × BitVec 4 :=
  ((List.range 128).foldl (fun d i => if bitAt e.mask i then setByte d i (byteOf e.data i) else d) r.1,
    (List.range 4).foldl (fun m i =>
      setMaskBit m i (bitAt e.poison i || (bitAt r.2 i && decide (maskSec e.mask i ≠ 2 ^ 32 - 1)))) 0)

/-- Drain one entry of the write-combining buffer: a masked write at the home L2 (R211), poisoned when its parity is bad
(R217, WCB_PARITY of Table 19.4). What L2 has answered to a miss register of the line takes the written bytes too, for the
sectors still to come (R71). A write of a granule that is no longer the partition's has no effect (R26); its store having
completed, no trap reports it (DESIGN CHOICE, log 68). -/
def State.drainEntry (s : State) (c : Nat) (e : Wcb) : State :=
  let pa := 128 * e.line
  if s.granOwner (.dram 0 pa) ≠ some (s.owner (c / 8)) then s
  else
  let secs := (List.range 4).filter (fun i => decide (maskSec e.mask i ≠ 0))
  let all : BitVec 4 := secs.foldl (fun m i => setMaskBit m i true) 0
  let hit := match s.armedAt (c / 64) 0x05 with
    | none => false
    | some a => decide (a.inst = c) && decide (field a.arg 7 41 = e.line)
  let e := if e.bad || hit then { e with poison := all } else e
  let s := if e.bad || hit then s.log 0x81 31 (c / 64) hit [w64 2, w64 c, w64 pa, 4] else s
  let s := s.l2Write pa e.mask e.data e.poison
  let s := if hit then s.fire (c / 64) (secs.map (fun i => 4 * e.line + i)) else s
  let k := s.core c
  if k.mem.miss.all (fun m => decide (m.line ≠ e.line) || m.resp.isNone) then s
  else s.setCore c { k with mem := { k.mem with miss := k.mem.miss.map (fun m =>
    if m.line = e.line then { m with resp := m.resp.map e.over } else m) } }

/-- Drain the entries that `p` picks, oldest first. -/
def State.drainIf (s : State) (c : Nat) (p : Wcb → Bool) : State :=
  let k := s.core c
  let out := k.mem.wcb.filter p
  let s := s.setCore c { k with mem := { k.mem with wcb := k.mem.wcb.filter (fun e => !p e) } }
  out.foldl (fun s e => s.drainEntry c e) s

/-- Drain the write-combining buffer (R211). -/
def State.drainWcb (s : State) (c : Nat) : State := s.drainIf c (fun _ => true)

/-- Core cycles of a core now (Table 4.11). -/
def State.cycles (s : State) (c : Nat) : Nat := (s.die (c / 64)).cyc - (s.core c).cycBase

/-- Is the L1 in use (Table 4.10)? -/
def l1En (k : Core) : Bool := bitAt k.cr.coreCfg 0

/-- L1 sets (Table 10.1). -/
def l1Sets (k : Core) : Nat := 64 * (4 - field k.cr.lbcfg 0 2)

/-- Lay written bytes over a cached copy; a word written whole carries good parity again. -/
def CLine.write (l : CLine) (off : Nat) (b : List Byte) : CLine :=
  { l with data := setBytes l.data off b,
           bad := (List.range 16).foldl (fun m w =>
             if off ≤ 8 * w ∧ 8 * w + 8 ≤ off + b.length then m &&& ~~~(ones w 1) else m) l.bad }

/-- Write into the copy of a line that a list of lines holds: sectors that are written poisoned are valid there no longer
(R214, R400). -/
def writeCopy (l : List CLine) (line off : Nat) (b : List Byte) (bad : BitVec 4) : List CLine :=
  l.map (fun e => if e.line = line then { e.write off b with valid := e.valid &&& ~~~bad } else e)

/-- The sectors of an entry that stay marked poisoned after a store of `n` bytes at `off`: a sector that the store covers
whole takes `bad` alone, one that it covers in part keeps its mark (R327). -/
def wcbMarks (old bad : BitVec 4) (off n : Nat) : BitVec 4 :=
  (List.range 4).foldl (fun m i =>
    setMaskBit m i (bitAt bad i || (bitAt old i && !(decide (off ≤ 32 * i) && decide (32 * i + 32 ≤ off + n))))) 0

/-- A store of bytes of one line of this device's LPDDR6 (R211, R216): into the write-combining buffer, and into the L1
or victim copy. `bad` are the sectors that the store writes poisoned (R181, R327). -/
def State.storeLine (s : State) (c pa : Nat) (b : List Byte) (bad : BitVec 4) : State :=
  let line := pa / 128
  let off := pa % 128
  let k := s.core c
  let k := if l1En k then
      { k with mem := { k.mem with
          l1 := tmod [] k.mem.l1 (line % l1Sets k) (fun l => writeCopy l line off b bad),
          victim := writeCopy k.mem.victim line off b bad } }
    else k
  let s := s.setCore c k
  let now := s.cycles c
  match k.mem.wcb.find? (fun e => decide (e.line = line)) with
  | some e =>
    let e' := { e with mask := e.mask ||| ones off b.length, data := setBytes e.data off b, last := now,
                       poison := wcbMarks e.poison bad off b.length }
    let s := s.setCore c { k with mem := { k.mem with wcb := k.mem.wcb.map (fun x => if x.line = line then e' else x) } }
    if e'.mask = BitVec.allOnes 128 then s.drainIf c (fun x => decide (x.line = line)) else s
  | none =>
    let s := match k.mem.wcb with
      | o :: _ => if 16 ≤ k.mem.wcb.length then s.drainIf c (fun x => decide (x.line = o.line)) else s
      | [] => s
    let k := s.core c
    let e : Wcb := { line := line, mask := ones off b.length, data := setBytes 0 off b, last := now, poison := bad }
    let s := s.setCore c { k with mem := { k.mem with wcb := k.mem.wcb ++ [e] } }
    if e.mask = BitVec.allOnes 128 then s.drainIf c (fun x => decide (x.line = line)) else s

/-- Put a line into the L1: the least recently used line of a full set enters the victim cache (R210, R213). -/
def l1Insert (k : Core) (l : CLine) : Core :=
  let set := l.line % l1Sets k
  let old := (tget [] k.mem.l1 set).filter (fun e => !decide (e.line = l.line))
  let vict := k.mem.victim.filter (fun e => !decide (e.line = l.line))
  { k with mem := { k.mem with l1 := tset [] k.mem.l1 set (l :: old.take 7), victim := (old.drop 7 ++ vict).take 16 } }

/-- Remove a line from the L1 and the victim cache. -/
def l1Drop (k : Core) (line : Nat) : Core :=
  let set := line % l1Sets k
  { k with mem := { k.mem with l1 := tmod [] k.mem.l1 set (fun l => l.filter (fun e => !decide (e.line = line))),
                               victim := k.mem.victim.filter (fun e => !decide (e.line = line)) } }

/-- Has a line a word with bad parity among the bytes? -/
def CLine.badIn (l : CLine) (off n : Nat) : Bool :=
  (List.range 16).any (fun w => bitAt l.bad w && decide (8 * w < off + n) && decide (off < 8 * w + 8))

/-- Look a load's bytes up in the L1, then in the victim cache (R213), discarding a line with bad parity (R217). -/
def State.l1Look (s : State) (c pa n : Nat) : State × Option CLine :=
  let k := s.core c
  let line := pa / 128
  if !l1En k then (s, none)
  else
    match ((tget [] k.mem.l1 (line % l1Sets k)) ++ k.mem.victim).find? (fun e => decide (e.line = line)) with
    | none => (s, none)
    | some l =>
      let inj := s.parityArmed c line none
      if l.badIn (pa % 128) n ∨ inj then
        let s := if inj then s.fire (c / 64) [] else s
        ((s.setCore c (l1Drop k line)).cacheParity c line inj, none)
      else if (touched (pa % 128) n).all (bitAt l.valid) then (s.setCore c (l1Insert k l), some l)
      else (s, none)

/-- Entries that hold only some of a load's bytes drain before it, unless one entry holds them all (R212): `l` gives the
address and number of the bytes that the load reads, line by line. -/
def State.wcbSettle (s : State) (c : Nat) (l : List (Nat × Nat)) : State :=
  let want (e : Wcb) (p : Nat × Nat) : BitVec 128 := if e.line = p.1 / 128 then ones (p.1 % 128) p.2 else 0
  let all (e : Wcb) : Bool := l.all (fun p => decide (e.line = p.1 / 128) && decide (e.mask &&& want e p = want e p))
  let some_ (e : Wcb) : Bool := l.any (fun p => decide (e.mask &&& want e p ≠ 0))
  if (s.core c).mem.wcb.any all then s else if (s.core c).mem.wcb.any some_ then s.drainIf c some_ else s

/-- The lowest address among `n` bytes from `pa` on that lies in a sector that `p` marks poisoned. -/
def firstBad (p : BitVec 4) (pa n : Nat) : Option Nat :=
  ((touched (pa % 128) n).find? (bitAt p)).map (fun i => max pa (pa / 128 * 128 + 32 * i))

/-- What the write-combining buffer holds of a load's bytes: all of them in one entry, or none once the entries that hold
some have drained (R212). Bytes of a sector that was stored poisoned are poisoned there too: the address of the first
(R181, R400). -/
def State.wcbLook (s : State) (c pa n : Nat) : State × Option (Except Nat (List Byte)) :=
  let k := s.core c
  let want : BitVec 128 := ones (pa % 128) n
  match k.mem.wcb.find? (fun e => decide (e.line = pa / 128)) with
  | none => (s, none)
  | some e =>
    if e.mask &&& want = want then
      (s, some (match firstBad e.poison pa n with | some a => .error a | none => .ok (lineBytes e.data (pa % 128) n)))
    else if e.mask &&& want = 0 then (s, none)
    else (s.drainIf c (fun x => decide (x.line = pa / 128)), none)

/-- A fill and its poisoned sectors with the line's write-combining entry laid over them (R212). -/
def State.overlaid (s : State) (c line : Nat) (r : Line × BitVec 4) : Line × BitVec 4 :=
  match (s.core c).mem.wcb.find? (fun e => decide (e.line = line)) with
  | none => r
  | some e => e.over r

/-- Install one sector of a fill in the L1 (R214): a poisoned sector is not valid there. -/
def l1Sector (k : Core) (line i : Nat) (d : Line) (good : Bool) : Core :=
  let old := ((tget [] k.mem.l1 (line % l1Sets k)) ++ k.mem.victim).find? (fun e => decide (e.line = line))
  let e : CLine := old.getD { line := line, valid := 0, data := 0 }
  l1Insert k { e with valid := setMaskBit e.valid i good, data := setLineSec e.data i (lineSec d i),
                      bad := e.bad &&& ~~~(ones (4 * i) 4) }

/-- The bytes of a load that a filled line holds, or the address of the first poisoned sector it touches. -/
def CLine.take (l : CLine) (pa n : Nat) : Except Nat (List Byte) :=
  match firstBad (~~~l.valid) pa n with
  | some a => .error a
  | none => .ok (lineBytes l.data (pa % 128) n)

/-- Read bytes of one line that a load finds without a fill; the address of the first poisoned sector among them. -/
def State.loadHit (s : State) (c pa n : Nat) : State × Option (Except Nat (List Byte)) :=
  match s.wcbLook c pa n with
  | (s, some b) => (s, some b)
  | (s, none) =>
    match s.l1Look c pa n with
    | (s, some l) => (s, some (.ok (lineBytes l.data (pa % 128) n)))
    | (s, none) => (s, none)

/-- The next sector of a miss register arrives (R214): L2 answers the whole line, the first waiter's sector first and the
others after it, wrapping. The sector is installed while the L1 is in use, with the bytes of the line's write-combining
entry laid over it (R212, R216); the fourth frees the register. The sector's number, the line so far and its poisoned
sectors; none where the line's granule is no longer the partition's (R26), which frees the register. -/
def State.sectorIn (s : State) (c : Nat) (m : Miss) : State × Option (Nat × Line × BitVec 4) :=
  if m.resp.isNone && decide (s.granOwner (.dram 0 (128 * m.line)) ≠ some (s.owner (c / 8))) then
    let k := s.core c
    (s.setCore c { k with mem := { k.mem with miss := k.mem.miss.erase m } }, none)
  else
    let (s, r) := match m.resp with
      | some r => (s, r)
      | none => s.l2Read (128 * m.line + 32 * m.first) [0, 1, 2, 3] true
    let i := (m.first + m.n) % 4
    let (d, p) := s.overlaid c m.line r
    let k := s.core c
    let k := if l1En k then l1Sector k m.line i d (!bitAt p i) else k
    let miss := if m.n = 3 then k.mem.miss.erase m
      else k.mem.miss.map (fun x => if x = m then { m with n := m.n + 1, resp := some r } else x)
    (s.setCore c { k with mem := { k.mem with miss := miss } }, some (i, d, p))

/-- Fill a line for a request of an instruction that holds issue until it has the line, a vector load or a row of TLD.R: it
allocates a register, whose four sectors arrive (R214). All registers of the core are free then, the loads in flight having
completed (log 28). -/
def State.fillL1 (s : State) (c pa : Nat) : State × CLine :=
  let k := s.core c
  let line := pa / 128
  let s := s.setCore c { k with mem := { k.mem with miss := k.mem.miss ++ [{ line := line, first := pa / 32 % 4 }] } }
  (List.range 4).foldl (fun (a : State × CLine) _ =>
    match (a.1.core c).mem.miss.getLast? with
    | some m =>
      match a.1.sectorIn c m with
      | (s, some (i, d, p)) =>
        (s, { a.2 with valid := setMaskBit a.2.valid i (!bitAt p i), data := setLineSec a.2.data i (lineSec d i) })
      | (s, none) => (s, a.2)
    | none => a) (s, { line := line, valid := 0, data := 0 })

/-- Read bytes of one line through the L1, a miss filled in the same step. -/
def State.loadLine (s : State) (c pa n : Nat) : State × Except Nat (List Byte) :=
  match s.loadHit c pa n with
  | (s, some b) => (s, b)
  | (s, none) =>
    let (s, l) := s.fillL1 c pa
    (s, l.take pa n)

/-- A read-only cache of a core: 0 instruction, 1 constant, 2 descriptor. -/
def roGet (m : CoreMem) (w : Nat) : Tbl (List CLine) := if w = 0 then m.icache else if w = 1 then m.kcache else m.dcache

/-- Replace a read-only cache. -/
def roSet (m : CoreMem) (w : Nat) (t : Tbl (List CLine)) : CoreMem :=
  if w = 0 then { m with icache := t } else if w = 1 then { m with kcache := t } else { m with dcache := t }

/-- Sets of a read-only cache (Table 10.1). -/
def roSets (w : Nat) : Nat := if w = 0 then 128 else if w = 1 then 32 else 16

/-- Replace a set of a read-only cache. -/
def State.setRo (s : State) (c w set : Nat) (l : List CLine) : State :=
  let k := s.core c
  s.setCore c { k with mem := roSet k.mem w (tset [] (roGet k.mem w) set l) }

/-- Does a read find the most recently used line of its set of a read-only cache, with the sectors it needs and good
parity? -/
def State.roFirst (s : State) (c w pa n : Nat) : Option CLine :=
  match tget [] (roGet (s.core c).mem w) (pa / 128 % roSets w) with
  | l :: _ =>
    if l.line = pa / 128 ∧ (touched (pa % 128) n).all (bitAt l.valid) ∧ !l.badIn (pa % 128) n ∧
        !s.parityArmed c (pa / 128) (some w) then some l else none
  | [] => none

/-- Read bytes of one line through a read-only cache (R218). -/
def State.roRead (s : State) (c w pa n : Nat) : State × Except Nat (List Byte) :=
  match s.roFirst c w pa n with
  | some l => (s, .ok (lineBytes l.data (pa % 128) n))
  | none =>
    let line := pa / 128
    let set := line % roSets w
    let ways := tget [] (roGet (s.core c).mem w) set
    let rest := ways.filter (fun e => !decide (e.line = line))
    let fill (s : State) : State × Except Nat (List Byte) :=
      let (s, d, p) := s.l2Read pa [0, 1, 2, 3] true
      let l : CLine := { line := line, valid := ~~~p, data := d }
      (s.setRo c w set ((l :: rest).take 4), l.take pa n)
    match ways.find? (fun e => decide (e.line = line)) with
    | none => fill s
    | some l =>
      let inj := s.parityArmed c line (some w)
      if l.badIn (pa % 128) n ∨ inj then
        let s := if inj then s.fire (c / 64) [] else s
        fill ((s.setRo c w set rest).cacheParity c line inj)
      else if (touched (pa % 128) n).all (bitAt l.valid) then
        (s.setRo c w set (l :: rest), .ok (lineBytes l.data (pa % 128) n))
      else fill s

/-- Read the debug view or the side arrays at an offset of the core-local window: the bytes and what parity detects
(Table 1.5, R181). -/
def viewRead (k : Core) (off n : Nat) : List Byte × Core × List CoreEv :=
  if off < 0x820000 then
    let t := (off - 0x800000) / 0x2000
    let r := off / 128 % 64
    let hit := k.tile.bad.filter (fun e => decide (e.1 / 16 = 64 * t + r) && decide (8 * (e.1 % 16) < off % 128 + n) &&
      decide (off % 128 < 8 * (e.1 % 16) + 8))
    let (k', ev) := detectAll k [] (hit.map (fun e => parityDetail true t r (e.1 % 16)))
    (lineBytes (tileRow k t r) (off % 128) n, k', ev)
  else ((List.range n).map (fun i => tget 0 k.tile.side (off - 0x820000 + i)), k, [])

/-- Write the debug view or the side arrays. -/
def viewWrite (k : Core) (off : Nat) (b : List Byte) : Core :=
  if off < 0x820000 then
    let t := (off - 0x800000) / 0x2000
    let r := off / 128 % 64
    let o := off % 128
    let whole (w : Nat) : Bool := decide (o ≤ 8 * w) && decide (8 * w + 8 ≤ o + b.length)
    { k with tile := { k.tile with rows := tmod 0 k.tile.rows (64 * t + r) (fun l => setBytes l o b),
                                   bad := (List.range 16).foldl (fun m w =>
                                     if whole w then tset false m (16 * (64 * t + r) + w) false else m) k.tile.bad } }
  else
    { k with tile := { k.tile with side := (b.zipIdx).foldl (fun m e => tset 0 m (off - 0x820000 + e.2) e.1) k.tile.side } }

end Sys2Proof.Machine
end

