-- ==== Sys2Proof/Machine/HarnessOps.lean ====
section
/-! DEFINITION. The Harness: what cores report (R165, R181, R199), packets from ring to reply (R306 to R312), layer regions
and the commit decision (R193 to R202), tasks and wedged cores (R92, R256, R318). -/

namespace Sys2Proof.Machine

/-- A partition number as an index. -/
def partId (n : Nat) : PartId := ⟨n % 17, Nat.mod_lt _ (by omega)⟩

/-- The task of a core. -/
def State.taskOf (s : State) (c : Nat) : Option Task :=
  (s.core c).task.bind (fun t => s.tasks.find? (fun u => decide (u.q = t.queue) && decide (u.pos = t.pos)))

/-- Mark a region attempt; the first mark keeps its core and accumulator (R199, Table 9.12). `inj`: an injection caused it. -/
def Region.mark (r : Region) (c acc : Nat) (m : AccMark) (inj : Bool) : Region :=
  let first := !(r.ovf || r.nf || r.pe)
  let r := if first then { r with firstCore := c, firstAcc := acc } else r
  match m with
  | .ovf => { r with ovf := true }
  | .nf => { r with nf := true }
  | .pe => { r with pe := true, peInj := inj && (r.peInj || !r.pe) }

/-- Did injections alone mark a region attempt (R403)? -/
def Region.injected (r : Region) : Bool := r.pe && r.peInj && !r.ovf && !r.nf

/-- A report reaches the Harness: it marks the region in which the core's task was launched (R165, R199). -/
def State.harnessReport (s : State) (c acc : Nat) (m : AccMark) (inj : Bool) : State :=
  match s.taskOf c with
  | none => s
  | some t =>
    let u := s.queue t.q
    match u.region with
    | some r => if t.region then s.setQueue t.q { u with region := some (r.mark c acc m inj) } else s
    | none => s

/-- What a core reports while it executes reaches its unit. -/
def State.coreEvent (s : State) (c : Nat) (inj : Bool) (e : CoreEv) : State :=
  let part := s.owner (c / 8)
  let d := c / 64
  match e with
  | .count tile slot n =>
    match slot with
    | none => s.unenrolled d part n.elems
    | some k =>
      if s.censusOwner d k = part then
        match (s.core c).task with
        | none => s.censusCount d k (partId part) none false n
        | some t => s.censusCount d k t.queue.part (some t.queue.q) ((s.taskOf c).any (·.region)) n
      else if tile then s
      else s.unenrolled d part n.elems
  | .report acc m => s.harnessReport c acc m inj
  | .parity detail =>
    let b := s.injBlk d
    let s := if inj then s else s.setInj d { b with parity := satAdd b.parity 1 }
    let eng := if bitAt detail 26 then 512 + c else 4 * c + field detail 22 4
    let s := if inj then s.setCore c { s.core c with injAsync := cENGINE_PARITY :: (s.core c).injAsync } else s
    (s.healthEv (.parity d eng) inj).log 0x83 part d inj [w64 c, detail.setWidth 64]

/-- All events of a core's instruction. -/
def State.coreEvents (s : State) (c : Nat) (inj : Bool) (l : List CoreEv) : State :=
  l.foldl (fun s e => s.coreEvent c inj e) s

/-- The word that an injection holds bad for a core (ACC_PARITY, TILE_PARITY of Table 19.4). -/
def State.armedParity (s : State) (c : Nat) : Option (Bool × Nat × Nat × Nat) :=
  match s.armedAt (c / 64) 0x01 with
  | some a => if a.inst / 4 = c then some (false, a.inst % 4, field a.arg 4 6, field a.arg 0 4) else none
  | none =>
    match s.armedAt (c / 64) 0x02 with
    | some a => if a.inst = c then some (true, field a.arg 10 4, field a.arg 4 6, field a.arg 0 4) else none
    | none => none

/-- The core as its next step finds it: the word of an armed parity injection reads bad. -/
def State.marked (s : State) (c : Nat) : Core :=
  let k := s.core c
  match s.armedParity c with
  | none => k
  | some p => injBad { k with tile := { k.tile with inj := some p } }

/-- Put a core back after a step with what it reported: an armed parity injection that was detected fires. -/
def State.unmarked (s : State) (c : Nat) (k : Core) (ev : List CoreEv) : State :=
  match s.armedParity c with
  | none => (s.setCore c k).coreEvents c false ev
  | some p =>
    let d := injDetail p
    let s := s.setCore c (injGood k)
    let s := if ev.any (fun e => decide (e = .parity d)) then s.fire (c / 64) [] else s
    let only := ev.all (fun e => match e with | .parity x => decide (x = d) | _ => true)
    let inj (e : CoreEv) : Bool := ev.contains (.parity d) && (match e with
      | .parity x => decide (x = d)
      | .report _ .pe => only
      | _ => false)
    ev.foldl (fun s e => s.coreEvent c (inj e) e) s

/-- The bits that each parameter word of an opcode may set (Table 14.5); none for an unassigned opcode. -/
def opWords (op : Nat) : Option (List Word) :=
  let all : Word := BitVec.allOnes 64
  match op with
  | 0x00 => some []
  | 0x01 => some [all, 0x3FFFFFF]
  | 0x02 => some [0xFFFFFFFE00000000, 0x0000FFFFFFFFFE00, 0xFFFFFF1FFFFFFFFF]
  | 0x03 => some [0xBFFFFFFFFFFFFFFF, 0xBFFFFFFFFFFFFFFF, all]
  | 0x04 => some [all, all, all]
  | 0x05 => some [0xBFFF000000001FFF, all, 7]
  | 0x06 => some [0xBFFF000000001FFF, all, 0xFFFF0007]
  | 0x07 => some []
  | 0x08 => some [all, all, 0x0000FFFFFF1F070F, 0xFFFFFFFF00000FFF, all]
  | 0x10 => some [all, all, 0x17F1FFF]
  | 0x11 => some [all]
  | 0x12 => some [0x7F37FF]
  | 0x13 => some []
  | 0x14 => some [all, all, all]
  | 0x15 => some [all, all, all]
  | 0x16 => some [0xF3FFFFF, 0xFFFFFFF81FFC0001, all, all]
  | 0x17 => some [0x103FFFFF, all]
  | 0x20 => some [all]
  | 0x21 => some [0x1F]
  | 0x22 => some [all, 0x1FFF0000FFFF]
  | 0x23 => some [all, 0x1FFF0000FFFF]
  | 0x30 => some [all, 0xFF]
  | 0x31 => some [0xFFF]
  | 0x38 => some [3, 0xFFFF]
  | 0x39 => some [all]
  | 0x3A => some [all, all, all]
  | 0x40 => some [all, all, all]
  | 0x41 => some [all, all, all]
  | 0x48 => some [all, all]
  | 0x49 => some [all, all]
  | 0x4A => some [0xFFFF00FF, all]
  | _ => none

/-- Statuses of Table 14.6. -/
def stOK : Byte := 0x00
def stREPLAYED : Byte := 0x01
def stPOISONED : Byte := 0x02
def stBAD_OPCODE : Byte := 0x10
def stBAD_PARAM : Byte := 0x11
def stBAD_LENGTH : Byte := 0x12
def stNO_PERM : Byte := 0x13
def stNO_RES : Byte := 0x14
def stSKEW : Byte := 0x20
def stLIMIT : Byte := 0x21
def stMEM : Byte := 0x22
def stTASK : Byte := 0x23
def stTIMEOUT : Byte := 0x24
def stLINK_DOWN : Byte := 0x30
def stPARTNER : Byte := 0x31
def stUNCORR : Byte := 0x40
def stWEDGED : Byte := 0x41
def stCAL : Byte := 0x50
def stBUDGET : Byte := 0x51

/-- A location DETAIL: word index, 0xE header, 0xF parameter block with a byte offset (R316). -/
def locWord (i : Nat) : Word := w64 i
def locHdr : Word := 0xE
def locBlk (off : Nat) : Word := w64 (off * 2 ^ 32 + 0xF)

/-- OPCODE and PLEN of a packet. -/
def Pkt.op (p : Pkt) : Nat := field p.h0 0 8
def Pkt.plen (p : Pkt) : Nat := field p.h0 32 8

/-- Parameter word `i` of a packet. -/
def Pkt.word (p : Pkt) (i : Nat) : Word := p.w.getD i 0

/-- The pairs of a packet with V = 1: whether it is a wait pair, and its word index. -/
def Pkt.pairs (p : Pkt) : List (Bool × Nat) :=
  [(false, 16), (false, 20), (true, 0), (true, 4), (true, 8), (true, 12)].filterMap (fun e =>
    let f := field p.h1 e.2 4
    if 8 ≤ f then some (e.1, f % 8) else none)

/-- Parameter words that the opcode of a packet uses. -/
def Pkt.nWords (p : Pkt) : Nat := ((opWords p.op).map (·.length)).getD 0

/-- Does the pair word at `i` overlap an opcode word or another pair word? -/
def Pkt.overlaps (p : Pkt) (i : Nat) : Bool :=
  decide (i < p.nWords) || decide (1 < (p.pairs.filter (fun e => decide (e.2 = i))).length)

/-- Has a pair word a nonzero RsvZ field: bit 62, or DEVID with REMOTE = 0 (Table 14.3)? -/
def pairRsvz (w : Word) : Bool := bitAt w 62 || (!bitAt w 63 && decide (field w 48 14 ≠ 0))

/-- Is the local object of a pair word in a block that partition `part` holds? -/
def State.pairHeld (s : State) (part : Nat) (w : Word) : Bool :=
  decide (s.syncOwner (field w 44 1) (field w 32 12) = part)

/-- The least of some word indices. -/
def leastIdx (l : List Nat) : Nat := l.foldl min 7

/-- Checks 1 to 5 of R308: the status and DETAIL of the first failure. The CNS_CTL value of a CENSUS_CFG has reserved fields
where the packet writes CNS_CTL (DEDUCED, log 36). -/
def State.pktCheck (s : State) (q : QId) (p : Pkt) : Option (Byte × Word) :=
  let n := 2 * p.plen
  let short := (p.pairs.map (·.2) ++ List.range p.nWords).filter (fun i => decide (n ≤ i))
  let words := (opWords p.op).getD []
  let masks := if p.op = 0x16 ∧ !bitAt (p.word 0) 24 then words.set 1 (BitVec.allOnes 64) else words
  let badWord (i : Nat) : Bool := decide (p.word i &&& ~~~(masks.getD i 0) ≠ 0)
  let badPair (e : Bool × Nat) : Bool :=
    let w := p.word e.2
    p.overlaps e.2 || pairRsvz w || decide (2 < field w 45 3) || (e.1 && s.pairRemote w)
  let bad := (List.range p.nWords).filter badWord ++ (p.pairs.filter badPair).map (·.2)
  let foreign := (p.pairs.filter (fun e => !s.pairRemote (p.word e.2) && !s.pairHeld p.part (p.word e.2))).map (·.2)
  if 3 < p.plen then some (stBAD_LENGTH, locHdr)
  else if short ≠ [] then some (stBAD_LENGTH, locWord (leastIdx short))
  else if 16 < p.part ∨ !s.exists_ p.part ∨ (q.part.val ≠ 0 ∧ p.part ≠ q.part.val) then some (stNO_PERM, locHdr)
  else if (opWords p.op).isNone then some (stBAD_OPCODE, 0)
  else if p.h0 &&& 0xFFFF00000000FC00#64 ≠ 0 ∨ p.h1 &&& 0xFFFFFFFFFF000000#64 ≠ 0 then some (stBAD_PARAM, locHdr)
  else if bad ≠ [] then some (stBAD_PARAM, locWord (leastIdx bad))
  else if foreign ≠ [] then some (stNO_PERM, locWord (leastIdx foreign))
  else none

/-- The signal pairs that a failing packet performs (R308). -/
def State.validSigs (s : State) (q : QId) (p : Pkt) : List Word :=
  if 3 < p.plen ∨ 16 < p.part ∨ !s.exists_ p.part ∨ (q.part.val ≠ 0 ∧ p.part ≠ q.part.val) then []
  else
    (p.pairs.filter (fun e => !e.1 && decide (e.2 < 2 * p.plen) && !p.overlaps e.2 && !pairRsvz (p.word e.2) &&
      decide (field (p.word e.2) 45 3 ≤ 2) &&
      (s.pairRemote (p.word e.2) || s.pairHeld p.part (p.word e.2)))).map (fun e => p.word e.2)

/-- Does a signal pair name an object of the region block? -/
def State.inBlock (s : State) (r : Region) (w : Word) : Bool :=
  !s.pairRemote w && decide (field w 44 1 = r.blockDie.val) && decide (field w 38 6 = r.block)

/-- A status that fails no region (R200 row 1). -/
def goodStatus (b : Byte) : Bool := decide (b.toNat ≤ 2)

/-- Complete a packet (R309): inside a region its reply and its signals outside the region block are held (R197); outside,
and before the region, its signals are applied and its reply goes in line for the ring. -/
def State.finishPkt (s : State) (q : QId) (p : Pkt) (status : Byte) (detail : Word) (sigs : List Word) : State :=
  let u := s.queue q
  let rep := p.reply q.part.val status detail
  match u.region.filter (fun r => decide (r.startPos < p.pos)) with
  | some r =>
    let now := sigs.filter (s.inBlock r)
    let held := (sigs.filter (fun w => !s.inBlock r w)).map (fun w => (p.pos, sigOf p.part w))
    let bad := if goodStatus status then r.bad else
      match r.bad with
      | some (n, st, d) => if n < p.pos then some (n, st, d) else some (p.pos, status, detail)
      | none => some (p.pos, status, detail)
    let r := { r with replies := r.replies ++ [rep], sigs := r.sigs ++ held, bad := bad }
    let s := (s.setQueue q { u with region := some r, pkts := u.pkts.filter (fun x => !decide (x.pos = p.pos)) }).forget
      (.pkt q p.pos)
    runJobs jobFuel (now.map (fun w => .pair q p.pos (sigOf p.part w))) s
  | none => runJobs jobFuel (sigs.map (fun w => .pair q p.pos (sigOf p.part w)) ++ [.reply q rep]) s

/-- Do conditions 1 and 2 of R309 hold back position `pos`? -/
def State.blocked (s : State) (q : QId) (pos : Nat) : Bool :=
  (s.queue q).pkts.any (fun p => decide (p.pos < pos) &&
    (decide (p.st = .waiting) || [0x06, 0x07, 0x10, 0x11, 0x12, 0x13].contains p.op ||
      decide (p.work.head? = some commitWork)))

/-- May the queue begin a packet at all: it is not stopped, and fewer than 16 replies wait (R312, R313)? -/
def State.mayBegin (s : State) (q : QId) : Bool := !(s.queue q).stop && decide ((s.queue q).waitRep.length < 16)

/-- Replace a packet of a queue. -/
def State.setPkt (s : State) (q : QId) (p : Pkt) : State :=
  let u := s.queue q
  s.setQueue q { u with pkts := u.pkts.map (fun x => if x.pos = p.pos then p else x) }

/-- Replace a packet of a queue, or enter one that the queue does not hold yet. -/
def State.putPkt (s : State) (q : QId) (p : Pkt) : State :=
  let u := s.queue q
  if u.pkts.any (fun x => decide (x.pos = p.pos)) then s.setPkt q p else s.setQueue q { u with pkts := u.pkts ++ [p] }

/-- The slots of both dies enrolled to a queue (R184) that do not stand at their reset values: (die, slot). -/
def State.enrolled (s : State) (q : QId) : List (Nat × Nat) :=
  [0, 1].flatMap (fun d => ((s.die d).census.slots.filter (fun e =>
    decide (field e.2.ctl 23 6 = q.q.val) && decide (s.censusOwner d e.1 = q.part.val))).map (fun e => (d, e.1)))

/-- Every slot of both dies enrolled to a queue (R184). -/
def State.allEnrolled (s : State) (q : QId) : List (Nat × Nat) :=
  [0, 1].flatMap (fun d => ((List.range 1024).filter (fun n =>
    decide (s.censusOwner d n = q.part.val) && decide (field (s.cslot d n).ctl 23 6 = q.q.val))).map (fun n => (d, n)))

/-- Set every object of a region's block to zero (R193, R202): local operations for the region's partition, which no one
poisons with. They change nothing where that partition holds the block no longer (R245). -/
def State.zeroBlock (s : State) (d block part : Nat) : State :=
  if s.syncOwner d (64 * block) ≠ part then s
  else (List.range 64).foldl (fun s i =>
    let y := (s.die d).sync
    (s.setSync d { y with arr := tset none y.arr (64 * block + i) none }).setObj d (64 * block + i) 0) s

/-- Words of a REGION_REPLAY or REGION_FAILED record after partition, queue and step (Table 9.12). -/
def State.regionWords (s : State) (q : QId) (r : Region) (rung : Nat) (status : Byte) : List Word :=
  let lost := (s.enrolled q).map (fun e => (e.2, (s.cslot e.1 e.2).shadow))
  let bad := lost.filter (fun e => decide (e.2.sat + e.2.nonfin ≠ 0))
  let low := (bad.map (·.1)).foldl min 1023
  let total := (bad.map (fun e => e.2.sat + e.2.nonfin)).sum
  [place status.toNat 48 8 ||| place (b2n r.pe) 42 1 ||| place (b2n r.nf) 41 1 ||| place (b2n r.ovf) 40 1 |||
     place rung 34 2 ||| place r.rung 32 2 ||| place r.attempt 16 2 ||| place r.startPos 0 16,
   place r.firstAcc 8 4 ||| place r.firstCore 0 8, place low 48 16 ||| place total 0 48]

/-- Close a region (R201): shadow counters join the current ones, held signals are performed, held replies go in line in
ring order, OK becoming OK_REPLAYED after a replay (R197). -/
def State.closeRegion (s : State) (q : QId) (r : Region) : State :=
  let s := (s.enrolled q).foldl (fun s e =>
    let c := s.cslot e.1 e.2
    s.setCslot e.1 e.2 { c with cur := satCounts c.cur c.shadow, shadow := {} }) s
  let u := s.queue q
  let s := s.setQueue q { u with region := none, replayed := u.replayed || decide (0 < r.attempt) }
  let sigs := r.beginSigs.map (fun p => (r.startPos, p)) ++ r.sigs
  let sorted := sortBy (·.1) sigs
  let s := runJobs jobFuel (sorted.map (fun e => .pair q e.1 e.2)) s
  let reps := r.beginReply.toList ++ sortBy (·.pos) r.replies
  reps.foldl (fun s e =>
    s.lineReply q (if e.status = stOK ∧ 0 < r.attempt then { e with status := stREPLAYED } else e)) s

/-- Replay a region at rung `rung` (R202). -/
def State.replayRegion (s : State) (q : QId) (r : Region) (rung : Nat) : State :=
  let words := s.regionWords q r rung 0
  let s := (s.enrolled q).foldl (fun s e => s.setCslot e.1 e.2 { s.cslot e.1 e.2 with shadow := {} }) s
  let s := s.zeroBlock r.blockDie.val r.block r.part
  let s := s.qlog 0x31 q r.injected words
  let u := s.queue q
  let r := { r with rung := rung, attempt := r.attempt + 1, ovf := false, nf := false, pe := false, peInj := false, firstCore := 0,
                    firstAcc := 0, bad := none, replies := [], sigs := [] }
  s.setQueue q { u with region := some r, nextPos := r.startPos + 1,
                        pkts := u.pkts.filter (fun p => decide (p.pos < r.startPos)) }

/-- A packet waits for the answers to its remote requests: its status and DETAIL so far. -/
def Pkt.awaiting (p : Pkt) (st : Byte) (d : Word) : Pkt := { p with work := [1, st.setWidth 64, d] }

/-- Has every packet of the queue from position `lo` up to `pos` completed and have its signals been applied (R254, R255)? -/
def State.quietFrom (s : State) (q : QId) (lo pos : Nat) : Bool :=
  let in_ (n : Nat) : Bool := decide (lo ≤ n) && decide (n < pos)
  !(s.queue q).pkts.any (fun p => in_ p.pos) && !(s.queue q).sigWait.any (fun e => in_ e.1) &&
    !s.fab.reqs.any (fun e => match e.2 with
      | some r => (match r.who with | .pkt q' n => decide (q' = q) && in_ n | _ => false)
      | none => false)

/-- Has every earlier packet of the queue completed and its signals been applied (R255)? -/
def State.quietBefore (s : State) (q : QId) (pos : Nat) : Bool := s.quietFrom q 0 pos

/-- Complete the packet that closed a region. The one that poisoned the step waits until every poisoning SIGNAL it caused has
been acknowledged (R203); the DETAIL of a completion that such SIGNALs held back is the number of those not delivered (R204). -/
def State.finishCommit (s : State) (q : QId) (p : Pkt) (status : Byte) (detail : Word) (wait : Bool) : State :=
  let u := s.queue q
  let sigs := s.validSigs q p
  if !wait || u.psnTags.isEmpty then
    let sent := wait && u.plist.any (fun e => bitAt e 0)
    let detail := if status = stPOISONED || sent then w64 u.undeliv else detail
    runJobs jobFuel (sigs.map (fun w => .pair q p.pos (sigOf p.part w)) ++ [.reply q (p.reply q.part.val status detail)]) s
  else s.putPkt q { p with st := .begun, work := [commitWork, status.setWidth 64] ++ sigs }

/-- The commit decision at the close of an attempt (Table 9.10). `own` is the status of a packet that closes the region in
place of its LAYER_COMMIT (R194). -/
def State.commit (s : State) (q : QId) (p : Pkt) (r : Region) (own : Option (Byte × Word)) : State :=
  let u := s.queue q
  let bad := own <|> r.bad.map (fun e => (e.2.1, e.2.2))
  let mark := r.ovf || r.nf || r.pe
  let ok := if 0 < r.attempt then stREPLAYED else stOK
  let fail (row : Nat) (status : Byte) (detail : Word) : State :=
    let inj := decide (row = 5) && r.injected
    let s := s.qlog 0x32 q inj (s.regionWords q r r.rung status)
    let s := if u.poisoned then s else runJobs jobFuel [.poison q (.row row inj)] s
    (s.closeRegion q r).finishCommit q p status detail (!u.poisoned)
  match bad with
  | some (st, d) => fail 1 st d
  | none =>
    if u.poisoned then (s.closeRegion q r).finishCommit q p stPOISONED 0 false
    else if !mark then (s.closeRegion q r).finishCommit q p ok 0 false
    else if (r.ovf || r.nf) && decide (r.rung = 2) then fail 4 stPOISONED 0
    else if r.attempt = 2 then fail 5 stLIMIT 0
    else if r.ovf || r.nf then s.replayRegion q r (r.rung + 1)
    else s.replayRegion q r r.rung

/-- A packet fails the SEQ check or one of checks 1 to 5 of R308: its reply names the queue's own partition where PART
fails check 2 (R311). At the end of an open region it closes the region, once the earlier packets of the region have completed (R194). -/
def State.failPkt (s : State) (q : QId) (p : Pkt) (st : Byte) (d : Word) : State :=
  let own (p : Pkt) : Pkt :=
    if 16 < p.part ∨ !s.exists_ p.part ∨ (q.part.val ≠ 0 ∧ p.part ≠ q.part.val) then
      { p with h0 := putField p.h0 40 8 q.part.val, h1 := 0 }
    else p
  match (s.queue q).region with
  | none => s.finishPkt q (own p) st d (s.validSigs q p)
  | some g =>
    if p.pos ≠ g.startPos + g.len then s.finishPkt q (own p) st d (s.validSigs q p)
    else if s.quietFrom q g.startPos p.pos then s.commit q (own p) g (some (st, d))
    else s

/-- Run checks 1 to 5 on the packet whose turn has come, and enter its wait pairs (R308, R258). -/
def State.pump (s : State) (q : QId) : State :=
  match (s.queue q).pkts.find? (fun p => decide (p.st = .waiting) && !p.asked) with
  | none => s
  | some p =>
    if !s.mayBegin q || s.blocked q p.pos then s
    else
      match s.pktCheck q p with
      | some (st, d) => s.failPkt q p st d
      | none =>
        let waits := [0, 1, 2, 3].map (fun i => (i, field p.h1 (4 * i) 4))
        let sat : BitVec 4 := waits.foldl (fun m e => if e.2 < 8 then m ||| ones e.1 1 else m) 0
        let s : State := { s with order := s.order + 1 }
        let s := s.setPkt q { p with asked := true, sat := sat, since := s.order }
        waits.foldl (fun s e =>
          if e.2 < 8 then s
          else
            let w := p.word (e.2 % 8)
            s.addWait (field w 44 1)
              { who := .pkt q p.pos e.1, obj := field w 32 12, cond := field w 45 3, val := w64 (field w 0 32) }) s

/-- Complete a packet and look at the next. -/
def State.finish (s : State) (q : QId) (p : Pkt) (status : Byte) (detail : Word) : State :=
  (s.finishPkt q p status detail p.sigs).pump q

/-- Complete a packet without its signals. -/
def State.finishMute (s : State) (q : QId) (p : Pkt) (status : Byte) (detail : Word) : State :=
  (s.finishPkt q p status detail []).pump q

/-- Opcodes refused inside a region (R194). -/
def regionRefused (op : Nat) : Bool :=
  [0x10, 0x11, 0x12, 0x16, 0x20, 0x21, 0x22, 0x23, 0x31, 0x38, 0x41, 0x49, 0x4A, 0x48].contains op

/-- Opcodes that only packets in partition 0 queues may carry (R29). -/
def opPart0 (op : Nat) : Bool := [0x20, 0x21, 0x31, 0x38, 0x41, 0x49, 0x4A].contains op

/-- Is a packet the next of its queue, with its checks passed and its wait pairs satisfied, and may its queue begin one (R309,
R312, R313)? -/
def State.lined (s : State) (q : QId) (p : Pkt) : Bool :=
  decide (p.st = .waiting) && p.asked && decide (p.sat = 0xF) && s.mayBegin q && !s.blocked q p.pos

/-- The device core numbers that a LAUNCH names, ascending. -/
def Pkt.cores (p : Pkt) : List Nat :=
  (List.range 128).filter (fun c => bitAt (p.word 1) (c / 8) && bitAt (p.word 1) (16 + c % 8))

/-- The priority of a queue's LAUNCHes (R298, R299). -/
def State.pri (s : State) (q : QId) : Nat :=
  ((List.range 8).findSome? (fun i =>
    let w := tget 0 s.own.stages (8 * q.part.val + i)
    if bitAt w 15 && decide (field w 0 6 = q.q.val) then some (field w 12 3) else none)).getD 0

/-- Is every core of a LAUNCH free of tasks (R299), with no test of it due (R404, R407)? -/
def State.coresFree (s : State) (p : Pkt) : Bool := p.cores.all (fun c => (s.core c).task.isNone && !s.katBusy c)

/-- Were the waits of packet `a` satisfied before those of `b`; among those of one moment the lower queue number goes first? -/
def olderWait (x : QId) (a : Pkt) (y : QId) (b : Pkt) : Bool :=
  decide (a.since < b.since) || (decide (a.since = b.since) && decide (x.q.val < y.q.val))

/-- The LAUNCH that R299 starts before this one, if there is one: same acting partition, a core in common, then priority, the
moment and the queue number. -/
def State.launchFirst (s : State) (q : QId) (p : Pkt) : Bool :=
  (s.queues.filter (fun x => !decide (x = q))).any (fun x => (s.queue x).pkts.any (fun k =>
    decide (k.op = 0x01) && s.lined x k && decide (k.part = p.part) && k.cores.any (p.cores.contains ·) &&
      (decide (s.pri q < s.pri x) || (decide (s.pri q = s.pri x) && olderWait x k q p))))

/-- May a LAUNCH begin as far as its cores go (R299, R309)? -/
def State.launchTurn (s : State) (q : QId) (p : Pkt) : Bool := s.coresFree p && !s.launchFirst q p

/-- The opcodes that run on the Tannery. -/
def tanneryOps : List Nat := [0x14, 0x15]

/-- May an OFFLOAD or a PREFETCH begin: no other of its die has had its waits satisfied earlier (R281)? -/
def State.tanneryTurn (s : State) (q : QId) (p : Pkt) : Bool :=
  !(s.queues.any (fun x => decide (x ≠ q) && decide (x.die = q.die) && (s.queue x).pkts.any (fun k =>
    tanneryOps.contains k.op && s.lined x k && olderWait x k q p)))

/-- May a STEP_END that names the open step begin: the earlier packets have completed, their signals have been applied, and
every poisoning SIGNAL is acknowledged (R289)? -/
def State.stepTurn (s : State) (q : QId) (p : Pkt) : Bool :=
  let u := s.queue q
  !u.stepOpen || decide (p.word 0 ≠ u.stepCtr) || u.region.isSome || (s.quietBefore q p.pos && u.psnTags.isEmpty)

/-- May a packet begin now as far as its queue, its opcode and its region go (R194, R309)? -/
def State.mayStart (s : State) (q : QId) (p : Pkt) : Bool :=
  s.lined q p &&
    (if p.op = 0x01 then s.launchTurn q p
     else if tanneryOps.contains p.op then s.tanneryTurn q p
     else if p.op = 0x11 then s.stepTurn q p
     else true) &&
    (match (s.queue q).region with
     | some g => p.op = 0x13 || decide (p.pos ≠ g.startPos + g.len) || s.quietFrom q g.startPos p.pos
     | none => true)

/-- The other queues of a queue's die whose next packet can begin (R314). -/
def State.rivals (s : State) (q : QId) : List QId :=
  s.queues.filter (fun x => decide (x ≠ q) && decide (x.die = q.die) && (s.queue x).pkts.any (fun k => s.mayStart x k))

/-- Does the rotation let a queue begin a packet: it has passed none whose next packet can begin (R314)? -/
def State.inRotation (s : State) (q : QId) : Bool := (s.rivals q).all (fun x => !(s.queue x).passed.contains (qKey q))

/-- A queue begins a packet: it has passed the others whose next packet could begin, and none has passed it (R314). -/
def State.served (s : State) (q : QId) : State :=
  let s := (s.rivals q).foldl (fun s x => s.setQueue x { s.queue x with passed := (s.queue x).passed ++ [qKey q] }) s
  s.setQueue q { s.queue q with passed := [] }

/-- Let a packet begin when its turn has come (R309, R314), after the rules that hold for every opcode: the region's shape and
refused opcodes (R194), the update flag (R205), R29. Gives the packet when it is begun, and whether it begins now; none
when it does not begin, or completed by one of those rules. -/
def State.take (s : State) (r : PktRef) (op : Nat) : State × Option (Pkt × Bool) :=
  let q := r.queue
  let s := s.pump q
  let u := s.queue q
  match u.pkts.find? (fun p => decide (p.pos = r.pos.toNat) && decide (p.op = op)) with
  | none => (s, none)
  | some p =>
    if p.st = .begun then (s, some (p, false))
    else if !s.mayStart q p || !s.inRotation q then (s, none)
    else
      let s := s.served q
      let go : State × Option (Pkt × Bool) :=
        if bitAt p.h0 8 && u.poisoned && decide (op ≠ 0x13) && decide (op ≠ 0x11) then (s.finish q p stPOISONED (w64 u.undeliv), none)
        else if opPart0 op && decide (p.part ≠ 0) then (s.finish q p stNO_PERM locHdr, none)
        else
          let p := { p with st := .begun, began := s.now }
          (s.setPkt q p, some (p, true))
      match u.region with
      | none => go
      | some g =>
        if p.pos ≤ g.startPos then go
        else if op ≠ 0x13 ∧ p.pos = g.startPos + g.len then ((s.commit q p g (some (stBAD_LENGTH, locHdr))).pump q, none)
        else if regionRefused op then (s.finish q p stBAD_PARAM locHdr, none)
        else go

/-- The LAUNCH of a task completes when every core has ended, with the first status of R318 that applies. -/
def State.taskDone (s : State) (q : QId) (pos : Nat) : State :=
  match s.tasks.find? (fun t => decide (t.q = q) && decide (t.pos = pos)) with
  | none => s
  | some t =>
    if t.ended.length < t.cores.length then s
    else
      let s := { s with tasks := s.tasks.filter (fun x => !(decide (x.q = q) && decide (x.pos = pos))) }
      let with_ (p : Byte → Bool) : List Nat := (t.ended.filter (fun e => p e.2)).map (·.1)
      let wedged := with_ (fun b => decide (b = stWEDGED))
      let faults := with_ (fun b => decide (b ≠ stOK))
      match (s.queue q).pkts.find? (fun p => decide (p.pos = pos)) with
      | none => s
      | some p =>
        if wedged ≠ [] then s.finish q p stWEDGED (w64 (wedged.foldl min 127))
        else if faults ≠ [] then s.finish q p stTASK (w64 (faults.foldl min 127))
        else s.finish q p stOK 0

/-- The task ends on a core with a status (R256, R199): its write-combining buffer drains, its CFLAGS mark the region. A
wedged or halted core stays so. -/
def State.endCore (s : State) (c : Nat) (status : Byte) : State :=
  let s := s.drainWcb c
  let s := s.dropWaits (fun w => decide (w = .core c))
  let k := s.core c
  let fl := k.cr.cflags
  let s := if fl &&& fOVF ≠ 0 then s.harnessReport c 4 .ovf false else s
  let s := if fl &&& fNF ≠ 0 then s.harnessReport c 4 .nf false else s
  let run := match k.run with | .wedged t => .wedged t | .halted => .halted | _ => .idle
  let s := s.setCore c { k with run := run, task := none, mem := { k.mem with miss := [], loads := [], prog := 0 } }
  let s := { s with answers := s.answers.filter (fun a => !decide (a.who = .core c)) }
  match k.task with
  | none => s
  | some t =>
    let add (x : Task) : Task :=
      if x.q = t.queue ∧ x.pos = t.pos then { x with ended := x.ended ++ [(c, status)] } else x
    ({ s with tasks := s.tasks.map add }).taskDone t.queue t.pos

/-- May a task end on a core: its tile queue is empty and every access and signal that it issued has been performed (R256)? -/
def State.mayEnd (s : State) (c : Nat) : Bool := (s.core c).tile.queue.isEmpty && !s.outstanding (.core c)

/-- The Harness stops a core of a task whose other core wedged (R92): the core issues no more, and its task ends on it with
TASK_FAULT once R256 allows it (R318). A wedged or halted core stays so. -/
def State.stopCore (s : State) (c : Nat) : State :=
  let s := s.dropWaits (fun w => decide (w = .core c))
  let k := s.core c
  match k.run with
  | .wedged _ | .halted | .ending _ => s
  | _ => s.setCore c { k with run := .ending stTASK, mem := { k.mem with miss := [], loads := [] } }

/-- The status with which the task of a core that has stopped ends: of HALT, CORE_WEDGED of a core that wedged, TASK_FAULT of
one that HALT at F had stopped when the Harness stopped the task's cores; none while the core still runs it. -/
def State.endStatus (s : State) (c : Nat) : Option Byte :=
  match (s.core c).run, s.taskOf c with
  | .ending st, _ => some st
  | .wedged _, some _ => some stWEDGED
  | .halted, some t => if t.stopped then some stTASK else none
  | _, _ => none

/-- The cause of the trap at the bottom of one: a double fault's is the trap that met a handler (R91). -/
def Trap.inner (t : Trap) : Byte := if t.code = cDOUBLE_FAULT then t.detail.setWidth 8 else t.code

/-- Did an injection cause the trap that wedged a core (R403)? -/
def Core.wedgeInj (k : Core) : Bool :=
  match k.run with
  | .wedged t => k.injSync || k.injAsync.contains t.inner
  | _ => false

/-- A core has wedged (R92): the record, and the task's other cores are stopped; TASK_END ends the task on each (R256). -/
def State.wedgedNow (s : State) (c : Nat) : State :=
  let k := s.core c
  let code := match k.run with | .wedged t => t.code.toNat | _ => 0
  let s := s.log 0x89 (s.owner (c / 8)) (c / 64) k.wedgeInj [w64 c, w64 (code + 2 * 256), k.pc]
  match s.taskOf c with
  | none => s
  | some t =>
    let s : State := { s with tasks := s.tasks.map (fun x => if x.q = t.q ∧ x.pos = t.pos then { x with stopped := true } else x) }
    (t.cores.filter (fun x => !decide (x = c) && !(t.ended.map (·.1)).contains x)).foldl (fun s x => s.stopCore x) s

/-- A core takes a raised trap, or wedges. What injections had made pending is no longer so (R403). -/
def State.taken (s : State) (c : Nat) (t : Taken) : State :=
  match t with
  | .entered k =>
    let code : Byte := (tregs k k.level).cause.setWidth 8
    s.setCore c { k with run := .running, injSync := false, injAsync := k.injAsync.filter (fun x => !decide (x = code)) }
  | .wedged k => (s.setCore c k).wedgedNow c

/-- A core raises a synchronous trap (R89). -/
def State.trap (s : State) (c : Nat) (t : Trap) : State := s.taken c (raise (s.core c) t)

/-- The value of a load of `size` (Table 4.5). -/
def loadVal (size : LoadSize) (b : List Byte) : Word :=
  let n := ofBytes b
  match size with
  | .lb => (BitVec.ofNat 8 n).signExtend 64
  | .lh => (BitVec.ofNat 16 n).signExtend 64
  | .lw => (BitVec.ofNat 32 n).signExtend 64
  | _ => BitVec.ofNat 64 n

/-- Bytes of a load. -/
def loadBytes : LoadSize → Nat
  | .lb | .lbu => 1
  | .lh | .lhu => 2
  | .lw | .lwu => 4
  | .ld => 8

/-- A load of poisoned data (Table 19.3): POISON_CONSUMED, and ACCESS with DETAIL 6. -/
def State.loadPoison (s : State) (c : Nat) (va : Word) (a : Nat) : State × Trap :=
  (s.consume 0 c (s.owner (c / 8)) (c / 64) a, ⟨cACCESS, va, 6⟩)

/-- The loads in flight write their destinations in program order as far as their data has come in (R83); a poisoned or
refused one traps as though the later ones had not issued. Tells whether one trapped; `fuel` bounds the loads. -/
def State.retireLoads (c : Nat) : Nat → State → State × Bool
  | 0, s => (s, false)
  | fuel + 1, s =>
    let k := s.core c
    match k.mem.loads with
    | { got := some (.bytes b), rd, size, .. } :: rest =>
      State.retireLoads c fuel (s.setCore c { xset k rd (loadVal size b) with mem := { k.mem with loads := rest } })
    | { got := some .poison, pa, va, pc, lp, .. } :: _ =>
      let (s, t) := s.loadPoison c va pa
      let k := s.core c
      ((s.setCore c { k with pc := pc, lp := lp, mem := { k.mem with loads := [] } }).trap c t, true)
    | { got := some .denied, va, pc, lp, .. } :: _ =>
      ((s.setCore c { k with pc := pc, lp := lp, mem := { k.mem with loads := [] } }).trap c ⟨cACCESS, va, 0⟩, true)
    | _ => (s, false)

/-- What the loads in flight take when a sector of `line` has arrived: those that read it have their data; those of a line
that was refused have that. -/
def Waiter.took (line : Nat) (r : Option (Nat × Line × BitVec 4)) (w : Waiter) : Waiter :=
  if w.got.isSome || decide (w.pa / 128 ≠ line) then w
  else
    match r with
    | none => { w with got := some .denied }
    | some (i, d, p) =>
      if w.pa / 32 % 4 ≠ i then w
      else { w with got := some (if bitAt p i then .poison else .bytes (lineBytes d (w.pa % 128) (loadBytes w.size))) }

/-- The next sector of a miss register arrives (R214), and the loads in flight go on. -/
def State.fillSector (s : State) (c : Nat) (m : Miss) : State × Bool :=
  let (s, r) := s.sectorIn c m
  let k := s.core c
  let s := s.setCore c { k with mem := { k.mem with loads := k.mem.loads.map (Waiter.took m.line r) } }
  State.retireLoads c (s.core c).mem.loads.length s

/-- The oldest miss register of a core takes what it still waits for; `fuel` bounds the sectors. -/
def State.fillFirst (c : Nat) : Nat → State → State × Bool
  | 0, s => (s, false)
  | fuel + 1, s =>
    match (s.core c).mem.miss with
    | [] => (s, false)
    | m :: _ =>
      let (s, a) := s.fillSector c m
      let (s, b) := State.fillFirst c fuel s
      (s, a || b)

/-- Every fill of a core completes, and every load in flight writes its destination (R83, R215). Tells whether one
trapped. -/
def State.settle (s : State) (c : Nat) : State × Bool :=
  match State.fillFirst c (4 * (s.core c).mem.miss.length) s with
  | (s, true) => (s, true)
  | (s, false) => State.retireLoads c (s.core c).mem.loads.length s

end Sys2Proof.Machine
end

