-- ==== Sys2Proof/Machine/LogOps.lean ====
section
/-! DEFINITION. Event-log records as bytes, and the spill area of the flash (R395 to R397). -/

namespace Sys2Proof.Machine

/-- Word 1 of a record with a CRC (Table 19.1). -/
def LogRec.head (r : LogRec) (crc : Nat) : Word :=
  place r.type.toNat 56 8 ||| place (b2n (severe r.type)) 55 1 ||| place (b2n r.inj) 54 1 ||| place r.part 49 5 |||
    place r.src 46 3 ||| place crc 0 32

/-- The 64 bytes of a record with a CRC. -/
def LogRec.bytesWith (r : LogRec) (crc : Nat) : List Byte :=
  ([w64 r.seqNo, r.head crc, w64 r.time] ++ (List.range 5).map (fun i => r.payload.getD i 0)).flatMap (fun w => toBytes 8 w.toNat)

/-- The CRC-32 of a record (Table 19.1). -/
def LogRec.sum (r : LogRec) : BitVec 32 := crc32 (r.bytesWith 0)

/-- The 64 bytes of a record (Table 19.1). -/
def LogRec.bytes (r : LogRec) : List Byte := r.bytesWith r.sum.toNat

/-- A record as the flash holds it once it is programmed. -/
def LogRec.programmed (r : LogRec) : LogRec := { r with crc := r.sum }

/-- Records that the spill area holds (R397). -/
def spillCap : Nat := 1043456

/-- Program one record into the circular spill area: a record's place is its SEQ, and entering a sector erases the 64 oldest
(R397). -/
def spillAdd (l : List LogRec) (r : LogRec) : List LogRec :=
  let l := if r.seqNo % 64 = 0 then l.drop (l.length - (spillCap - 64)) else l
  l ++ [r]

/-- May a flush start (R396)? -/
def State.flushDue (s : State) : Bool :=
  decide (s.svc.flushAt + 25000000 ≤ s.now) || decide (255 ≤ s.svc.pend.length) || s.svc.pend.any (fun r => severe r.type)

end Sys2Proof.Machine
end

