-- ==== Sys2Proof/Machine/ResetOps.lean ====
section
/-! DEFINITION. Reset and loss of power (R366, R377, R412, R419, R420), and the device-reset state of a core (R369, R407). -/

namespace Sys2Proof.Machine

/-- Bytes that nothing constrains (log 5). -/
def State.freeBytes (s : State) (n : Nat) : State × List Byte :=
  ({ s with freeCtr := s.freeCtr + n }, (List.range n).map (fun i => (Config.freeValue (s.freeCtr + i)).setWidth 8))

/-- A flush that a reset or a loss of power cuts off (R397, R420): some of the pending records are programmed, and the next one
in part, so that its CRC may fail. How far the flush had come is free (log 5). -/
def State.cutLog (s : State) : State :=
  if !s.flushDue ∨ s.svc.pend.isEmpty then s
  else
    let (n, s) := s.free
    let (c, s) := s.free
    let k := n.toNat % (s.svc.pend.length + 1)
    let whole := (s.svc.pend.take k).map LogRec.programmed
    let part := ((s.svc.pend.drop k).take 1).map (fun r => { r with crc := c.setWidth 32 })
    { s with svc := { s.svc with spill := (whole ++ part).foldl spillAdd s.svc.spill } }

/-- A flash program that a reset or a loss of power cuts off (R383, R393, R420): what stands where bytes were being programmed
is free (log 5), with the GEN of the slot still erased and the VALID marker of the calibration set still cleared. -/
def State.cutFlash (s : State) : State :=
  let s := match s.sec.fwProg with
    | none => s
    | some n =>
      let (s, b) := s.freeBytes n
      let t := flashOf (b.take 8 ++ List.replicate 8 0xFF ++ b.drop 16)
      { s with flash := { s.flash with slots := tset [] s.flash.slots (1 - s.sec.slot) t } }
  match s.sec.calProg with
  | none => s
  | some (off, n) =>
    let (s, b) := s.freeBytes n
    { s with flash := { s.flash with cal := flashPut s.flash.cal off b } }

/-- The program of the next retirement entry that a reset or a loss of power cuts off (R408, R412, R420): it had not begun, it
stands without its commit bit, or it is committed. How far it had come is free (log 5). -/
def State.cutRetire (s : State) : State :=
  match s.svc.uncom with
  | [] => s
  | e :: _ =>
    let (v, s) := s.free
    if !bitAt v 0 then s
    else if bitAt v 1 then { s with flash := s.flash.commit e }
    else if s.flash.live.any (names (field e 0 30)) then s
    else { s with flash := { s.flash with retire := s.flash.retire ++ [e ||| 0x80000000#32] } }

/-- What the steward keeps in flash and over a reset: the programmed records whose CRC holds (R397), the next SEQ (R395), and
the injections that fire at the next boot (R401). -/
def Service.kept (v : Service) : Service :=
  let a := (tget {} v.inj 2).armed
  let l := v.spill.filter (fun r => decide (r.crc = r.sum))
  { spill := l, seqNo := (l.map (fun r => r.seqNo + 1)).foldl max 0,
    bootCal := v.bootCal || decide (a.map (·.point) = some 0x14),
    bootSlot := v.bootSlot ||| (match a with
      | some a => if a.point = 0x15 then ones (a.inst % 2) 1 else 0
      | none => 0) }

/-- Every domain but STW.AON is reset: what stays is the flash, the straps and pins, the always-on time, and what STW.AON
holds (R420), and what the sensors read; a flash program in progress is cut off. The messages sent, the commands that wait and the model's own counter of free values stand outside the
device. -/
def State.cold (s : State) : State :=
  let s := s.cutLog.cutFlash.cutRetire
  { State.reset with
    flash := s.flash, pins := s.pins, now := s.now, svc := { s.svc.kept with evalAt := s.now }, out := s.out, freeCtr := s.freeCtr, pending := s.pending,
    pwr := { State.reset.pwr with temps := s.pwr.temps },
    pmem := { trip := s.pmem.trip, tripInj := s.pmem.tripInj, badIn := s.pmem.badIn, outIn := s.pmem.outIn,
              extreme := s.pmem.extreme, inrush := s.pmem.inrush, capAt := s.now } }

/-- The domains of every die and of the steward's firmware switched off. -/
def offDoms : Tbl DomSt := (List.range 30).filterMap (fun n => if n = 24 then none else some (n, DomSt.off))

/-- Power is removed from every domain but STW.AON (R366), which goes on to drive ALERT#: the health state, the readings and
TCRIT stand as they were until PORST# (DESIGN CHOICE, log 54). -/
def State.powerLoss (s : State) : State :=
  let t := s.cold
  { t with pwr := { t.pwr with dom := offDoms, tcrit := s.pwr.tcrit },
           svc := { t.svc with health := s.svc.health }, pmem := { t.pmem with lost := true } }

/-- The state of the host ports that HMODE straps (R333). -/
def hostStraps (m : BitVec 4) : Tbl HPort :=
  (List.range 4).filterMap (fun n => if bitAt m n then some (n, { root := true }) else none)

/-- The rising edge of PORST# (R416, R420): the device starts again with the straps it samples. The steward alone is on, until
boot powers the other dies (R385); `upAt` keeps the moment. -/
def State.porstRise (s : State) (fcfg : BitVec 30) (hmode : BitVec 4) (dbgen : Bool) : State :=
  let s := s.cold
  { s with pins := { s.pins with fcfg := fcfg, hmode := hmode, dbgen := dbgen, low := false, trip := false },
           hosts := hostStraps hmode,
           pwr := { s.pwr with dom := offDoms.filter (fun e => !decide (e.1 = 25)) },
           pmem := { s.pmem with held := true, upAt := tset 0 [] 25 s.now } }

/-- A core in its device-reset state: ENGMASK stays (R407), CYCLE restarts. -/
def State.freshCore (s : State) (c : Nat) : Core :=
  { Core.reset with cr := { Core.reset.cr with engmask := (s.core c).cr.engmask }, cycBase := (s.die (c / 64)).cyc }

end Sys2Proof.Machine
end

