-- ==== Sys2Proof/Machine/PacketOps.lean ====
section
/-! DEFINITION. What the opcodes share: which packet a row names, the checks of addresses (R26, R307, R425), the bytes that
the Harness and the steward read and write (R316, R337, R400). -/

namespace Sys2Proof.Machine

/-- Whether a range of local physical addresses lies in LPDDR6 or the host windows, in granules of the partition: the
status of a failure (R26, R425). `dram` allows LPDDR6, `host` the host windows; an empty range passes. -/
def State.rangeBad (s : State) (part : Nat) (a : Word) (len : Nat) (dram host : Bool) : Option Byte :=
  let b := a.toNat
  let e := b + len - 1
  let held (own : Nat → Nat) (lo hi : Nat) : Bool := (List.range (hi - lo + 1)).all (fun i => decide (own (lo + i) = part))
  if len = 0 then none
  else if dram && decide (e < 0x30000000000) then
    if held (fun g => tget 0 s.own.gran g) (b / 2 ^ 30) (e / 2 ^ 30) then none else some stNO_PERM
  else if host && decide (0x100000000000 ≤ b) && decide (e < 0x200000000000) then
    if held (fun g => tget 0 s.own.hgran g) ((b - 0x100000000000) / 2 ^ 30) ((e - 0x100000000000) / 2 ^ 30) then none
    else some stNO_PERM
  else some stBAD_PARAM

/-- The packet that a row names, when it stands in its queue and carries the opcode. -/
def State.pktAt (s : State) (r : PktRef) (op : Nat) : Option Pkt :=
  (s.queue r.queue).pkts.find? (fun p => decide (p.pos = r.pos.toNat) && decide (p.op = op))

/-- `State.take` for one operation of an opcode: `sub` gives the operation that the packet names; a packet with another
operation is no packet of this row. An operation that the opcode does not assign completes with BAD_PARAM at word `i`
(R223, R361). -/
def State.takeSub (s : State) (r : PktRef) (op : Nat) (sub : Pkt → Nat) (known : Nat → Bool) (i n : Nat) :
    State × Option (Pkt × Bool) :=
  match s.pktAt r op with
  | none => (s.pump r.queue, none)
  | some p =>
    if known (sub p) && decide (sub p ≠ n) then (s, none)
    else
      match s.take r op with
      | (s, some (p, fresh)) =>
        if known (sub p) then (s, some (p, fresh)) else (s.finish r.queue p stBAD_PARAM (locWord i), none)
      | x => x

/-- How a read or write by a packet stands. -/
inductive PAns where
  | bytes (b : List Byte)
  | poison (addr : Nat)
  | fail (addr : Nat)
  | wait
  deriving DecidableEq, Repr

/-- The pieces of a byte range that no multiple of `g` cuts further; `fuel` bounds them. -/
def cutPieces (g : Nat) : Nat → Nat → Nat → List (Nat × Nat)
  | 0, _, _ => []
  | fuel + 1, a, n => if n = 0 then [] else
    let k := min n (g - a % g)
    (a, k) :: cutPieces g fuel (a + k) (n - k)

/-- The parts of a host-window range, in one port and in 4 KiB each: (port, offset, bytes). -/
def portPieces (a n : Nat) : List (Nat × Nat × Nat) :=
  (cutPieces 4096 (n / 4096 + 2) (a - 0x100000000000) n).map (fun e => (e.1 / 0x40000000000, e.1 % 0x40000000000, e.2))

/-- Read host-window bytes for an agent (R337, R338): every part is asked for before any is waited for; the lowest part
that failed counts. -/
def State.winRead (s : State) (who : Agent) (part a n : Nat) : State × PAns :=
  let (s, l) := (portPieces a n).foldl (fun (r : State × List PAns) e =>
    let pa := winPA e.1 e.2.1
    match r.1.hostRead who part e.1 e.2.1 e.2.2 with
    | (s, .bytes c) => (s, r.2 ++ [.bytes c])
    | (s, .fail (.poisoned off)) => (s, r.2 ++ [.poison (pa + off)])
    | (s, .fail _) => (s, r.2 ++ [.fail pa])
    | (s, .wait) => (s, r.2 ++ [.wait])) (s, [])
  (s, if l.any (fun x => decide (x = .wait)) then .wait
    else match l.find? (fun x => match x with | .bytes _ => false | _ => true) with
      | some x => x
      | none => .bytes (l.flatMap (fun x => match x with | .bytes b => b | _ => [])))

/-- Write host-window bytes for an agent: the address of the first failure. `ep` marks a poisoned source. -/
def State.winWrite (s : State) (who : Agent) (part a : Nat) (b : List Byte) (ep : Bool) : State × Option Nat :=
  ((portPieces a b.length).foldl (fun (r : State × Option Nat × List Byte) e =>
    match r.2.1 with
    | none =>
      let (s, ok) := r.1.hostWrite who part e.1 e.2.1 (r.2.2.take e.2.2) ep
      (s, if ok then none else some (winPA e.1 e.2.1), r.2.2.drop e.2.2)
    | some f => (r.1, some f, [])) (s, none, b) |> fun x => (x.1, x.2.1))

/-- The opcodes that the steward carries out (R315, Table 14.5). -/
def stewardOps : List Nat := [0x02, 0x20, 0x21, 0x22, 0x23, 0x30, 0x31, 0x38, 0x39, 0x3A, 0x40, 0x41, 0x48, 0x49, 0x4A]

/-- The unit that carries out a packet, as SRC names it (Table 19.1): its queue's die, or the steward. -/
def State.runsOn (s : State) (q : QId) (pos : Nat) : Nat :=
  if (s.queue q).pkts.any (fun p => decide (p.pos = pos) && stewardOps.contains p.op) then 2 else q.die.val

/-- A packet's read of a host window; an EP completion is poison that the packet consumes (R338, R400). -/
def State.pktWin (s : State) (q : QId) (pos part kind a n : Nat) : State × PAns :=
  match s.winRead (.pkt q pos) part a n with
  | (s, .poison x) => (s.consume kind (qKey q) part (s.runsOn q pos) x, .poison x)
  | r => r

/-- Read local bytes for a packet, LPDDR6 through the west half of the die's control cache where the Harness reads a block
(Table 10.6), or a host window. -/
def State.blkRead (s : State) (q : QId) (pos part a n : Nat) : State × PAns :=
  if n = 0 then (s, .bytes [])
  else if a < 0x30000000000 then
    match s.ccBytes q.die.val 0 a n with
    | (s, b, none) => (s, .bytes b)
    | (s, _, some x) => (s.consume 7 (qKey q) part (s.runsOn q pos) x, .poison x)
  else s.pktWin q pos part 7 a n

/-- Read local bytes for a packet at L2, or a host window. -/
def State.memRd (s : State) (q : QId) (pos part a n : Nat) : State × PAns :=
  if n = 0 then (s, .bytes [])
  else if a < 0x30000000000 then
    match s.readMem a n with
    | (s, b, none) => (s, .bytes b)
    | (s, _, some x) => (s.consume 6 (qKey q) part (s.runsOn q pos) x, .poison x)
  else s.pktWin q pos part 6 a n

/-- Write local bytes for a packet; the address of the first failure. -/
def State.memWr (s : State) (q : QId) (pos part a : Nat) (b : List Byte) : State × Option Nat :=
  if b.isEmpty then (s, none)
  else if a < 0x30000000000 then (s.writeMem a b false, none)
  else s.winWrite (.pkt q pos) part a b false

/-- A packet writes its result to `a` and completes: MEM_FAULT where the write fails. -/
def State.putResult (s : State) (q : QId) (p : Pkt) (a : Nat) (b : List Byte) (detail : Word) : State :=
  match s.memWr q p.pos p.part a b with
  | (s, none) => s.finish q p stOK detail
  | (s, some x) => s.finish q p stMEM (w64 x)

/-- Complete with a failed check at word `i`. -/
def State.badWord (s : State) (q : QId) (p : Pkt) (st : Byte) (i : Nat) : State := s.finish q p st (locWord i)

/-- The packets of some opcodes that have begun and are not complete, of every queue. -/
def State.opPkts (s : State) (ops : List Nat) : List (QId × Pkt) :=
  s.queues.flatMap (fun q => ((s.queue q).pkts.filter (fun p => decide (p.st = .begun) && ops.contains p.op)).map (fun p => (q, p)))

/-- Run a packet in its turn among those of some opcodes, which run one at a time in the order in which they began (R27, R383,
R393). Its turn, above 2^32, is the first word of its work. -/
def State.inTurn (s : State) (ops : List Nat) (q : QId) (p : Pkt) (fresh : Bool) (f : State → Pkt → State) : State :=
  let last := ((s.opPkts ops).map (fun e => (e.2.work.headD 0).toNat)).foldl max (2 ^ 32)
  let p := if fresh then { p with work := [w64 (last + 1)] } else p
  let s := s.setPkt q p
  let mine := (p.work.headD 0).toNat
  if (s.opPkts ops).any (fun e => decide ((e.2.work.headD 0).toNat < mine)) then s else f s p

/-- Run a row of an opcode on its packet. -/
def State.pktRow (s : State) (r : PktRef) (op : Nat) (f : State → QId → Pkt → Bool → State) : Out :=
  match s.take r op with
  | (s, some (p, fresh)) => fin (f s r.queue p fresh)
  | (s, none) => fin s

end Sys2Proof.Machine
end

