-- ==== Sys2Proof/Machine/GroupOps.lean ====
section
/-! DEFINITION. Range operations, locked ways and reduction groups of L2 (R222 to R234). -/

namespace Sys2Proof.Machine

/-- Wake the L2 halves in which some line of a range lies (R370): 128 lines in a row lie in every half of their die. -/
def State.wakeRange (s : State) (base len : Nat) : State :=
  let n := len / 128
  let l := (List.range (min n 128)).map (fun i => base + 128 * i) ++
    (List.range (min n 128)).map (fun i => base + 128 * (n - 1 - i))
  [0, 1].foldl (fun s d => [0, 1].foldl (fun s h =>
    match l.find? (fun pa => decide (homeDie pa = d) && decide (paSlice pa / 32 = h)) with
    | some pa => s.wakeL2 pa
    | none => s) s) s

/-- An operation reaches the lines of a range: their halves are awake, and the fills of the range complete, those of requests
that a slice has queued for it too (R224, R234, R370). -/
def State.settleRange (s : State) (base len : Nat) : State :=
  let mine (n : Nat) : Bool := decide (base ≤ 128 * n) && decide (128 * n < base + len)
  [0, 1].foldl (fun s d => (s.die d).slices.foldl (fun s e =>
    State.settleSlice d e.1 mine (fun _ => false) fillFuel s) s) (s.wakeRange base len)

/-- The lines of a range that L2 holds, with their ways. -/
def State.linesIn (s : State) (base len : Nat) : List (Nat × Nat) :=
  [0, 1].flatMap (fun d => (s.die d).slices.flatMap (fun e => e.2.ways.filterMap (fun w =>
    match w.2 with
    | some l => if base ≤ 128 * l.line ∧ 128 * l.line < base + len then some (l.line, w.1 % 16) else none
    | none => none)))

/-- Change every present line of a range; `f` sees its way's use and gives the line that stays. -/
def State.eachLine (s : State) (base len : Nat) (f : State → Nat → Nat → L2Line → State × Option L2Line) : State :=
  let s := s.settleRange base len
  (s.linesIn base len).foldl (fun s e =>
    let pa := 128 * e.1
    match s.l2Find pa with
    | some (w, l) =>
      let (s, l) := f s w (s.wayUse (homeDie pa) w).use l
      s.l2Put pa w l
    | none => s) s

/-- The empty entry of a locked way. -/
def emptyLine (l : L2Line) : L2Line := { line := l.line }

/-- FLUSH: dirty sectors are written back; lines become clean (Table 10.3). -/
def State.flushRange (s : State) (base len : Nat) : State :=
  s.eachLine base len (fun s _ _ l => let (s, l) := s.writeBack l; (s, some l))

/-- Invalidate the control-cache copies of a range (R236). -/
def State.snoopRange (s : State) (base len : Nat) : State :=
  [0, 1].foldl (fun s d => (s.die d).cc.foldl (fun s h => h.2.sets.foldl (fun s e => e.2.foldl (fun s l =>
    if base ≤ 128 * l.line ∧ 128 * l.line < base + len then s.snoop (128 * l.line) else s) s) s) s) s

/-- INVAL: normal lines are discarded, locked lines become empty, control-cache copies go (Table 10.3, R282). -/
def State.invalRange (s : State) (base len : Nat) : State :=
  (s.eachLine base len (fun s _ use l =>
    let s := s.untrack l pfNever
    (s, if use = 1 then some (emptyLine l) else none))).snoopRange base len

/-- DEAD (R225). -/
def State.deadRange (s : State) (base len : Nat) : State :=
  (s.eachLine base len (fun s _ use l =>
    let s := s.untrack l pfNever
    (s, if use = 1 then some (emptyLine l) else some { l with dead := true, track := none }))).snoopRange base len

/-- Blocks of 8 KiB in [base, base + len) that fall in set `k` (R219). -/
def blocksIn (base len k : Nat) : Nat :=
  let lo := base / 8192
  let hi := (base + len) / 8192
  let upTo (n : Nat) : Nat := (n + 1535 - k) / 1536
  upTo hi - upTo lo

/-- Do two ranges overlap? -/
def overlap (a n b m : Nat) : Bool := decide (a < b + m) && decide (b < a + n)

/-- Ways of a use that a partition holds on a die. -/
def State.waysOf (s : State) (d part use : Nat) : List Nat :=
  (List.range 16).filter (fun w => let u := s.wayUse d w; decide (u.use = use) && decide (u.part = part))

/-- Move or make the locked entry of a line (R226). -/
def State.lockLine (s : State) (d part pa : Nat) : State :=
  let s := s.settleLine pa
  let (s, l) := match s.l2Find pa with
    | some (w, l) => (s.l2Put pa w none, l)
    | none => (s, { line := pa / 128 })
  let k := s.slice d (paSlice pa)
  match (s.waysOf d part 1).find? (fun w => (tget none k.ways (16 * paSet pa + w)).isNone) with
  | some w => s.l2Put pa w (some { l with dead := false })
  | none => s

/-- LOCK of a range after the checks of R223: its status (R226). -/
def State.lockRange (s : State) (part base len : Nat) : State × Byte :=
  let d := homeDie base
  let k := s.die d
  let mine := k.locks.filter (fun r => decide (r.part = part))
  let ways := (s.waysOf d part 1).length
  if k.locks.any (fun r => overlap base len r.base r.len) || k.groups.any (fun g => overlap base len g.base g.len) then
    (s, stBAD_PARAM)
  else if 64 ≤ k.locks.length then (s, stNO_RES)
  else if (List.range 1536).any (fun i =>
      decide (ways < blocksIn base len i + (mine.map (fun r => blocksIn r.base r.len i)).sum)) then (s, stNO_RES)
  else
    let s := s.settleRange base len
    let s := (List.range (len / 128)).foldl (fun s i => s.lockLine d part (base + 128 * i)) s
    let k := s.die d
    (s.setDie d { k with locks := k.locks ++ [⟨part, base, len⟩] }, stOK)

/-- UNLOCK or UNLOCK_DISCARD of a locked range (R227): dirty sectors are written back or dropped, then the lines leave L2. -/
def State.freeLock (s : State) (part base len : Nat) (discard : Bool) : State :=
  let d := homeDie base
  let s := s.eachLine base len (fun s _ _ l =>
    let s := if discard then s else (s.writeBack l).1
    (s.untrack l pfEvict, none))
  let k := s.die d
  s.setDie d { k with locks := k.locks.filter (fun r =>
    !(decide (r.part = part) && decide (r.base = base) && decide (r.len = len))) }

/-- The sum entries that open groups of a partition hold in each set of each slice: key 1536 × slice + set. -/
def State.sumUse (s : State) (d part : Nat) : Tbl Nat :=
  ((s.die d).groups.filter (fun g => decide (g.part = part))).foldl (fun t g =>
    (List.range (g.len / 128)).foldl (fun t i =>
      let pa := g.base + 128 * i
      tmod 0 t (1536 * paSlice pa + paSet pa) (· + 1)) t) []

/-- The contributions that a partition holds in a slice of a die (R231). -/
def State.heldIn (s : State) (d part slice : Nat) : Nat :=
  (((s.die d).groups.filter (fun g => decide (g.part = part))).map (fun g =>
    (g.lines.map (fun e => if paSlice (g.base + 128 * e.1) = slice then e.2.held.length else 0)).sum)).sum

/-- Do the reduction ways of a partition hold a free entry for every line of a range (R228)? Of the entries that no sum
holds, held contributions take any of their slice (R231): which sets they stand in is free, so a range fits when its sets
hold it and its slices hold it beside them (DESIGN CHOICE, log 28). -/
def State.groupFits (s : State) (d part base len : Nat) : Bool :=
  let r := (s.waysOf d part 2).length
  if r * 64 * 1536 < len / 128 then false
  else
    let t := (List.range (len / 128)).foldl (fun t i =>
      let pa := base + 128 * i
      tmod 0 t (1536 * paSlice pa + paSet pa) (· + 1)) (s.sumUse d part)
    let sums (n : Nat) : Nat := (t.map (fun e => if e.1 / 1536 = n then e.2 else 0)).sum
    t.all (fun e => decide (e.2 ≤ r)) && (List.range 64).all (fun n => decide (sums n + s.heldIn d part n ≤ 1536 * r))

/-- A free hold entry exists in the slice of a line (R231). -/
def State.holdRoom (s : State) (d part pa : Nat) : Bool :=
  let r := (s.waysOf d part 2).length * 1536
  let mine := (s.die d).groups.filter (fun g => decide (g.part = part))
  let used := (mine.map (fun g =>
    ((List.range (g.len / 128)).filter (fun i => decide (paSlice (g.base + 128 * i) = paSlice pa))).length +
      (g.lines.map (fun e => if paSlice (g.base + 128 * e.1) = paSlice pa then e.2.held.length else 0)).sum)).sum
  decide (used < r)

/-- The status word of a group (Table 10.5). -/
def Group.word (g : Group) (result : Nat) : Word :=
  place result 56 8 ||| place (min g.nstep 65535) 40 16 ||| place (min g.ndup 65535) 24 16 |||
    place (min g.nother 65535) 8 16 ||| place (b2n g.wr) 2 1 ||| place (b2n g.nf) 1 1 ||| place (b2n g.ovf) 0 1

/-- A group ends with `result` (R233): at 0 its sums become dirty lines, where its partition still holds the granule (R26); the status word is written, then DONE is signalled
(ADD 1, log 25). -/
def State.endGroup (s : State) (d : Nat) (g : Group) (result : Nat) : State :=
  let k := s.die d
  let s := s.setDie d { k with groups := k.groups.filter (fun h => !(decide (h.part = g.part) && decide (h.g = g.g))) }
  let s := if result = 0 then
      (List.range (g.len / 128)).foldl (fun s i =>
        let pa := g.base + 128 * i
        if s.granOwner (.dram d pa) = some g.part then s.l2Write pa (BitVec.allOnes 128) (g.lineAt pa).sum (g.lineAt pa).poison
        else s) s
    else s
  let b := toBytes 8 (g.word result).toNat
  let own := s.granOwner (locPA g.status) = some g.part
  let s := if !own then s
    else if g.status < 0x30000000000 then s.writeMem g.status b false
    else (s.winWrite (.sync g.part) g.part g.status b false).1
  if s.syncOwner d g.done = g.part then s.signal d g.done 1 1 else s

/-- Add one contribution to a line's sum, element by element over its masked sectors (R230, R231). -/
def addLine (sum : Line) (mask : BitVec 4) (v : Line) : Line × Bool × Bool :=
  (List.range 64).foldl (fun (a : Line × Bool × Bool) i =>
    if bitAt mask (i / 16) then
      let (x, o, n) := reduceAdd (BitVec.ofNat 16 (laneOf sum i)) (BitVec.ofNat 16 (laneOf v i))
      (putBits a.1 (16 * i) 16 x.toNat, a.2.1 || o, a.2.2 || n)
    else a) (sum, false, false)

/-- Add a contribution and, in ordered mode, each held one that is now next (R231); `fuel` bounds the ranks. -/
def RedLine.take (ordered : Bool) : Nat → RedLine → Nat → BitVec 4 → Line → RedLine × Bool × Bool
  | 0, l, _, _, _ => (l, false, false)
  | fuel + 1, l, rank, mask, v =>
    let (sum, o, n) := addLine l.sum mask v
    let l := { l with sum := sum, nxt := if ordered then rank + 1 else l.nxt }
    match (if ordered then l.held.find? (fun h => decide (h.rank = l.nxt)) else none) with
    | none => (l, o, n)
    | some h =>
      let l := { l with held := l.held.filter (fun x => !decide (x.rank = h.rank)) }
      let (l, o', n') := RedLine.take ordered fuel l h.rank h.mask h.data
      (l, o || o', n || n')

/-- The slice's answer to a contribution (R229), in the codes of Table 16.3: 0 accept, 1 RETRY, 2 refuse with a REASON. -/
inductive CAns where
  | accept
  | retry
  | refuse (reason : Nat)
  deriving DecidableEq, Repr

/-- Count a refusal: in the slice, and in the status of the group that it names, if that is open (Table 10.5). -/
def State.refuseRed (s : State) (d pa : Nat) (part g reason : Nat) : State :=
  let k := s.slice d (paSlice pa)
  let s := s.setSlice d (paSlice pa) { k with refuse := satAdd k.refuse 1 }
  match (s.die d).groups.find? (fun h => decide (h.part = part) && decide (h.g = g)) with
  | none => s
  | some h =>
    s.setGroup d (match reason with
      | 4 => { h with nstep := h.nstep + 1 }
      | 6 => { h with ndup := h.ndup + 1 }
      | _ => { h with nother := h.nother + 1 })

/-- A contribution arrives at its slice (R229 to R233). -/
def State.contribute (s : State) (c : Contribution) : State × CAns :=
  match locPA c.line.toNat with
  | .dram d a =>
    let pa := a / 128 * 128
    if s.granOwner (.dram d pa) ≠ some c.part.val then (s, .refuse 1)
    else
      let s := s.wakeL2 pa
      let ref (r : Nat) : State × CAns := (s.refuseRed d pa c.part.val c.g.toNat r, .refuse r)
      match (s.die d).groups.find? (fun h => decide (h.part = c.part.val) && decide (h.g = c.g.toNat) &&
          decide (h.base ≤ pa) && decide (pa < h.base + h.len)) with
      | none => ref 3
      | some g =>
        let l := g.lineAt pa
        let rank := c.rank.toNat
        if c.step ≠ g.step then ref 4
        else if g.ranks ≤ rank then ref 5
        else if bitAt l.got rank then ref 6
        else if g.ordered && decide (rank ≠ l.nxt) then
          if s.holdRoom d g.part pa then
            let l := { l with got := l.got ||| ones rank 1, held := l.held ++ [⟨rank, c.mask, c.data⟩] }
            (s.setGroup d (g.setLine pa l), .accept)
          else
            let k := s.slice d (paSlice pa)
            (s.setSlice d (paSlice pa) { k with retry := satAdd k.retry 1 }, .retry)
        else
          let (l, o, n) := RedLine.take g.ordered 16 { l with got := l.got ||| ones rank 1 } rank c.mask c.data
          let g : Group := { g.setLine pa l with ovf := g.ovf || o, nf := g.nf || n }
          let full : Nat := (g.lines.filter (fun e => decide (e.2.got = ones 0 g.ranks) && e.2.held.isEmpty)).length
          if full = g.len / 128 then (s.endGroup d g 0, .accept) else (s.setGroup d g, .accept)
  | _ => (s, .refuse 2)

/-- GROUP_OPEN after its checks (R228): dirty normal copies are written back and invalidated, the sums initialised. -/
def State.openGroup (s : State) (d : Nat) (g : Group) (init : Bool) : State :=
  let s := s.settleRange g.base g.len
  let (s, g) := (List.range (g.len / 128)).foldl (fun (a : State × Group) i =>
    let pa := g.base + 128 * i
    let (s, v, bad) := if init then a.1.l2Read pa [0, 1, 2, 3] true else (a.1, 0, 0)
    let s := match s.l2Find pa with
      | some (w, l) =>
        let (s, l) := s.writeBack l
        (s.untrack l pfEvict).l2Put pa w none
      | none => s
    (s.snoop pa, a.2.setLine pa { sum := v, poison := bad })) (s, g)
  let k := s.die d
  s.setDie d { k with groups := k.groups ++ [g] }

end Sys2Proof.Machine
end

