-- ==== Sys2Proof/Machine/StreamOps.lean ====
section
/-! DEFINITION. What stream contexts share (R262 to R283): when one is quiet, its addresses, how it reads and writes
memory, and its fault. -/

namespace Sys2Proof.Machine

/-- The next instruction of a context's run exists (R266). -/
def SCtx.runs (x : SCtx) : Bool := decide (x.st = .running) && !x.ended

/-- Nothing that the context issued is still to be performed: requests, contributions, multicast buffers of its descriptor
run. -/
def State.ctxDone (s : State) (cl n : Nat) : Bool :=
  !s.outstanding (.ctx cl n) && (s.ctx cl n).red.isEmpty &&
    (s.stitcher cl).runs.all (fun m => decide (m.ctx ≠ n) || m.left || m.bufs.isEmpty)

/-- Something that a faulted context issued before is still to be performed (R283). -/
def State.ctxLeft (s : State) (cl n : Nat) : Bool :=
  s.outstanding (.ctx cl n) || (s.stitcher cl).runs.any (fun m => decide (m.ctx = n))

/-- A context is quiet (R244): its run has completed or faulted, it has not started, or a sync wait blocks it; and
everything it issued has been performed, the buffers that a faulted run still delivers included (R283). -/
def State.ctxQuiet (s : State) (cl n : Nat) : Bool :=
  (match (s.ctx cl n).st with
   | .running => false
   | .held => s.waiting (.ctx cl n)
   | _ => true) && !s.outstanding (.ctx cl n) && (s.ctx cl n).red.isEmpty &&
    (s.stitcher cl).runs.all (fun m => decide (m.ctx ≠ n) || m.bufs.isEmpty)

/-- The level under which a context translates (Table 12.7). -/
def SCtx.level (x : SCtx) : Level := if bitAt x.ctl 47 then .s else .u

/-- A fault about to stop a context: REASON, SUB and the address (Table 12.9). -/
structure CFault where
  reason : Nat
  sub    : Nat
  addr   : Word
  deriving DecidableEq, Repr

/-- The root of a context's address space: the binding names the space by its ASID alone, so the walk starts where a core of
the cluster that holds the ASID starts it; where none does, at a free address (log 26). -/
def State.ctxRoot (s : State) (cl asid : Nat) : State × Nat :=
  match (List.range 8).find? (fun k => decide (field (s.core (8 * cl + k)).cr.asctl 48 16 = asid)) with
  | some k => (s, field (s.core (8 * cl + k)).cr.asctl 12 36)
  | none => let (v, s) := s.free; (s, v.toNat % 2 ^ 36)

/-- Translate a context's address through the cluster's translation buffer (R80, R266): the address, or the walk level. -/
def State.ctxTranslate (s : State) (cl n : Nat) (kind : AccKind) (va : Word) : State × Except Nat Word :=
  let x := s.ctx cl n
  let asid := field x.ctl 48 16
  if !canonical va then (s, .error 5)
  else
    match tlbHit (s.cluster cl).tlb asid va with
    | some e => (s, if pteAllows kind x.level e.pte then .ok (ptePA e.log e.pte va) else .error (logLevel e.log))
    | none =>
      let (s, root) := s.ctxRoot cl asid
      match walkFrom (cl / 8) (sideOf cl) (s.owner cl) (1000 * (cl + 1) + n) va 4 (root * 4096) s with
      | (s, .fault l) => (s, .error l)
      | (s, .leaf l p) =>
        if pteAllows kind x.level p then
          let g := pageLog l p
          let e : Tlb := { asid := asid, base := va.toNat / 2 ^ g, log := g, pte := p }
          let u := s.cluster cl
          (s.setCluster cl { u with tlb := e :: u.tlb.take 1023 }, .ok (ptePA g p va))
        else (s, .error l)

/-- Where a context's access leads, or the ACCESS code (R17, R19, R20, R26, R337). -/
def State.ctxCheck (s : State) (part : Nat) (a : Word) : Except Nat Loc :=
  match s.locate a with
  | .malformed => .error 2
  | .reserved | .locl _ | .reg _ _ => .error 1
  | .dram d pa => if s.granOwner (.dram d pa) = some part then .ok (.dram d pa) else .error 0
  | .host p o =>
    if s.granOwner (.host p o) ≠ some part then .error 0
    else if ((s.hport p).xlat o).isNone then .error 1
    else .ok (.host p o)
  | .remote dev lpa => .ok (.remote dev lpa)

/-- The pieces of a byte range, one per 4 KiB page; `fuel` bounds them. -/
def pagePieces : Nat → Nat → Nat → List (Nat × Nat)
  | 0, _, _ => []
  | fuel + 1, a, n => if n = 0 then [] else
    let k := min n (4096 - a % 4096)
    (a, k) :: pagePieces fuel (a + k) (n - k)

/-- Translate and check every piece of a context's access before any byte moves: page faults before ACCESS. -/
def State.ctxResolve (s : State) (cl n : Nat) (kind : AccKind) (va : Word) (len : Nat) :
    State × Except CFault (List Piece) :=
  let part := s.owner cl
  let (s, r) := (pagePieces (len / 4096 + 2) va.toNat len).foldl
    (fun (a : State × Except CFault (List (Word × Word × Nat))) e =>
      match a.2 with
      | .error f => (a.1, .error f)
      | .ok done =>
        let v := BitVec.ofNat 64 e.1
        match a.1.ctxTranslate cl n kind v with
        | (s, .error l) => (s, .error ⟨4, l, v⟩)
        | (s, .ok pa) => (s, .ok (done ++ [(v, pa, e.2)]))) (s, .ok [])
  match r with
  | .error f => (s, .error f)
  | .ok l => (s, l.foldl (fun (a : Except CFault (List Piece)) e =>
      match a with
      | .error f => .error f
      | .ok done =>
        match s.ctxCheck part e.2.1 with
        | .error c => .error ⟨5, c, e.1⟩
        | .ok loc => .ok (done ++ [⟨loc, e.1, e.2.2⟩])) (.ok []))

/-- How something that a context reads stands. -/
inductive CGot (α : Type) where
  | got (a : α)
  | fault (f : CFault)
  | wait
  deriving DecidableEq, Repr

/-- What a failed read gives a context: a poisoned source is reason 5 with SUB 6 (Table 19.3), a refusal, an undelivered
request or no route reason 9 (Table 16.4), a failed host access reason 5 with a free SUB (Table 15.6, log 27). -/
def State.readFault (s : State) (f : ReadFail) (va : Word) : State × CFault :=
  match f with
  | .poisoned off => (s, ⟨5, 6, va + w64 off⟩)
  | .host => let (v, s) := s.free; (s, ⟨5, v.toNat % 8, va⟩)
  | _ => (s, ⟨9, 0, va⟩)

/-- Read one piece for a context. -/
def State.pieceRead (s : State) (cl n : Nat) (p : Piece) : State × CGot (List Byte) :=
  let part := s.owner cl
  let who : Agent := .ctx cl n
  match p.loc with
  | .dram _ pa =>
    match s.readMem pa p.len with
    | (s, b, none) => (s, .got b)
    | (s, _, some a) =>
      (s.consume 4 (1000 * (cl + 1) + n) part (cl / 8) a, .fault ⟨5, 6, p.va + w64 (a - pa)⟩)
  | .host port o =>
    match s.hostRead who part port o p.len with
    | (s, .bytes b) => (s, .got b)
    | (s, .wait) => (s, .wait)
    | (s, .fail (.poisoned x)) =>
      (s.consume 4 (1000 * (cl + 1) + n) part (cl / 8) (winPA port o + x), .fault ⟨5, 6, p.va + w64 x⟩)
    | (s, .fail f) => let (s, f) := s.readFault f p.va; (s, .fault f)
  | .remote dev lpa =>
    let lo := lpa / 32 * 32
    let len := (lpa + p.len + 31) / 32 * 32 - lo
    match s.remoteRead who part dev lo len with
    | (s, .bytes b) => (s, .got ((b.drop (lpa - lo)).take p.len))
    | (s, .wait) => (s, .wait)
    | (s, .fail f) =>
      let s := match f with
        | .poisoned x => s.consume 4 (1000 * (cl + 1) + n) part (cl / 8) (globPA dev (lo + x))
        | _ => s
      let (s, f) := s.readFault f p.va
      (s, .fault f)
  | _ => (s, .fault ⟨5, 1, p.va⟩)

/-- Read pieces for a context: every request is issued before any is waited for; the first failure counts. -/
def State.piecesRead (s : State) (cl n : Nat) (l : List Piece) : State × CGot (List Byte) :=
  l.foldl (fun (a : State × CGot (List Byte)) p =>
    match a.2 with
    | .fault f => (a.1, .fault f)
    | r =>
      match r, a.1.pieceRead cl n p with
      | .got b, (s, .got c) => (s, .got (b ++ c))
      | _, (s, .fault f) => (s, .fault f)
      | _, (s, _) => (s, .wait)) (s, .got [])

/-- Read a virtual range for a context. -/
def State.ctxRead (s : State) (cl n : Nat) (va : Word) (len : Nat) : State × CGot (List Byte) :=
  match s.ctxResolve cl n .load va len with
  | (s, .error f) => (s, .fault f)
  | (s, .ok l) => s.piecesRead cl n l

/-- Why a piece cannot be written now: its device has no route, or its port's link is down (R338, R349). -/
def State.pieceBlocked (s : State) (cl n : Nat) (p : Piece) : State × Option CFault :=
  match p.loc with
  | .remote dev _ => (s, if s.noRoute dev then some ⟨9, 0, p.va⟩ else none)
  | .host port o =>
    if (s.hport port).up then (s, none)
    else
      let s := s.linkDown port (.ctx cl n) (s.owner cl) (winPA port o)
      let (s, f) := s.readFault .host p.va
      (s, some f)
  | _ => (s, none)

/-- Write whole sectors to pieces for a context (R270); a remote write is acknowledged later. -/
def State.piecesWrite (s : State) (cl n : Nat) (l : List Piece) (b : List Byte) : State :=
  (l.foldl (fun (a : State × List Byte) p =>
    let c := a.2.take p.len
    let s := match p.loc with
      | .dram _ pa => a.1.writeMem pa c false
      | .host port o => (a.1.hostWrite (.ctx cl n) (a.1.owner cl) port o c false).1
      | .remote dev lpa => a.1.putRemote (.ctx cl n) (a.1.owner cl) dev lpa p.va c
      | _ => a.1
    (s, a.2.drop p.len)) (s, b)).1

/-- Check that pieces can be written; the first that cannot is the fault. -/
def State.piecesBlocked (s : State) (cl n : Nat) (l : List Piece) : State × Option CFault :=
  l.foldl (fun (a : State × Option CFault) p => match a.2 with
    | some f => (a.1, some f)
    | none => a.1.pieceBlocked cl n p) (s, none)

/-- Remove the multicast runs of a descriptor run that has ended; their windows are free (R277). -/
def State.endRuns (s : State) (cl n : Nat) : State :=
  let k := s.stitcher cl
  s.setStitcher cl { k with runs := k.runs.filter (fun m => decide (m.ctx ≠ n) || m.left) }

/-- A faulted context leaves its multicast runs: those whose buffers some receiver lacks go on until they are delivered, for
the transfers of earlier executions are complete (R283). -/
def State.leaveRuns (s : State) (cl n : Nat) : State :=
  let k := s.stitcher cl
  s.setStitcher cl { k with runs := (k.runs.filter (fun m => decide (m.ctx ≠ n) || !m.bufs.isEmpty)).map (fun m =>
    if m.ctx = n then { m with left := true, since := none } else m) }

/-- Pend IP bit 2 on the owner core of a context whose descriptor has INT = 1 (R265, R283). -/
def State.ctxIrq (s : State) (cl n : Nat) : State :=
  let x := s.ctx cl n
  if x.intr && !bitAt x.ctl 46 then s.pend (8 * cl + field x.ctl 43 3) 4 else s

/-- The physical address of a piece. -/
def Piece.pa (p : Piece) : Nat :=
  match p.loc with
  | .dram _ a => a
  | .host port o => winPA port o
  | .remote dev lpa => globPA dev lpa
  | _ => 0

/-- Did an injection cause a fault of a context: poison of its own making was read (R403)? -/
def State.faultInj (s : State) (cl n : Nat) (f : CFault) : Bool :=
  decide (f.reason = 5) && decide (f.sub = 6) &&
    (match (s.ctxResolve cl n .load f.addr 1).2 with
     | .ok l => l.any (fun p => s.poisonInj p.pa)
     | _ => false)

/-- A context stops (R283): the status, the record, the interrupt; the RUN packet that owns it completes (R263), once what
the context issued before has been performed (R255). -/
def State.ctxFault (s : State) (cl n : Nat) (f : CFault) : State :=
  let x := s.ctx cl n
  let inj := s.faultInj cl n f
  let s := s.setCtx cl n { x with st := .faulted, reason := f.reason, sub := f.sub, faddr := f.addr, red := [],
                                  retries := 0, pkt := none, addrs := [] }
  let s := (s.dropWaits (fun w => decide (w = .ctx cl n))).leaveRuns cl n
  let s := (s.forget (.ctx cl n)).staleReqs (.ctx cl n)
  let s := s.log 0x40 (s.owner cl) (cl / 8) inj
    [w64 (cl + 256 * n), x.tag.setWidth 64, w64 x.pc, w64 (f.reason + 256 * f.sub), f.addr]
  let s := s.ctxIrq cl n
  match x.pkt with
  | none => s
  | some (q, pos) =>
    match (s.queue q).pkts.find? (fun p => decide (p.pos = pos)) with
    | none => s
    | some p =>
      let (st, d) := if 4 ≤ f.reason ∧ f.reason ≤ 6 then (stMEM, f.addr) else (stTASK, 0)
      if s.ctxLeft cl n then s.setPkt q (p.awaiting st d) else s.finish q p st d

/-- PART_DESTROY aborts a context with reason 11 (R263): what it has issued is given up, and its RUN packet completes with
TASK_FAULT and performs no signal (R28). -/
def State.ctxAbort (s : State) (cl n : Nat) : State :=
  let x := s.ctx cl n
  let k := s.stitcher cl
  let s := s.setStitcher cl { k with runs := k.runs.filter (fun m => decide (m.ctx ≠ n)) }
  match x.st with
  | .unbound | .faulted => s
  | _ =>
    let s := (s.setCtx cl n { x with pkt := none }).ctxFault cl n ⟨11, 0, 0⟩
    match x.pkt with
    | none => s
    | some (q, pos) =>
      match (s.queue q).pkts.find? (fun p => decide (p.pos = pos)) with
      | none => s
      | some p => s.finishMute q p stTASK 0

end Sys2Proof.Machine
end

