-- ==== Sys2Proof/Machine/ChroupOps.lean ====
section
/-! DEFINITION. Chroup programs: decode of an instruction (R267), pattern addresses and indirection (R269, R273),
contributions (R271), prefetches (R282), multicast (R275 to R278), and the start of a run (R265, R266). -/

namespace Sys2Proof.Machine

/-- The opcodes of Table 12.2. -/
def chOps : List Nat := [0, 1, 2, 3, 4, 5, 6, 0x10, 0x11, 0x12, 0x13, 0x14, 0x18, 0x19]

/-- A word with ones in the named fields (low bit, width). -/
def bitsOf (l : List (Nat × Nat)) : Word := l.foldl (fun w e => w ||| ones e.1 e.2) (ones 58 6)

/-- Run an instruction of a context: the one at PC when it carries opcode `op`; a word of no assigned opcode faults
whichever row finds it. `fields` are the fields that Table 12.2 names; `ok` says when the context may run it. -/
def State.chroup (s : State) (x : CtxId) (op : Nat) (fields : List (Nat × Nat)) (ok : SCtx → Bool)
    (f : State → Nat → Nat → SCtx → Word → State) : Out :=
  let cl := x.cluster.val
  let n := x.ctx.val
  let c := s.ctx cl n
  let w := tget 0 c.prog c.pc
  if !ok c || c.ended then fin s
  else if !chOps.contains (field w 58 6) then fin (s.ctxFault cl n ⟨1, 0, 0⟩)
  else if field w 58 6 ≠ op then fin s
  else if w &&& ~~~(bitsOf fields) ≠ 0 then fin (s.ctxFault cl n ⟨1, 0, 0⟩)
  else fin (f s cl n c w)

/-- A context runs instructions while it is running. -/
def running (c : SCtx) : Bool := decide (c.st = .running)

/-- Address register `r`. -/
def SCtx.reg (x : SCtx) (r : Nat) : Word := tget 0 x.a r

/-- A context completes its instruction: what it read is forgotten. -/
def State.ctxNext (s : State) (cl n : Nat) (x : SCtx) : State :=
  (s.setCtx cl n { x.advance with addrs := [] }).forget (.ctx cl n)

/-- The address that R269 gives a pattern, before indirection. -/
def SCtx.patBase (x : SCtx) (p : Nat) : Word :=
  let t := tget ({} : Pat) x.pats p
  let off := ((List.range 6).map (fun l =>
    ((tget ({} : SLoop) x.loops l).idx : Int) * (tget 0 t.stride l).toInt)).sum
  let off := (BitVec.ofInt 64 off).toInt
  let off := if t.wrap = 0 then off else off % (t.wrap : Int)
  x.reg t.base + BitVec.ofInt 64 off

/-- Count elements, lines and faults of an Awl (Table 12.6); `k` is 4 × cluster + Awl. -/
def State.awlCount (s : State) (d k elems lines faults : Nat) : State :=
  let u := s.die d
  let a := tget ({} : Awl) u.awl k
  s.setDie d { u with awl := tset {} u.awl k { elems := satAdd a.elems elems, lines := satAdd a.lines lines,
                                                faults := satAdd a.faults faults } }

/-- The address of a pattern with its indirection (R269, R273). -/
def State.patAddr (s : State) (cl n p : Nat) : State × CGot Word :=
  let x := s.ctx cl n
  let t := tget ({} : Pat) x.pats p
  let a := x.patBase p
  if !t.ind then (s, .got a)
  else
    let w := if t.iw64 then 8 else 4
    let k := 4 * (cl % 8) + n % 4
    if a.toNat % w ≠ 0 then (s, .fault ⟨6, 0, a⟩)
    else
      match s.ctxRead cl n a w with
      | (s, .wait) => (s, .wait)
      | (s, .fault f) => (s.awlCount (cl / 8) k 1 1 1, .fault f)
      | (s, .got b) =>
        let i : Word := if t.iw64 then BitVec.ofNat 64 (ofBytes b) else (BitVec.ofNat 32 (ofBytes b)).signExtend 64
        (s.awlCount (cl / 8) k 1 1 0, .got (x.reg t.ibase + (i <<< t.ish)))

/-- The address of a transfer's source (`role` 0) or destination (1), by pattern: a multiple of 32 (R270). An execution that
waits for another device keeps it, so that it reads each index once (R273). -/
def State.moveAddr (s : State) (cl n role p : Nat) : State × CGot Word :=
  match tget none (s.ctx cl n).addrs role with
  | some a => (s, .got a)
  | none =>
    match s.patAddr cl n p with
    | (s, .got a) =>
      if a.toNat % 32 = 0 then
        let x := s.ctx cl n
        (s.setCtx cl n { x with addrs := tset none x.addrs role (some a) }, .got a)
      else (s, .fault ⟨6, 0, a⟩)
    | r => r

/-- SZ of a data move (R267). -/
def moveSize (w : Word) : Nat := 32 * (field w 46 8 + 1)

/-- Count bytes of the data path (STC_BYTES). -/
def State.stcBytes (s : State) (cl n : Nat) : State :=
  let k := s.stitcher cl
  s.setStitcher cl { k with bytes := satAdd k.bytes n }

/-- Go on with what a context waits for, stop on a fault. -/
def State.ctxThen {α : Type} (cl n : Nat) (r : State × CGot α) (f : State → α → State) : State :=
  match r with
  | (s, .got a) => f s a
  | (s, .fault e) => s.ctxFault cl n e
  | (s, .wait) => s

/-- Go on when an access resolves. -/
def State.ctxTry {α : Type} (cl n : Nat) (r : State × Except CFault α) (f : State → α → State) : State :=
  match r with
  | (s, .ok a) => f s a
  | (s, .error e) => s.ctxFault cl n e

/-- Count a refused or undelivered contribution (STC_REDREF). -/
def State.redRefused (s : State) (cl : Nat) : State :=
  let k := s.stitcher cl
  s.setStitcher cl { k with redref := satAdd k.redref 1 }

/-- Count a RETRY answer (STC_RETRY). -/
def State.redRetried (s : State) (cl : Nat) : State :=
  let k := s.stitcher cl
  s.setStitcher cl { k with retry := satAdd k.retry 1 }

/-- RETRY answers that fault a context (STC_RETRYLIM). -/
def State.retryLim (s : State) (cl : Nat) : Nat := max 1 (field (s.stitcher cl).retrylim 0 16)

/-- H3 of a REDUCE frame (Table 16.2). -/
def redH3 (c : Contribution) : Word :=
  place c.g.toNat 56 8 ||| place c.rank.toNat 52 4 ||| place c.mask.toNat 48 4 ||| place c.step.toNat 0 32

/-- Issue contributions in order (R271). A local one that receives RETRY holds the rest; a remote one is sent and answered
later. When none is left the RED completes. -/
def State.redGo (cl n : Nat) : List (Option Nat × Contribution) → State → State
  | [], s =>
    let x := s.ctx cl n
    s.ctxNext cl n { x with red := [], retries := 0 }
  | (none, c) :: l, s =>
    match s.contribute c with
    | (s, .accept) => State.redGo cl n l (s.setCtx cl n { s.ctx cl n with retries := 0 })
    | (s, .refuse _) => State.redGo cl n l ((s.redRefused cl).setCtx cl n { s.ctx cl n with retries := 0 })
    | (s, .retry) =>
      let s := s.redRetried cl
      let x := s.ctx cl n
      if s.retryLim cl ≤ x.retries + 1 then s.ctxFault cl n ⟨8, 0, 0⟩
      else s.setCtx cl n { x with red := (none, c) :: l, retries := x.retries + 1 }
  | (some dev, c) :: l, s =>
    State.redGo cl n l
      (if s.noRoute dev then s.redRefused cl
       else s.request (.ctx cl n) (.red 0 false) 4 dev c.part.val 0 (c.line.setWidth 64) (redH3 c)
         (sectorsOf (lineBytes c.data 0 128)))

/-- The contributions of a RED: one per line that the transfer touches (R271). -/
def redLines (part : PartId) (w : Word) (step : BitVec 32) (l : List Piece) (b : List Byte) :
    List (Option Nat × Contribution) :=
  (l.foldl (fun (a : List (Option Nat × Contribution) × List Byte) p =>
    let go (dev : Option Nat) (pa : Nat) : List (Option Nat × Contribution) × List Byte :=
      (pieces (p.len / 128 + 2) pa p.len).foldl (fun (a : List (Option Nat × Contribution) × List Byte) e =>
        let off := e.1 % 128
        let m : BitVec 4 := (touched off e.2).foldl (fun m i => setMaskBit m i true) 0
        (a.1 ++ [(dev, ({ line := BitVec.ofNat 48 (e.1 / 128 * 128), mask := m,
                          data := setBytes 0 off (a.2.take e.2), part := part, g := BitVec.ofNat 8 (field w 38 8),
                          rank := BitVec.ofNat 4 (field w 34 4), step := step } : Contribution))], a.2.drop e.2)) a
    match p.loc with
    | .dram _ pa => go none pa
    | .remote dev lpa => go (some dev) lpa
    | .host port o => go none (winPA port o)
    | _ => (a.1, a.2.drop p.len)) ([], b)).1

/-- Prefetch a line into L2 for source `src` (R282): a present line counts as ISSUED and USED at once; an empty locked entry
holds none of it, and is filled. -/
def State.prefLine (s : State) (src pa : Nat) : State :=
  let s := (State.l2Admit pa fillFuel (s.wakeL2 pa)).pfCount src pfIssue
  let k := s.slice (homeDie pa) (paSlice pa)
  match (s.l2Find pa).filter (fun e => decide (e.2.valid ≠ 0)), k.tracks (pa / 128) with
  | some (w, l), _ => ((s.untrack l pfNever).pfCount src pfUsed).l2Put pa w (some { l with track := none })
  | none, some m =>
    if m.demand || m.pref.isNone then s.pfCount src pfUsed
    else
      let s := match m.pref with | some o => s.pfCount o pfNever | none => s
      let k := s.slice (homeDie pa) (paSlice pa)
      s.setSlice (homeDie pa) (paSlice pa)
        { k with miss := k.miss.map (fun x => if x.line = pa / 128 then { x with pref := some src } else x) }
  | none, none =>
    match (if k.room pa then s.openMiss pa [] (some src) else (s, false)) with
    | (s, true) => s
    | (s, false) =>
      let s := State.l2Fetch pa fillFuel s
      match s.l2Find pa with
      | some (w, l) => s.l2Put pa w (some { l with track := some src })
      | none => s

/-- Check the entries of a multicast group (R275): a receiver, or none when an entry is malformed. -/
def State.groupEntry (s : State) (part : Nat) (e0 e1 : Word) : Option Recv :=
  let r : Recv := { e0 := e0, e1 := e1 }
  if !bitAt e0 63 || decide (field e0 16 32 ≠ 0) || decide (field e0 0 9 ≠ 0) || decide (field e1 0 40 ≠ 0) ||
      (!bitAt e0 62 && decide (field e0 48 14 ≠ 0)) then none
  else if !s.recvRemote r && decide (s.owner (r.core / 8) ≠ part) then none
  else some r

/-- Word `i` of a byte list. -/
def wordAt (b : List Byte) (i : Nat) : Word := BitVec.ofNat 64 (ofBytes ((b.drop (8 * i)).take 8))

/-- The group of a multicast run as its first execution reads it (R275, Table 12.4): the threshold and the receivers. -/
def State.readGroup (s : State) (cl n : Nat) (va : Word) : State × CGot (Nat × List Recv) :=
  match s.ctxRead cl n va 16 with
  | (s, .wait) => (s, .wait)
  | (s, .fault f) => (s, .fault f)
  | (s, .got h) =>
    let h0 := wordAt h 0
    let k := field h0 0 7
    if k = 0 ∨ 64 < k ∨ field h0 7 41 ≠ 0 ∨ wordAt h 1 ≠ 0 then (s, .fault ⟨10, 0, 0⟩)
    else
      match s.ctxRead cl n (va + 16) (16 * k) with
      | (s, .wait) => (s, .wait)
      | (s, .fault f) => (s, .fault f)
      | (s, .got b) =>
        match (List.range k).mapM (fun i => s.groupEntry (s.owner cl) (wordAt b (2 * i)) (wordAt b (2 * i + 1))) with
        | some l => (s, .got (if field h0 48 16 = 0 then 1000 else field h0 48 16, l))
        | none => (s, .fault ⟨10, 0, 0⟩)

/-- Execute an MCAST of an active run (R276, R277): hold when the slack window is full, else fetch the buffer once and
deliver it as credit allows. -/
def State.mcExec (s : State) (cl n : Nat) (w : Word) (m : McRun) : State :=
  let x := s.ctx cl n
  if !m.room then
    (s.setRun cl { m with since := m.since <|> some s.now }).setCtx cl n { x with st := .held }
  else
    State.ctxThen cl n (s.moveAddr cl n 0 (field w 56 2)) (fun s src =>
    State.ctxThen cl n (s.moveAddr cl n 1 (field w 54 2)) (fun s off =>
      let sz := moveSize w
      let short (r : Recv) : Bool := !s.recvRemote r && decide (lbSize (s.core r.core) < off.toNat + sz)
      if m.recvs.any short then s.ctxFault cl n ⟨5, 1, off⟩
      else
        State.ctxThen cl n (s.ctxRead cl n src sz) (fun s b =>
          let buf : McBuf := { idx := m.next, seqNo := (x.reg (field w 40 3)).toNat, off := off.toNat, src := src, len := sz,
                               data := b }
          let s := s.stcBytes cl sz
          let s := s.ctxNext cl n { s.ctx cl n with st := .running }
          let (s, l) := s.mcPump cl { m with next := m.next + 1, bufs := m.bufs ++ [buf], since := none }
          runJobs jobFuel l s)))

/-- Serve by unicast the detached receivers of a multicast run (R278): each buffer that one lacks and has credit for is read
again from its source. Gives the jobs that follow and the fault of a source read; `fuel` bounds the deliveries. -/
def State.unicast (cl n id : Nat) : Nat → State → State × List Job × Option CFault
  | 0, s => (s, [], none)
  | fuel + 1, s =>
    let todo (m : McRun) : Option (Nat × Recv × McBuf) := m.recvs.zipIdx.findSome? (fun e =>
      if e.1.detached then (m.bufs.find? (s.takes cl e.1)).map (fun b => (e.2, e.1, b)) else none)
    match (s.stitcher cl).runs.find? (fun m => decide (m.id = id)) with
    | none => (s, [], none)
    | some m =>
      match todo m with
      | none => (s, [], none)
      | some (j, r, b) =>
        match s.ctxRead cl n b.src b.len with
        | (s, .wait) => (s, [], none)
        | (s, .fault f) => (s, [], some f)
        | (s, .got data) =>
          let s := s.stcBytes cl b.len
          if s.recvRemote r then
            let (s, m) := s.mcSend cl m (field r.e0 48 14) b data (fun x => decide (x = r))
            State.unicast cl n id fuel (s.setRun cl m.trim)
          else
            let s := s.landPut r.core b.off data
            let m : McRun := { m with recvs := m.recvs.set j { r with got := r.got + 1 } }
            let l := s.arrJob (s.owner cl) r
            let (s, k, f) := State.unicast cl n id fuel (s.setRun cl m.trim)
            (s, l ++ k, f)

/-- Serve the detached receivers of every multicast run of a context; a source read that fails faults the context, and ends
the run of a context that has faulted. -/
def State.unicasts (s : State) (cl n : Nat) : State :=
  ((s.stitcher cl).runs.filter (fun m => decide (m.ctx = n))).foldl (fun s m =>
    let (s, l, f) := State.unicast cl n m.id (m.bufs.length * m.recvs.length) s
    let s := runJobs jobFuel l s
    match f with
    | none => s
    | some f =>
      if (s.ctx cl n).st = .faulted then s.setRun cl { m with left := true, bufs := [] } else s.ctxFault cl n f) s

/-- The partition of a cluster as an index. -/
def State.ownerId (s : State) (cl : Nat) : PartId := partId (s.owner cl)

/-- The die and number of the doorbell and head objects of a context. -/
def SCtx.dbell (x : SCtx) : Nat := field x.ctl 31 12
def SCtx.head (x : SCtx) : Nat := field x.ctl 19 12

/-- Read the burst of the ring that holds position `pos` (R265): descriptors that the doorbell covers and that are not
poisoned; the fault of a burst outside the partition's LPDDR6. -/
def State.readBurst (s : State) (cl n pos : Nat) : State × Option CFault :=
  let x := s.ctx cl n
  let size := 2 ^ field x.ctl 14 5
  let lo := pos / 16 * 16
  let base := field x.ring 9 39 * 512 + 32 * (lo % size)
  match s.ctxCheck (s.owner cl) (w64 base) with
  | .error c => (s, some ⟨5, c, w64 base⟩)
  | .ok (.dram _ pa) =>
    let (s, ls) := (List.range 4).foldl (fun (a : State × List (Line × BitVec 4)) i =>
      let (s, d, p) := a.1.ccRead (cl / 8) (sideOf cl) (pa + 128 * i)
      (s, a.2 ++ [(d, p)])) (s, [])
    let bell := (s.objVal (cl / 8) x.dbell).toNat
    let keep := (List.range 16).filterMap (fun i =>
      match ls[i / 4]? with
      | some (d, p) => if bitAt p (i % 4) ∨ bell ≤ lo + i then none else some (lo + i, lineSec d (i % 4))
      | none => none)
    (s.setCtx cl n { s.ctx cl n with burst := keep.foldl (fun (t : Tbl (BitVec 256)) e => tset 0 t e.1 e.2) [] }, none)
  | .ok _ => (s, some ⟨5, 1, w64 base⟩)

/-- The descriptor at position `pos`: from the burst in hand, else from a burst read now (R265, Table 19.3). A descriptor of
zeros is never kept, and reads as zeros again. -/
def State.descriptor (s : State) (cl n pos : Nat) : State × Except CFault (BitVec 256) :=
  let x := s.ctx cl n
  let held := tget 0 x.burst pos
  if held ≠ 0 then (s, .ok held)
  else
    match s.readBurst cl n pos with
    | (s, some f) => (s, .error f)
    | (s, none) =>
      let d := tget 0 (s.ctx cl n).burst pos
      let a := field x.ring 9 39 * 512 + 32 * (pos % 2 ^ field x.ctl 14 5)
      let (s, l, p) := if d = 0 then s.ccRead (cl / 8) (sideOf cl) a else (s, 0, 0)
      if d = 0 ∧ bitAt p (a / 32 % 4) then
        (s.consume 4 (1000 * (cl + 1) + n) (s.owner cl) (cl / 8) a, .error ⟨5, 6, w64 a⟩)
      else if d = 0 then (s, .ok (lineSec l (a / 32 % 4)))
      else (s, .ok d)

/-- Is a descriptor malformed (R265, Table 12.9 reason 3)? -/
def badDesc (d : BitVec 256) : Bool :=
  !bitAt d 0 || decide (field d 1 5 ≠ 0) || bitAt d 12 || decide (field d 14 34 ≠ 0) || decide (field d 64 3 ≠ 0) ||
    decide (field d 128 3 ≠ 0)

/-- Start the run of a descriptor (R266): parameters, then the program unless it is the one held. -/
def State.startRun (s : State) (cl n : Nat) (d : BitVec 256) : State :=
  let x := s.ctx cl n
  let len := field d 6 6 + 1
  let prog : Word := BitVec.ofNat 64 (field d 64 64)
  let pblk : Word := BitVec.ofNat 64 (field d 128 64)
  let x0 : SCtx := { x with tag := BitVec.ofNat 16 (field d 48 16), intr := bitAt d 13, pc := 0 }
  let s := s.setCtx cl n x0
  if badDesc d then s.ctxFault cl n ⟨3, 0, 0⟩
  else
    State.ctxThen cl n (if pblk = 0 then (s, .got (List.replicate 56 0)) else s.ctxRead cl n pblk 56) (fun s b =>
    State.ctxThen cl n (if x.lastProg = some (prog, len) then (s, .got []) else s.ctxRead cl n prog (8 * len)) (fun s p =>
      let a := (List.range 7).foldl (fun (t : Tbl Word) i => tset 0 t i (wordAt b i)) []
      let store := if x.lastProg = some (prog, len) then x.prog
        else (List.range len).foldl (fun (t : Tbl Word) i => tset 0 t i (wordAt p i)) []
      (s.setCtx cl n { s.ctx cl n with
        st := .running, a := tset 0 a 7 (BitVec.ofNat 64 (field d 192 64)), pats := [], loops := [], depth := 0,
        progLen := len, prog := store, lastProg := some (prog, len), ended := false, red := [], retries := 0 }).forget
          (.ctx cl n)))

end Sys2Proof.Machine
end

