-- ==== Sys2Proof/Machine/CoreOps.lean ====
section
/-! DEFINITION. How a core executes an instruction: when it may issue, asynchronous traps at the boundary (R102), the check
of its fetch (R77, R209, R400), RsvZ bits (R66), its body, and the loop-back (R73). -/

namespace Sys2Proof.Machine

/-- How the body of an instruction ends: it completes without transferring control, it transfers control, it traps, it
holds issue until another agent answers, it has set PC, level or wait itself, or it waits at issue for queued tile
instructions and has no effect yet. -/
inductive SysRes where
  | done (s : State)
  | jump (s : State) (pc : Word)
  | trap (s : State) (t : Trap)
  | stay (s : State)
  | left (s : State)
  | hold (s : State)
  deriving DecidableEq, Repr

/-- Run the body of an instruction that reads no tile register or accumulator and that only its own core sees. -/
def State.onCore (s : State) (c : Nat) (f : Ctx → Core → CoreRes) : SysRes :=
  match f (s.ctxOf c) (s.core c) with
  | .done k ev => .done ((s.setCore c k).coreEvents c false ev)
  | .jump k pc => .jump (s.setCore c k) pc
  | .trap k t => .trap (s.setCore c k) t
  | .hold => .hold s

/-- The lowest-numbered interrupt that a core can take, with its level (R102). -/
def takeable (x : Ctx) (k : Core) : Option (Level × Trap) :=
  let ip := ipOf x k
  [0, 1, 2, 3, 4, 5].findSome? (fun n =>
    let l : Level := if bitAt k.tc.iroute n then .f else .s
    let mask := if l = .f then k.tc.imaskF else k.tc.imaskS
    let t := tregs k l
    if bitAt ip n && bitAt mask n && !stIH t &&
        (decide (k.level.num < l.num) || (decide (k.level = l) && stIE t)) then
      some (l, ⟨cINTERRUPT, 0, BitVec.ofNat 32 n⟩)
    else none)

/-- The asynchronous trap that a core takes at an instruction boundary: WATCHDOG, ENGINE_PARITY, then the lowest takeable
interrupt (R82, R102, R104). -/
def asyncTrap (x : Ctx) (k : Core) : Option (Level × Trap) :=
  if k.watchdog then
    some (if bitAt k.tc.wdctl 1 || decide (k.level = .f) then .f else .s, ⟨cWATCHDOG, 0, 0⟩)
  else
    match k.parity with
    | some d => some (trapTarget k cENGINE_PARITY, ⟨cENGINE_PARITY, 0, d⟩)
    | none => takeable x k

/-- Is a core in the middle of an instruction that has begun to act (R349: interrupts wait)? -/
def State.midAccess (s : State) (c : Nat) : Bool :=
  s.answers.any (fun a => decide (a.who = .core c)) || decide ((s.core c).mem.prog ≠ 0)

/-- Take the asynchronous trap that is due, abandoning a SYNC.WAIT where an interrupt or WATCHDOG allows it (R250); none
when none is due. A waiting TCFG write has not begun, so any such trap abandons it, a pending ENGINE_PARITY alone too, of which
R94 does not speak (DESIGN CHOICE, log 67). -/
def State.takeAsync (s : State) (c : Nat) : Option State :=
  let k := s.core c
  let x := s.ctxOf c
  let waits := match k.run with | .waitSync _ => true | _ => false
  match asyncTrap x k with
  | none => none
  | some (l, t) =>
    if s.midAccess c || (waits && !k.watchdog && (takeable x k).isNone) then none
    else
      let k := if t.code = cWATCHDOG then { k with watchdog := false }
        else if t.code = cENGINE_PARITY then { k with parity := none }
        else k
      let s := (s.setCore c k).dropWaits (fun w => decide (w = .core c))
      some (s.taken c (raiseAt k l k.pc t))

/-- The instruction fetch at PC: FETCH_PAGE, then ACCESS, then the read of the instruction cache (R77, R209, R26, R218,
R400). The word that it brings is the command's (log 8). -/
def State.fetch (s : State) (c : Nat) : State × Option Trap :=
  let k := s.core c
  match s.translateAt c k.level .fetch k.pc with
  | (s, .error l) => (s, some ⟨cFETCH_PAGE, k.pc, BitVec.ofNat 32 l⟩)
  | (s, .ok a) =>
    match s.checkPA c k.level true a with
    | .error d => (s, some ⟨cACCESS, k.pc, BitVec.ofNat 32 d⟩)
    | .ok (.dram _ pa) =>
      match s.roRead c 0 pa 4 with
      | (s, .ok _) => (s, none)
      | (s, .error a) => (s.consume 0 c (s.owner (c / 8)) (c / 64) a, some ⟨cACCESS, k.pc, 6⟩)
    | .ok _ => (s, some ⟨cACCESS, k.pc, 1⟩)

/-- May a core issue: its cluster is on, nothing holds its issue, and no reset of it is in progress (R407)? A retired cluster that
a task still uses runs on (R405). -/
def State.canIssue (s : State) (c : Nat) : Bool :=
  decide (s.dom (clDom (c / 8)) = .on) && decide ((s.core c).run = .running) && !s.svc.katDue.contains c

/-- Take the asynchronous trap that is due, the loads in flight having written their destinations before it (R83). -/
def State.interrupted (s : State) (c : Nat) : State :=
  if (s.takeAsync c).isNone then s
  else
    match s.settle c with
    | (s, true) => s
    | (s, false) => (s.takeAsync c).getD s

/-- A core at an instruction boundary: WFE completes on an event (R103), and the asynchronous trap that is due is taken. -/
def State.boundary (s : State) (c : Nat) : State :=
  let up := decide (s.dom (clDom (c / 8)) = .on)
  let s := s.setCore c (wakeWfe (s.ctxOf c) (s.core c))
  match (s.core c).run with
  | .running | .waitSync _ => if up then s.interrupted c else s
  | _ => s

/-- The answers that a core waited for have all arrived: it may issue again. So it does in the release part of a SYNC.WAIT,
which has no entry of the waiter table yet (R249, R250). -/
def State.release (s : State) (c : Nat) : State :=
  let k := s.core c
  let waits : Bool := match k.run with | .waitResp => true | .waitSync _ => !s.waiting (.core c) | _ => false
  let asks := s.hosts.any (fun p => p.2.reqs.any (fun e => match e.2 with
    | some r => decide (r.who = .core c) | none => false))
  if waits && !s.outstanding (.core c) && !asks then
    s.setCore c { k with run := .running }
  else s

/-- An instruction ended: what its uncached accesses held is forgotten. -/
def State.endInsn (s : State) (c : Nat) : State :=
  let k := s.core c
  let s := if k.mem.prog = 0 then s else s.setCore c { k with mem := { k.mem with prog := 0 } }
  if s.midAccess c then { s with answers := s.answers.filter (fun a => !decide (a.who = .core c)) } else s

/-- What follows the body of an instruction. One that waits at issue leaves PC at itself, so that an interrupt or WATCHDOG
that becomes takeable meanwhile abandons it with EPC naming it (R94, R148); the instruction issues again once K_STEPs have
served the queue (log 67). -/
def State.complete (s₀ : State) (c : Nat) (r : SysRes) : State :=
  match r with
  | .done s =>
    let s := s.endInsn c
    let k := s.core c
    s.setCore c (loopBack k k.pc)
  | .jump s pc =>
    let s := s.endInsn c
    s.setCore c { s.core c with pc := pc }
  | .trap s t => (s.endInsn c).trap c t
  | .stay s => s.setCore c { s.core c with run := .waitResp }
  | .left s => if s₀.midAccess c then s.endInsn c else s
  | .hold s => s

/-- Fetch an instruction and execute it; its word is `w`. -/
def State.execute (s : State) (c : Nat) (w : BitVec 32) (rsvz : BitVec 32) (body : State → SysRes) : State :=
  match s.fetch c with
  | (s, some t) => s.trap c t
  | (s, none) => if rsvz ≠ 0 then s.trap c (tIllegal (w ||| rsvz)) else s.complete c (body s)

/-- Issue an instruction on its core. A core that cannot issue is unaffected; the loads in flight write their destinations
first, and an asynchronous trap that is due is taken in the instruction's place (R83, R102). -/
def State.issue (s : State) (h : Issue) (w : BitVec 32) (body : State → SysRes) : Out :=
  let c := h.core.val
  if !s.canIssue c then fin s
  else
    match s.settle c with
    | (s, true) => fin s
    | (s, false) =>
      match s.takeAsync c with
      | some s => fin s
      | none => fin (s.execute c w h.rsvz body)

/-- Issue an instruction of its own core that reads no tile register or accumulator. -/
def State.issueCore (s : State) (h : Issue) (w : BitVec 32) (f : Ctx → Core → CoreRes) : Out :=
  s.issue h w (fun s => s.onCore h.core.val f)

end Sys2Proof.Machine
end

