-- ==== Sys2Proof/Machine/Tannery.lean ====
section
/-! DEFINITION. The Tannery: OFFLOAD, PREFETCH and the movement of their transfers (R280 to R282, R338, R400). -/

namespace Sys2Proof.Machine

/-- Read whole sectors of this device's LPDDR6: the bytes and the addresses of the poisoned sectors among them. -/
def State.readSectors (s : State) (a n : Nat) : State × List Byte × List Nat :=
  (pieces (n / 128 + 2) a n).foldl (fun (r : State × List Byte × List Nat) e =>
    let off := e.1 % 128
    let t := touched off e.2
    let (s, l, p) := r.1.l2Read e.1 t true
    (s, r.2.1 ++ lineBytes l off e.2, r.2.2 ++ (t.filter (bitAt p)).map (fun i => max e.1 (e.1 / 128 * 128 + 32 * i))))
    (s, [], [])

/-- A packet reads whole sectors: each poisoned one is consumed (R400). -/
def State.pktSectors (s : State) (q : QId) (part a n : Nat) : State × List Byte × List Nat :=
  let (s, b, bad) := s.readSectors a n
  (bad.foldl (fun s x => s.consume 6 (qKey q) part q.die.val x) s, b, bad)

/-- Bytes that a token bucket holds now: 64 KiB at most, refilled at `gbs` GB/s, 40 bytes per always-on tick each (R281). -/
def Bucket.level (b : Bucket) (now gbs : Nat) : Nat := min 65536 (b.bytes + (now - b.at_) * gbs * 40)

/-- Take `n` bytes of a partition's bucket on a die, `wr` for host writes; none when it does not hold them. A limit of 0 is
no limit. -/
def State.tokens (s : State) (d part n : Nat) (wr : Bool) : Option State :=
  let k := s.die d
  let t := k.tny
  let gbs := field (tget 0 t.rate part) (if wr then 16 else 0) 16
  if gbs = 0 then some s
  else
    let b := tget ({} : Bucket) (if wr then t.wr else t.rd) part
    let have_ := b.level s.now gbs
    if have_ < n then none
    else
      let v : Bucket := { bytes := have_ - n, at_ := s.now }
      let t := if wr then { t with wr := tset {} t.wr part v } else { t with rd := tset {} t.rd part v }
      some (s.setDie d { k with tny := t })

/-- Replace the transfers of a Tannery. -/
def State.setMoves (s : State) (d : Nat) (l : List Transfer) : State :=
  let k := s.die d
  s.setDie d { k with tny := { k.tny with moves := l } }

/-- A transfer ends with a status: its place is free and its packet completes. -/
def State.moveEnd (s : State) (d : Nat) (t : Transfer) (st : Byte) (x : Word) : State :=
  let s := s.setMoves d ((s.die d).tny.moves.filter (fun m => !(decide (m.q = t.q) && decide (m.pos = t.pos))))
  match (s.queue t.q).pkts.find? (fun p => decide (p.pos = t.pos)) with
  | none => s
  | some p => s.finish t.q p st x

/-- Is a chunk of a transfer in granules that its partition still holds (R26)? The failing word. -/
def State.chunkBad (s : State) (t : Transfer) (n : Nat) : Option Nat :=
  if (s.rangeBad t.part (t.src + w64 t.next) n true true).isSome then some 0
  else if (s.rangeBad t.part (t.dst + w64 t.next) n true true).isSome then some 1
  else none

/-- A chunk is done: the transfer goes to the end of the rotation, or ends. -/
def State.moveOn (s : State) (d : Nat) (t : Transfer) (n : Nat) : State :=
  let t : Transfer := { t with next := t.next + n }
  if t.next < t.len then
    let l := (s.die d).tny.moves
    let act := (l.take 16).filter (fun m => !(decide (m.q = t.q) && decide (m.pos = t.pos)))
    s.setMoves d (act ++ [t] ++ l.drop 16)
  else
    match t.bad with
    | some a => s.moveEnd d t stUNCORR (w64 a)
    | none => s.moveEnd d t stOK 0

/-- Write bytes to a host window, sectors that were read poisoned with EP set (R338): the address of the first failure. -/
def State.winSectors (s : State) (who : Agent) (part a src : Nat) (b : List Byte) (bad : List Nat) : State × Option Nat :=
  if bad.isEmpty then s.winWrite who part a b false
  else
    ((chunks 32 (b.length + 1) b).zipIdx).foldl (fun (r : State × Option Nat) e =>
      match r.2 with
      | some f => (r.1, some f)
      | none => r.1.winWrite who part (a + 32 * e.2) e.1 (bad.contains (src + 32 * e.2))) (s, none)

/-- One chunk of an OFFLOAD. -/
def State.offChunk (s : State) (d : Nat) (t : Transfer) (n : Nat) : State :=
  let src := t.src.toNat + t.next
  let (s, b, bad) := s.pktSectors t.q t.part src n
  match s.winSectors (.pkt t.q t.pos) t.part (t.dst.toNat + t.next) src b bad with
  | (s, some a) => s.moveEnd d t stMEM (w64 a)
  | (s, none) =>
    let k := s.die d
    let s := s.setDie d { k with tny := { k.tny with offB := satAdd k.tny.offB n } }
    s.moveOn d { t with bad := t.bad <|> bad.head? } n

/-- Track the lines that a chunk of a PREFETCH brings into L2 (R282): a line counts with the chunk that first touches it. -/
def State.trackLines (s : State) (d : Nat) (t : Transfer) (n : Nat) : State :=
  let lo := t.dst.toNat + t.next
  (pieces (n / 128 + 2) lo n).foldl (fun s e =>
    if e.1 % 128 ≠ 0 ∧ t.next ≠ 0 then s
    else
      match s.l2Find e.1 with
      | some (w, l) => (((s.untrack l pfNever).pfCount (16 + d) pfIssue)).l2Put e.1 w (some { l with track := some (16 + d) })
      | none => s) s

/-- One chunk of a PREFETCH, whose bytes leave the bucket when they have come; a chunk whose host read is not answered yet leaves its turn to the next transfer. -/
def State.preChunk (s : State) (d : Nat) (t : Transfer) (n : Nat) : State :=
  let who : Agent := .pkt t.q t.pos
  let put (s : State) (t : Transfer) (b : List Byte) (poison : Bool) : State :=
    let s := (s.writeMem (t.dst.toNat + t.next) b poison).trackLines d t n
    let k := s.die d
    let s := s.setDie d { k with tny := { k.tny with pfB := satAdd k.tny.pfB n } }
    (((s.tokens d t.part n false).getD s).forget who).moveOn d t n
  let a := t.src.toNat + t.next
  match s.winRead who t.part a n with
  | (s, .wait) => s.moveOn d t 0
  | (s, .fail x) => s.moveEnd d t stMEM (w64 x)
  | (s, .poison x) =>
    let (s, b) := s.freeBytes n
    put (s.consume 6 (qKey t.q) t.part d x) { t with bad := t.bad <|> some x } b true
  | (s, .bytes b) => put s t b false

/-- TANNERY_TRANSFER (R281): the first of the 16 active transfers whose partition's bucket allows it moves a chunk of 4 KiB. -/
def execTanneryTransfer (die : DieId) (s : State) : Out :=
  s.cmd fun s =>
  let d := die.val
  let size (t : Transfer) : Nat := min 4096 (t.len - t.next)
  match ((s.die d).tny.moves.take 16).findSome? (fun t => (s.tokens d t.part (size t) (!t.pref)).map (fun u => (t, u))) with
  | none => fin s
  | some (t, u) =>
    match s.chunkBad t (size t) with
    | some i => fin (s.moveEnd d t stNO_PERM (locWord i))
    | none => fin (if t.pref then s.preChunk d t (size t) else u.offChunk d t (size t))

/-- The checks and the start of OFFLOAD (`pref` false) and PREFETCH (R280, Table 14.5): a zero length completes, else the
transfer waits for a place. -/
def State.tannery (s : State) (q : QId) (p : Pkt) (pref : Bool) : State :=
  let src := p.word 0
  let dst := p.word 1
  let n := (p.word 2).toNat
  if n = 0 then s.finish q p stOK 0
  else if src.toNat % 32 ≠ 0 then s.badWord q p stBAD_PARAM 0
  else if dst.toNat % 32 ≠ 0 then s.badWord q p stBAD_PARAM 1
  else if n % 32 ≠ 0 then s.badWord q p stBAD_PARAM 2
  else
    match s.rangeBad p.part src n (!pref) pref, s.rangeBad p.part dst n pref (!pref) with
    | some st, _ => s.badWord q p st 0
    | none, some st => s.badWord q p st 1
    | none, none =>
      let d := q.die.val
      let t : Transfer := { q := q, pos := p.pos, part := p.part, pref := pref, src := src, dst := dst, len := n }
      s.setMoves d ((s.die d).tny.moves ++ [t])

/-- OFFLOAD (R280). -/
def execOffload (p : PktRef) (s : State) : Out :=
  s.cmd fun s =>
  s.pktRow p 0x14 (fun s q k fresh => if fresh then s.tannery q k false else s)

/-- PREFETCH (R280). -/
def execPrefetch (p : PktRef) (s : State) : Out :=
  s.cmd fun s =>
  s.pktRow p 0x15 (fun s q k fresh => if fresh then s.tannery q k true else s)

end Sys2Proof.Machine
end

