-- ==== Sys2Proof/Machine/Regions.lean ====
section
/-! DEFINITION. Census packets, layer regions and the poisoning of steps (R184 to R206): counts and reports, CENSUS_CFG,
CENSUS_READ, LAYER_BEGIN, LAYER_COMMIT, the arrival of an acknowledged SIGNAL. -/

namespace Sys2Proof.Machine

/-- HARNESS_REPORT: an accumulator report of a core reaches the Harness (R165, R199). -/
def execHarnessReport (core : CoreId) (acc : Fin 4) (mark : AccMark) (s : State) : Out :=
  s.cmd fun s =>
  fin (s.harnessReport core.val acc.val mark false)

/-- CENSUS_COUNT: a count reaches a slot from a task of a queue (R188, R189). -/
def execCensusCount (die : DieId) (slot : BitVec 10) (part : PartId) (queue : Fin 64) (n : Counts) (s : State) : Out :=
  s.cmd fun s =>
  fin (s.censusCount die.val slot.toNat part (some queue) (s.regionOn part queue) n)

/-- The slots that a census packet names: die, first slot, number of slots. -/
def Pkt.cslots (p : Pkt) : Nat × Nat × Nat := (field (p.word 0) 10 1, field (p.word 0) 0 10, field (p.word 0) 11 11)

/-- The read-only PART field of CNS_CTL. -/
def cnsPart : Word := ones 18 5

/-- CNS_CTL of a slot once a CENSUS_CFG has acted. -/
def Pkt.newCtl (p : Pkt) (c : CSlot) : Word := if bitAt (p.word 0) 24 then p.word 1 &&& ~~~cnsPart else c.ctl

/-- Does CENSUS_CFG wait for the region on a slot's enrolled queue (R192)? -/
def State.cfgWaits (s : State) (p : Pkt) (d n : Nat) : Bool :=
  let c := s.cslot d n
  let v := p.newCtl c
  let changes := decide (field v 0 1 ≠ field c.ctl 0 1) || decide (field v 23 6 ≠ field c.ctl 23 6)
  (changes || bitAt (p.word 0) 26 || bitAt (p.word 0) 27) &&
    s.regionOn (partId (s.censusOwner d n)) ⟨field c.ctl 23 6 % 64, Nat.mod_lt _ (by omega)⟩

/-- CENSUS_CFG on one slot: CLOSE, CLEAR, WTHR, WCTL (R192). -/
def State.cfgSlot (s : State) (p : Pkt) (d n : Nat) : State :=
  let w := p.word 0
  let s := if bitAt w 27 then s.censusClose d n (p.word 3) else s
  let s := if bitAt w 26 then
      s.setCslot d n { s.cslot d n with cur := {}, last := {}, streak := 0, lstep := 0, flags := 0 }
    else s
  let s := if bitAt w 25 then s.setCslot d n { s.cslot d n with thr := p.word 2 } else s
  let c := s.cslot d n
  s.setCslot d n { c with ctl := p.newCtl c }

/-- A block of the slots that a packet names is not the partition's. -/
def State.slotsForeign (s : State) (part d n k : Nat) : Bool :=
  (List.range k).any (fun i => decide (s.censusOwner d (n + i) ≠ part))

/-- CENSUS_CFG (R184, R191, R192). While it waits for a region it has begun and changes nothing. -/
def State.censusCfg (s : State) (q : QId) (p : Pkt) : State :=
  let (d, n, k) := p.cslots
  let evBad (i : Nat) : Bool :=
    let v := p.newCtl (s.cslot d (n + i))
    bitAt v 35 && decide (s.syncOwner d (field v 36 12) ≠ p.part)
  if k = 0 then s.finish q p stOK 0
  else if 1024 < n + k then s.badWord q p stBAD_PARAM 0
  else if s.slotsForeign p.part d n k then s.badWord q p stNO_PERM 0
  else if (List.range k).any evBad then s.badWord q p stNO_PERM (if bitAt (p.word 0) 24 then 1 else 0)
  else if (List.range k).any (fun i => s.cfgWaits p d (n + i)) then s
  else ((List.range k).foldl (fun s i => s.cfgSlot p d (n + i)) s).finish q p stOK 0

/-- CENSUS_CFG. -/
def execCensusCfg (p : PktRef) (s : State) : Out :=
  s.cmd fun s =>
  s.pktRow p 0x16 (fun s q k _ => s.censusCfg q k)

/-- The five words of some counts, in register order (Table 9.1). -/
def Counts.words (c : Counts) : List Nat := [c.elems, c.zero, c.ufl, c.sat, c.nonfin]

/-- CNS_CTL as it reads. -/
def CSlot.ctlWord (c : CSlot) (part : Nat) : Word := c.ctl ||| place part 18 5

/-- CNS_STAT. -/
def CSlot.stat (c : CSlot) : Word := place c.lstep.toNat 32 32 ||| place c.streak 16 16 ||| place c.flags.toNat 0 4

/-- The 13 registers of a slot (R185). -/
def State.slotWords (s : State) (d n : Nat) : List Nat :=
  let c := s.cslot d n
  [(c.ctlWord (s.censusOwner d n)).toNat, c.thr.toNat, c.stat.toNat] ++ Counts.words c.cur ++ Counts.words c.last

/-- The lowest poisoned sector of LPDDR6 among those that a write of `n` bytes at `a` covers in part, and so reads (R400, Table
19.3). -/
def State.edgeBad (s : State) (q : QId) (part a n : Nat) : State × Option Nat :=
  let e := a + n
  let l := ([a, e].filter (fun x => decide (x % 32 ≠ 0))).map (fun x => x / 32 * 32)
  l.eraseDups.foldl (fun (r : State × Option Nat) x =>
    let (s, _, bad) := r.1.pktSectors q part x 32
    (s, r.2 <|> bad.head?)) (s, none)

/-- CENSUS_READ (R185, Table 14.5): a poisoned sector that the buffer covers in part is read, and ends the packet with
UNCORRECTED once the result is written (log 69); 104 bytes per slot, then the partition's unenrolled count when UNENR is 1. -/
def State.censusRead (s : State) (q : QId) (p : Pkt) : State :=
  let (d, n, k) := p.cslots
  let un := bitAt (p.word 0) 28
  let dst := p.word 1
  let len := 104 * k + if un then 8 else 0
  if len = 0 then s.finish q p stOK 0
  else if 1024 < n + k then s.badWord q p stBAD_PARAM 0
  else if s.slotsForeign p.part d n k then s.badWord q p stNO_PERM 0
  else if dst.toNat % 8 ≠ 0 then s.badWord q p stBAD_PARAM 1
  else
    match s.rangeBad p.part dst len true true with
    | some st => s.badWord q p st 1
    | none =>
      let words := (List.range k).flatMap (fun i => s.slotWords d (n + i)) ++
        (if un then [tget 0 (s.die d).census.unenr p.part] else [])
      let b := words.flatMap (toBytes 8)
      let a := dst.toNat
      match (if a < 0x30000000000 then s.edgeBad q p.part a len else (s, none)) with
      | (s, none) => s.putResult q p a b (w64 len)
      | (s, some x) => (s.writeMem a b false).finish q p stUNCORR (w64 x)

/-- CENSUS_READ. -/
def execCensusRead (p : PktRef) (s : State) : Out :=
  s.cmd fun s =>
  s.pktRow p 0x17 (fun s q k _ => s.censusRead q k)

/-- LAYER_BEGIN opens a region (R193, R197): its block is set to zero, its reply and the signals outside the block are held. -/
def State.openRegion (s : State) (q : QId) (p : Pkt) : State :=
  let w := p.word 0
  let die : DieId := if bitAt w 16 then 1 else 0
  let g : Region := { startPos := p.pos, len := field w 0 11, rung := field w 12 2, blockDie := die, block := field w 17 6, part := p.part,
                      beginReply := some (p.reply q.part.val stOK 0) }
  let g : Region := { g with
    beginSigs := (p.sigs.filter (fun x => !s.inBlock g x)).map (sigOf p.part) }
  let now := p.sigs.filter (s.inBlock g)
  let u := s.queue q
  let s := s.setQueue q { u with region := some g, pkts := u.pkts.filter (fun x => !decide (x.pos = p.pos)) }
  runJobs jobFuel (now.map (fun x => .pair q p.pos (sigOf p.part x))) (s.zeroBlock die.val g.block g.part)

/-- LAYER_BEGIN (R193). -/
def State.layerBegin (s : State) (q : QId) (p : Pkt) : State :=
  let u := s.queue q
  let w := p.word 0
  if 0x100000000000 ≤ u.qbase.toNat ∨ u.region.isSome ∨ !u.stepOpen then s.finish q p stBAD_PARAM locHdr
  else if 2 < field w 12 2 then s.badWord q p stBAD_PARAM 0
  else if s.syncOwner (field w 16 1) (64 * field w 17 6) ≠ p.part then s.badWord q p stBAD_PARAM 0
  else if 1024 < field w 0 11 ∨ 2 ^ field u.cfg 0 5 ≤ field w 0 11 then s.badWord q p stBAD_LENGTH 0
  else if field w 0 11 = 0 then s.finish q p stOK 0
  else s.openRegion q p

/-- LAYER_BEGIN. -/
def execLayerBegin (p : PktRef) (s : State) : Out :=
  s.cmd fun s =>
  s.pktRow p 0x12 (fun s q k _ => s.layerBegin q k)

/-- LAYER_COMMIT (R194, R195, R200): outside a region it completes with BAD_PARAM; the region closes once every earlier
packet of it has completed, with BAD_LENGTH where the packet comes before the end. -/
def State.layerCommit (s : State) (q : QId) (p : Pkt) : State :=
  match (s.queue q).region with
  | none => if p.work.isEmpty then s.finish q p stBAD_PARAM locHdr else s
  | some g =>
    if !s.quietFrom q g.startPos p.pos then s
    else s.commit q p g (if p.pos = g.startPos + g.len then none else some (stBAD_LENGTH, locHdr))

/-- LAYER_COMMIT. -/
def execLayerCommit (p : PktRef) (s : State) : Out :=
  s.cmd fun s =>
  s.pktRow p 0x13 (fun s q k _ => (s.layerCommit q k).pump q)

/-- A PSN SIGNAL of another device reaches its object (R203, R254, R350): refused where the partition of its number does
not hold the object's block. -/
def State.psnArrive (s : State) (src part die obj : Nat) (v : Word) (tag : Nat) : State :=
  if s.syncOwner die obj ≠ part ∨ s.own.dying = some part then
    let u := (s.die die).sync
    let s := s.setSync die { u with rrefused := satAdd u.rrefused 1 }
    (s.remoteFail die 1 5 part src 2 1).respond src part tag 2 1
  else runJobs jobFuel [.arrive src none part die obj v tag] s

/-- ACKNOWLEDGED_SIGNAL. -/
def execAcknowledgedSignal (src : BitVec 14) (part : PartId) (o : ObjId) (v : Word) (tag : BitVec 16) (s : State) : Out :=
  s.cmd fun s =>
  fin (s.psnArrive src.toNat part.val o.die.val o.obj.toNat v tag.toNat)

end Sys2Proof.Machine
end

