-- ==== Sys2Proof/Machine/TimeOps.lean ====
section
/-! DEFINITION. The passage of time: one always-on tick of 25 MHz (R3, R377; log 1). -/

namespace Sys2Proof.Machine

/-- Core cycles, in tenths, that pass in an always-on tick at an operating point (Table 17.3): 1,100, 880, 660 and 550 MHz
over 25 MHz. -/
def cyclesX10 (pt : Nat) : Nat :=
  match pt with
  | 0 => 440 | 1 => 352 | 2 => 264 | _ => 220

/-- Core cycles in the always-on tick that ends at `now`. -/
def State.tickCycles (s : State) : Nat := s.now * cyclesX10 s.pwr.eff / 10 - (s.now - 1) * cyclesX10 s.pwr.eff / 10

/-- May a cluster enter OFF (R369): no task, no bound context, no wedged or halted core, RETAIN clear? -/
def State.clusterQuiet (s : State) (c : Nat) : Bool :=
  (List.range 8).all (fun i =>
    let k := s.core (8 * c + i)
    k.task.isNone && (match k.run with | .wedged _ | .halted => false | _ => true)) &&
  (s.stitcher c).ctxs.all (fun e => decide (e.2.st = .unbound)) && !bitAt s.pwr.clctl c && decide (s.dom (clDom c) = .on)

/-- Does nothing hold an L2 half on (R370), nor is a request open at a slice of the die? A fabric or host-port request to a die
is served in its own step, which starts the idle time again (`State.dieAsked`). -/
def State.halfQuiet (s : State) (d : Nat) : Bool :=
  bitAt s.pwr.clctl 40 && (List.range 8).all (fun c => decide (s.dom (clDom (8 * d + c)) = .off)) &&
  (s.die d).queues.all (fun e => e.2.pkts.all (fun p => decide (p.st = .waiting))) &&
  (s.die d).locks.isEmpty && (s.die d).groups.isEmpty && (s.die d).slices.all (fun e => e.2.miss.isEmpty && e.2.queue.isEmpty)

/-- A fabric or host-port request comes to a die: the time for which its L2 halves have been idle starts again (R370). -/
def State.dieAsked (s : State) (d : Nat) : State :=
  { s with pmem := { s.pmem with l2Idle := tset none s.pmem.l2Idle d none } }

/-- Since when a condition has held. -/
def heldSince (now : Nat) (old : Option Nat) (b : Bool) : Option Nat := if b then some (old.getD now) else none

/-- Note which clusters and L2 halves may enter OFF, and since when. -/
def State.trackIdle (s : State) : State :=
  let m := s.pmem
  let cl := (List.range 16).foldl (fun t c => tset none t c (heldSince s.now (tget none t c) (s.clusterQuiet c))) m.clIdle
  let l2 := [0, 1].foldl (fun t d => tset none t d (heldSince s.now (tget none t d) (s.halfQuiet d))) m.l2Idle
  { s with pmem := { m with clIdle := cl, l2Idle := l2 } }

/-- NoC cycles with a slice's queue full: 66 of 1.65 GHz in a tick (Table 10.7). -/
def State.countFull (s : State) (d : Nat) : State :=
  (s.die d).slices.foldl (fun s e =>
    if 256 ≤ e.2.queue.length then s.setSlice d e.1 { e.2 with qfull := satAdd e.2.qfull 66 } else s) s

/-- Does a die's core PLL run: a cluster that it clocks is on (R371)? -/
def State.coreClk (s : State) (d : Nat) : Bool := (List.range 8).any (fun c => decide (s.dom (clDom (8 * d + c)) = .on))

/-- One always-on tick: the timestamps advance by one; each die's core clock, while it runs, advances by its cycles at the
operating point in force; PWR_ILIMCYC counts under a fast current limit (R367). -/
def State.tick (s : State) : State :=
  let s := { s with now := s.now + 1 }
  if s.pmem.lost then s
  else
    let n := s.tickCycles
    let adv (s : State) (d : Nat) : State :=
      let k := s.die d
      if s.coreClk d then s.setDie d { k with cyc := k.cyc + n } else s
    let s := adv (adv s 0) 1
    let s := if (s.pmem.fcl || s.pmem.crit) && (s.coreClk 0 || s.coreClk 1) then { s with pwr := { s.pwr with ilimCyc := satAdd s.pwr.ilimCyc n } } else s
    ((s.countFull 0).countFull 1).trackIdle

end Sys2Proof.Machine
end

