-- ==== Sys2Proof/Machine/FrameOps.lean ====
section
/-! DEFINITION. Frames as they arrive: the form of each type (R347), what a target does with a request (R348), what an
outcome does for its requester (R349 to R351), forwarding (R355, R357), and the link state (R358, R359). -/

namespace Sys2Proof.Machine

/-- A payload of whole sectors from `n` on crosses no 4 KiB boundary. -/
def inPage (a n : Nat) : Bool := decide (a % 32 = 0) && decide (a % 4096 + 32 * n ≤ 4096)

/-- The fields of a frame other than LINK keep to Tables 16.1 and 16.2 (R347). -/
def frameOk (f : Frame) : Bool :=
  let a := field f.h2 0 48
  let resp := decide (f.type = 3 ∨ f.type = 7)
  decide (f.len ≤ 16) && decide (f.payload.length = f.len) && (bitAt f.h0 59 == resp) && (f.det || decide (f.inter = 0)) &&
  (match f.type with
   | 1 => decide (f.flags = 0) && decide (1 ≤ f.len) && decide (field f.h2 48 16 = 0) && inPage a f.len &&
       decide (f.h3.toNat < 2 ^ f.len)
   | 2 => decide (f.flags = 0) && decide (f.len = 0) && decide (field f.h2 48 16 = 0) && decide (1 ≤ f.h3.toNat) &&
       decide (f.h3.toNat ≤ 16) && inPage a f.h3.toNat
   | 3 => decide (f.flags = 0) && decide (1 ≤ f.len) && decide (field f.h2 48 16 = 0) && decide (f.h3 = 0) && inPage a f.len
   | 4 => decide (f.flags = 0) && decide (f.len = 4) && decide (field f.h2 48 16 = 0) && decide (a % 128 = 0) &&
       decide (field f.h3 32 16 = 0)
   | 5 => decide (f.flags ≤ 1) && decide (f.len = 0) && decide (field f.h2 16 48 = 0) && decide (field f.h2 13 3 ≤ 2)
   | 6 => decide (f.flags = 0) && decide (2 ≤ f.len) && decide ((f.payload.headD 0).toNat < 2 ^ 32)
   | 7 => decide (f.flags = 0) && decide (f.len = 0) && decide (field f.h2 16 48 = 0) && decide (field f.h2 0 8 ≤ 4) &&
       decide (field f.h3 14 50 = 0)
   | _ => false)

/-- A LINK frame keeps to Table 16.2. -/
def linkOk (f : Frame) : Bool :=
  let sub := field f.h2 56 8
  decide (f.type = 0) && decide (f.flags = 0) && decide (f.h3 = 0) && decide (sub ≤ 3) && decide (f.payload.length = f.len) &&
    decide (f.len = if sub ≤ 1 then 0 else 1)

/-- A target refuses a request: REFUSE with a reason, and the record (R348, R254). -/
def State.refuseFrame (s : State) (die : Nat) (f : Frame) (reason : Nat) : State :=
  (s.remoteFail die 1 f.type f.part f.src 2 reason).respond f.src f.part f.tag 2 reason

/-- A target accepts a request. -/
def State.acceptFrame (s : State) (f : Frame) : State := s.respond f.src f.part f.tag 0 0

/-- The checks of a remote access to memory (R19, R26): the reason of a refusal. A partition that PART_DESTROY has begun to
take apart is refused what arrives for it (R28). -/
def State.remoteBad (s : State) (part a : Nat) : Option Nat :=
  match locPA a with
  | .dram d pa => if s.granOwner (.dram d pa) = some part ∧ s.own.dying ≠ some part then none else some 1
  | _ => some 2

/-- A PUT at its target: each masked sector is written at its home L2 (R348). -/
def State.onPut (s : State) (f : Frame) : State :=
  let a := field f.h2 0 48
  match s.remoteBad f.part a with
  | some r => s.refuseFrame (homeDie a) f r
  | none =>
    let s := (f.payload.zipIdx).foldl (fun s e =>
      if bitAt f.h3 e.2 then s.writeMem (a + 32 * e.2) (toBytes 32 e.1.toNat) false else s) s
    s.acceptFrame f

/-- A GET at its target: GETR with the sectors, or a refusal (R348, R400). -/
def State.onGet (s : State) (f : Frame) : State :=
  let a := field f.h2 0 48
  match s.remoteBad f.part a with
  | some r => s.refuseFrame (homeDie a) f r
  | none =>
    match s.readMem a (32 * f.h3.toNat) with
    | (s, _, some x) => (s.consume 8 f.src f.part (homeDie a) x).refuseFrame (homeDie a) f 8
    | (s, b, none) => s.send (s.mkFrame 3 1 f.src f.part 0 f.tag (w64 a) 0 (sectorsOf b))

/-- A REDUCE at its target: the line is a contribution (R229, R348). -/
def State.onReduce (s : State) (f : Frame) : State :=
  let a := field f.h2 0 48
  let data : Line := (f.payload.zipIdx).foldl (fun l e => setLineSec l e.2 e.1) 0
  if 16 < f.part ∨ s.own.dying = some f.part then s.refuseFrame (homeDie a) f 1
  else
    let c : Contribution := { line := BitVec.ofNat 48 a, mask := BitVec.ofNat 4 (field f.h3 48 4), data := data,
                              part := partId f.part, g := BitVec.ofNat 8 (field f.h3 56 8),
                              rank := BitVec.ofNat 4 (field f.h3 52 4), step := BitVec.ofNat 32 (field f.h3 0 32) }
    match s.contribute c with
    | (s, .accept) => s.acceptFrame f
    | (s, .retry) => s.respond f.src f.part f.tag 1 0
    | (s, .refuse r) => s.refuseFrame (homeDie a) f r

/-- A SIGNAL at its target (R254, R350). -/
def State.onSignal (s : State) (f : Frame) : State :=
  let die := field f.h2 12 1
  let obj := field f.h2 0 12
  if bitAt f.h0 0 then s.psnArrive f.src f.part die obj f.h3 f.tag
  else if s.syncOwner die obj ≠ f.part ∨ s.own.dying = some f.part then
    let u := (s.die die).sync
    (s.setSync die { u with rrefused := satAdd u.rrefused 1 }).refuseFrame die f 1
  else (s.signal die obj (field f.h2 13 3) f.h3).acceptFrame f

/-- The device cores that an MCAST frame masks. -/
def frameCores (f : Frame) : List Nat :=
  (List.range 128).filter (fun c => bitAt (if c < 64 then f.h2 else f.h3) (c % 64))

/-- An MCAST frame at its target: every masked core is checked before any byte is written (R348). -/
def State.onMcast (s : State) (f : Frame) : State :=
  let off := field (f.payload.headD 0) 0 32
  let b := (f.payload.drop 1).flatMap (fun d => toBytes 32 d.toNat)
  let ok (c : Nat) : Bool := decide (s.owner (c / 8) = f.part) && decide (s.own.dying ≠ some f.part) && !s.clDead (c / 8) &&
    decide (off + b.length ≤ lbSize (s.core c))
  if (frameCores f).all ok then
    ((frameCores f).foldl (fun s c => s.landPut c off b) s).acceptFrame f
  else s.refuseFrame ((frameCores f).headD 0 / 64) f 7

/-- The outcome of a request frame (R349). `lost` is undeliverable: the code is 3 for UNDELIV, 5 for FAB_E2E. -/
inductive Outcome where
  | accept (data : List Byte)
  | retry
  | refuse (reason : Nat)
  | lost (code reason : Nat)
  | held
  deriving DecidableEq, Repr

/-- The die of an agent. -/
def agentDie : Agent → Nat
  | .core c => c / 64
  | .ctx cl _ => cl / 8
  | .pkt q _ => q.die.val
  | .ring q => q.die.val
  | .tny d => d
  | .sync _ => 0
  | .eth n _ => n

/-- The record of a request that failed, on the requester's device. -/
def State.reqFail (s : State) (r : FReq) (o : Outcome) : State :=
  let d := agentDie r.who
  match o with
  | .refuse n => s.remoteFail d 0 r.frame.type r.frame.part r.frame.dst 2 n
  | .lost c n => s.remoteFail d 0 r.frame.type r.frame.part r.frame.dst c n
  | _ => s

/-- Join the answer of one frame to the read that it belongs to. -/
def State.joinAns (s : State) (who : Agent) (addr total off : Nat) (b : List Byte) (f : Option ReadFail) : State :=
  let old : Ans := (s.answer who addr total).getD { who := who, addr := addr, len := total, bytes := List.replicate total 0 }
  let bytes := old.bytes.take off ++ b ++ old.bytes.drop (off + b.length)
  let fail := match old.fail, f with
    | none, x => x
    | x, none => x
    | some (.poisoned i), some (.poisoned j) => some (.poisoned (min i j))
    | some (.poisoned _), x => x
    | x, _ => x
  let keep := s.answers.filter (fun a => !(decide (a.who = who) && decide (a.addr = addr) && decide (a.len = total)))
  { s with answers := keep ++ [{ old with bytes := if f.isSome then old.bytes else bytes, fail := fail }] }

/-- Why a frame of a read failed. A poisoned source names no sector: which of the frame's it is is free (log 5). -/
def State.frameFail (s : State) (off len : Nat) (o : Outcome) : State × ReadFail :=
  match o with
  | .refuse 8 => let (v, s) := s.free; (s, .poisoned (off + 32 * (v.toNat % max 1 (len / 32))))
  | .refuse n => (s, .refuse n)
  | _ => (s, .undeliv)

/-- A packet that waits for remote answers takes a failure as its status, unless it has one (Table 16.4). -/
def State.pktRemote (s : State) (q : QId) (pos dev : Nat) (word : Nat) (o : Outcome) : State :=
  match (s.queue q).pkts.find? (fun p => decide (p.pos = pos)) with
  | none => s
  | some p =>
    let st : Byte := match o with | .refuse 2 => stBAD_PARAM | .refuse _ => stNO_PERM | _ => stPARTNER
    let d : Word := match o with | .refuse _ => locWord word | _ => w64 dev
    if p.work.getD 1 1 = 0 then s.setPkt q { p with work := [1, st.setWidth 64, d] } else s

/-- Did the request succeed? -/
def Outcome.ok : Outcome → Bool
  | .accept _ => true
  | _ => false

/-- A frame of a multicast buffer was answered (R276, R279): when every frame to the same receivers is accepted they have the
buffer and their ARR is signalled; a failure drops them. -/
def State.mcAnswer (s : State) (cl n run idx : Nat) (f : Frame) (o : Outcome) : State :=
  match (s.stitcher cl).runs.find? (fun m => decide (m.id = run)) with
  | none => s
  | some m =>
    let dev := f.dst
    let mine (r : Recv) : Bool := s.recvRemote r && decide (field r.e0 48 14 = dev) && r.flight && decide (r.got = idx) &&
      decide (f.h2 &&& r.mask 0 ||| f.h3 &&& r.mask 1 ≠ 0)
    let more := s.fab.reqs.any (fun e => match e.2 with
      | some r => decide (r.who = .ctx cl n) && decide (r.kind = .mcast run idx) && decide (r.frame.dst = dev) &&
          decide (r.frame.h2 = f.h2 ∧ r.frame.h3 = f.h3)
      | none => false)
    if !o.ok then
      let why := match o with | .refuse r => 2 + 256 * r | .lost c r => c + 256 * r | _ => 0
      let seqNo := ((m.bufs.find? (fun b => decide (b.idx = idx))).map (·.seqNo)).getD 0
      let s := (m.recvs.zipIdx.filter (fun e => mine e.1)).foldl (fun s e => s.mcLog 0x42 cl m e.2 e.1 seqNo [w64 why]) s
      let m := { m with recvs := m.recvs.map (fun r => if mine r then { r with dropped := true, flight := false } else r) }
      let (s, l) := s.mcPump cl m
      runJobs jobFuel l s
    else if more then s
    else
      let got := m.recvs.filter mine
      let tell (s : State) (r : Recv) : State :=
        if s.noRoute dev then s.rnak (cl / 8) (s.owner cl) dev 6 0
        else s.signalRemote (.ctx cl n) (s.owner cl) dev 1 (r.core / 64) r.arr 1
      let m := { m with recvs := m.recvs.map (fun r => if mine r then { r with got := r.got + 1, flight := false } else r) }
      let s := got.foldl tell (s.setRun cl m)
      let (s, l) := s.mcPump cl m
      runJobs jobFuel l s

/-- Replace an outstanding request. -/
def State.keepReq (s : State) (tag : Nat) (r : FReq) : State := s.addReq tag r

/-- An outcome of a contribution (R271): RETRY is counted, and past the limit faults its context, unless that binding has
faulted already; a refusal or a loss is counted. -/
def State.redAnswer (s : State) (tag : Nat) (r : FReq) (cl n retries : Nat) (o : Outcome) : State :=
  match o with
  | .retry =>
    let s := (s.addReq tag { r with kind := .red (retries + 1) true }).redRetried cl
    if retries + 1 < s.retryLim cl then s
    else if r.stale then s.dropReq tag
    else (s.dropReq tag).ctxFault cl n ⟨8, 0, 0⟩
  | .accept _ => s
  | _ => (s.reqFail r o).redRefused cl

/-- An outcome of a poisoning SIGNAL (R203, R204, R351): at most three resends, 10 ms apart, before HELD; HELD from a device
that the table already marks unreachable is undeliverable. -/
def State.psnAnswer (s : State) (tag : Nat) (r : FReq) (retries : Nat) (o : Outcome) : State :=
  match o with
  | .accept _ => runJobs jobFuel [.acked tag false] (s.addReq tag r)
  | .held =>
    let s := s.addReq tag { r with kind := .psn retries true false }
    if s.noRoute r.frame.dst then runJobs jobFuel [.acked tag true] s else s
  | .lost _ _ =>
    if 3 ≤ retries then runJobs jobFuel [.acked tag true] ((s.addReq tag r).reqFail r o)
    else s.addReq tag { r with kind := .psn retries false true, sent := s.now }
  | _ => runJobs jobFuel [.acked tag true] ((s.addReq tag r).reqFail r o)

/-- A failed write reaches its requester (Table 16.4). -/
def State.writeLost (s : State) (r : FReq) (va : Word) (o : Outcome) : State :=
  match r.who with
  | .core c =>
    let f : ReadFail := match o with | .refuse n => .refuse n | _ => .undeliv
    { s with answers := s.answers ++ [{ who := .core c, addr := va.toNat, len := 0, bytes := [], fail := some f }] }
  | .ctx cl n => if !r.stale && ((s.ctx cl n).st = .running ∨ (s.ctx cl n).st = .held) then s.ctxFault cl n ⟨9, 0, va⟩ else s
  | .pkt q pos => s.pktRemote q pos r.frame.dst 1 o
  | _ => s

/-- A signal that was refused or lost (R254): SYN_RNAK of the sender's die, the record, and a SYNC_SIGNAL packet's status. -/
def State.signalLost (s : State) (r : FReq) (o : Outcome) : State :=
  let (c, n) := match o with | .refuse n => (2, n) | .lost c n => (c, n) | _ => (0, 0)
  let s := s.rnak (agentDie r.who) r.frame.part r.frame.dst c n
  match r.who with
  | .pkt q pos => s.pktRemote q pos r.frame.dst 0 o
  | _ => s

/-- An agent whose request was answered may go on: a core that holds issue for it. -/
def State.answered (s : State) (who : Agent) : State :=
  match who with
  | .core c => s.release c
  | _ => s

/-- A signal of a packet has been answered: those of its queue that waited for it go on (R254). -/
def State.sigNext (s : State) (r : FReq) : State :=
  match r.kind, r.who with
  | .signal, .pkt q _ => runJobs jobFuel [.sigs q] s
  | _, _ => s

/-- Every queue looks at its next packet (R308). -/
def State.pumpAll (s : State) : State := s.queues.foldl (fun s q => s.pump q) s

/-- The outcome of a request reaches its requester (R349). -/
def State.reqDone (s : State) (tag : Nat) (r : FReq) (o : Outcome) : State :=
  let s := s.dropReq tag
  let s := match r.kind with
    | .read addr total off len =>
      match o with
      | .accept b => s.joinAns r.who addr total off (b.take len) none
      | _ =>
        let (s, f) := (s.reqFail r o).frameFail off len o
        s.joinAns r.who addr total off [] (some f)
    | .write va => if o.ok then s else (s.reqFail r o).writeLost r va o
    | .signal => if o.ok then s else s.signalLost r o
    | .red n _ => (match r.who with | .ctx cl c => s.redAnswer tag r cl c n o | _ => s)
    | .mcast run idx => (match r.who with
      | .ctx cl c => (s.reqFail r o).mcAnswer cl c run idx r.frame o
      | _ => s)
    | .psn n _ _ => (s.psnAnswer tag r n o).pumpAll
  (s.sigNext r).answered r.who

/-- Has a request ended that is to be sent again: a poisoning SIGNAL in its 10 ms wait (R351)? -/
def FKind.ended : FKind → Bool
  | .psn _ _ due => due
  | _ => false

/-- A response arrives (R348, R349): one whose request has ended is counted in FAB_LATE. -/
def State.onResponse (s : State) (tag : Nat) (o : Outcome) : State :=
  let late : State := { s with fab := { s.fab with late := satAdd s.fab.late 1 } }
  match tget none s.fab.reqs tag with
  | none => late
  | some r => if r.kind.ended then late else s.reqDone tag r o

/-- A RESP arrives (Table 16.3). -/
def State.onResp (s : State) (f : Frame) : State :=
  let reason := field f.h2 8 8
  s.onResponse f.tag (match field f.h2 0 8 with
    | 0 => .accept []
    | 1 => .retry
    | 2 => .refuse reason
    | 3 => .lost 3 reason
    | _ => .held)

/-- A GETR arrives. -/
def State.onGetr (s : State) (f : Frame) : State :=
  s.onResponse f.tag (.accept (f.payload.flatMap (fun d => toBytes 32 d.toNat)))

/-- The dies that a request frame comes to. -/
def reqDies (f : Frame) : List Nat :=
  match f.type with
  | 1 | 2 | 4 => [homeDie (field f.h2 0 48)]
  | 5 => [field f.h2 12 1]
  | 6 => ((frameCores f).map (· / 64)).eraseDups
  | _ => []

/-- A frame for this device (R348). -/
def State.deliver (s : State) (f : Frame) : State :=
  let s := (reqDies f).foldl State.dieAsked s
  match f.type with
  | 1 => s.onPut f
  | 2 => s.onGet f
  | 3 => s.onGetr f
  | 4 => s.onReduce f
  | 5 => s.onSignal f
  | 6 => s.onMcast f
  | 7 => s.onResp f
  | _ => s

/-- Pass a frame on in transit (R354 to R357); `dim` is the dimension it came in. A link that is not usable discards it, and
a request is answered with UNDELIV. -/
def State.forward (s : State) (dim : Nat) (f : Frame) : State :=
  let leg1 := bitAt f.h0 58
  let at_ := f.det && !leg1 && decide (f.inter = s.devid)
  let h0 := if at_ then putField (putField f.h0 58 1 1) 57 1 0 else f.h0
  let target := if f.det && !bitAt h0 58 then f.inter else f.dst
  match s.hop s.devid target with
  | none => s
  | some (port, wrap) =>
    if s.usable s.devid port then
      let line := wrap || (bitAt h0 57 && decide (port / 2 = dim))
      s.sendOn port { f with h0 := putField h0 57 1 (b2n line) }
    else if bitAt f.h0 59 then s
    else
      let s := { s with fab := { s.fab with undel := satAdd s.fab.undel 1 } }
      s.respond f.src f.part f.tag 3 1

/-- A good frame other than LINK has arrived on a port (R354, R356): it is this device's, or in transit. -/
def State.take_ (s : State) (port : Nat) (f : Frame) : State :=
  if f.dst = s.devid then s.deliver f else s.forward (port / 2) f

/-- A LINK frame of a port: from this device to the one that R353 puts at the other end. -/
def State.linkFrame (s : State) (port sub : Nat) (seq : BitVec 16) (payload : List Sector) : Frame :=
  { h0 := place (((s.partner s.devid port).map (·.1)).getD 0) 42 14 ||| place s.devid 28 14 ||| place payload.length 4 5, h1 := 0, h2 := place sub 56 8 ||| place seq.toNat 0 16, h3 := 0, payload := payload }

/-- The LSA of an origin as a payload: DEVID in bytes 0 and 1, version in 4 to 7, the port fields in 8 and 9 (log 31). -/
def lsaPayload (dev ver : Nat) (v : BitVec 16) : Sector := BitVec.ofNat 256 (dev + ver % 2 ^ 32 * 2 ^ 32 + v.toNat * 2 ^ 64)

/-- The 2-bit field of a port: 0 not UP, 1 half width, 2 full width (R359). -/
def FPort.lsaField (p : FPort) : Nat := if p.st ≠ .up then 0 else if p.width = 3 then 2 else 1

/-- Send an LSA on every UP port but one (R359). -/
def State.floodLsa (s : State) (dev ver : Nat) (v : BitVec 16) (not : Option Nat) : State :=
  (List.range 8).foldl (fun s n =>
    if (s.fport n).st = .up ∧ some n ≠ not then s.sendOn n (s.linkFrame n 3 0 [lsaPayload dev ver v]) else s) s

/-- A local port's UP state or width changed (R359): a new version of this device's LSA. -/
def State.newLsa (s : State) : State :=
  let ver := s.fab.lsver + 1
  let v : BitVec 16 := (List.range 8).foldl (fun w n => w ||| BitVec.ofNat 16 ((s.fport n).lsaField * 2 ^ (2 * n))) 0
  let s := { s with fab := { s.fab with lsver := ver, lsas := tset none s.fab.lsas s.devid (some (ver, v)),
                                        lastLsa := (s.devid, ver) } }
  s.floodLsa s.devid ver v none

/-- Does a port of this device lead across the wrap of its dimension (R355)? -/
def State.wrapPort (s : State) (port : Nat) : Bool :=
  let x := s.coord s.devid (port / 2)
  if port % 2 = 0 then decide (x + 1 = 2 ^ s.logDim (port / 2)) else decide (x = 0)

/-- The frames of a port that left UP (R357): those never transmitted are routed again, the others discarded. A frame in
transit that waited to cross a wrap here has not crossed it, so bit 57 is as it came (R355). -/
def State.flushPort (s : State) (port : Nat) : State :=
  let p := s.fport port
  let s := s.setFport port { p with retry := [], wait := [], used := [], owed := [], txSeq := 0, rxSeq := 0, nakSent := false,
                                    nakN := 0, sentN := 0, left := none }
  let crosses := s.wrapPort port
  (p.wait.filter (fun f => f.type ≠ 0)).foldl (fun s f =>
    if f.src = s.devid then s.send f
    else s.forward (port / 2) (if crosses then { f with h0 := putField f.h0 57 1 0 } else f)) s

/-- A retrain of R345 has not restored its partner within 100 ms: the frames are handled under R357. -/
def State.retrainOver (s : State) (port : Nat) : State :=
  match (s.fport port).left with
  | some t => if t + 2500000 < s.now then s.flushPort port else s
  | none => s

/-- Why a port leaves UP in a PORT_LOST record (Table 16.10). -/
def lostLock : Nat := 0
def lostHello : Nat := 1
def lostRetry : Nat := 2
def lostCtrl : Nat := 3

/-- Send a frame of the retry buffer again, with the LACK of now (R345). -/
def State.resend (s : State) (port : Nat) (f : Frame) : State :=
  s.wire port { f with h1 := putField f.h1 32 16 (s.fport port).rxSeq.toNat }

/-- A port goes to another state. Leaving UP is logged and advertised; a retrain keeps the retry state (R345), any other
exit handles the frames under R357, as does DOWN while a retrain goes on. A loss of lock that may be the partner's retrain
keeps it too, and is counted as none of this port's. -/
def State.leave (s : State) (port : Nat) (st : PortSt) (cause : Nat) (retrain : Bool) : State :=
  let p := s.fport port
  let up := decide (p.st = .up)
  let q := { p with st := st, width := 0, retrain := if retrain && decide (cause ≠ lostLock) then satAdd p.retrain 1 else p.retrain }
  if !up then
    let s := s.setFport port q
    if st = .disabled ∧ p.left.isSome then s.flushPort port else s
  else
    let s := s.setFport port { q with left := if retrain then some s.now else none }
    let s := ((s.log 0x51 31 (4 + port / 2) (decide (p.dead ≠ 0) || (p.hurt && decide (cause = lostRetry)))
      [w64 port, w64 cause]).newLsa).healthCheck
    if retrain then s else s.flushPort port

/-- A port enters UP (R358, R359): after a retrain that restored the same partner within 100 ms the retry states go on from
the partner's expected LSEQ (R345), else they start afresh. So they do where that LSEQ names no frame that this port keeps or
sends next, for the partner has then kept none of its own. -/
def State.enterUp (s : State) (port dev pport : Nat) (expect : BitVec 16) : State :=
  let p := s.fport port
  let kept := (match p.left with | some t => decide (s.now - t ≤ 2500000) | none => false) &&
    decide (p.pdev = dev) && decide (p.pport = pport) &&
    decide ((expect - ((p.retry.head?.map Frame.lseq).getD p.txSeq)).toNat ≤ p.retry.length)
  let s := if kept then s else s.flushPort port
  let p := s.fport port
  let again := if kept then p.retry.drop ((expect - ((p.retry.head?.map Frame.lseq).getD p.txSeq)).toNat) else []
  let s := s.setFport port { p with st := .up, pdev := dev, pport := pport, heard := s.now, left := none, retry := again,
                                    nakSent := false, nakN := 0, sentN := 0, hurt := false }
  let s := s.log 0x50 31 (4 + port / 2) false [w64 port, w64 p.width, w64 dev, w64 pport]
  let s := again.foldl (fun s f => s.resend port f) s
  let s := (s.newLsa).healthCheck
  let s := s.fab.lsas.foldl (fun s e => match e.2 with
    | some (ver, v) => if e.1 = s.devid then s else s.sendOn port (s.linkFrame port 3 0 [lsaPayload e.1 ver v])
    | none => s) s
  s.drainPort port 4096

/-- FAB_CFG (Table 16.8). -/
def State.fabCfg (s : State) : Word :=
  place s.devid 48 14 ||| place (b2n s.badCfg) 20 1 ||| place (field s.pins.fcfg 26 4) 16 4 ||| place (s.logDim 3) 12 3 |||
    place (s.logDim 2) 8 3 ||| place (s.logDim 1) 4 3 ||| place (s.logDim 0) 0 3

/-- What a HELLO payload carries (R358; log 31): DEVID in bytes 0 and 1, the port in byte 2, FAB_CFG bits 19:0 in bytes 4 to
7, the expected LSEQ in bytes 8 and 9, the LSA version in bytes 12 to 15. -/
def State.helloPayload (s : State) (port : Nat) : Sector :=
  BitVec.ofNat 256 (s.devid + port * 2 ^ 16 + field s.fabCfg 0 20 * 2 ^ 32 + (s.fport port).rxSeq.toNat * 2 ^ 64 +
    s.fab.lsver % 2 ^ 32 * 2 ^ 96)

/-- A HELLO arrives on a port (R358, Table 16.5). -/
def State.onHello (s : State) (port : Nat) (pl : Sector) : State :=
  let p := s.fport port
  let dev := field pl 0 14
  let pport := field pl 16 3
  let good := decide (s.partner s.devid port = some (dev, pport)) && decide (field pl 32 20 = field s.fabCfg 0 20)
  let seen := { p with heard := s.now }
  match p.st with
  | .up => s.setFport port { seen with pdev := dev, pport := pport }
  | .hello | .check | .miswired =>
    if good then (s.setFport port seen).enterUp port dev pport (BitVec.ofNat 16 (field pl 64 16))
    else
      let first := decide (p.st ≠ .miswired)
      let s := s.setFport port { seen with st := .miswired, pdev := dev, pport := pport }
      let (ed, ep) := (s.partner s.devid port).getD (0, 0)
      if first then s.log 0x52 31 (4 + port / 2) false [w64 port, w64 ed, w64 ep, w64 dev, w64 pport] else s
  | _ => s

/-- An LSA arrives (R359): stored and forwarded when it is newer than the one held for its origin. -/
def State.onLsa (s : State) (port : Nat) (pl : Sector) : State :=
  let dev := field pl 0 14
  let ver := field pl 32 32
  let v : BitVec 16 := BitVec.ofNat 16 (field pl 64 16)
  let newer := match tget none s.fab.lsas dev with | none => true | some (w, _) => decide (w < ver)
  if newer then
    let s := { s with fab := { s.fab with lsas := tset none s.fab.lsas dev (some (ver, v)), lastLsa := (dev, ver) } }
    s.floodLsa dev ver v (some port)
  else s

/-- A NAK arrives (R345): every frame from the named number on is sent again; the eighth that names the same number makes
the port retrain. -/
def State.onNak (s : State) (port : Nat) (seq : BitVec 16) : State :=
  let p := s.fport port
  if p.st ≠ .up then s
  else
    let n := if p.nakSeq = seq then p.nakN + 1 else 1
    let s := s.setFport port { p with nakSeq := seq, nakN := n }
    if 8 ≤ n then s.leave port .training lostRetry true
    else
      let again := p.retry.filter (fun f => decide ((f.lseq - seq).toNat < 32768))
      again.foldl (fun s f => s.resend port f) s

/-- Credit comes back on a channel (R346). -/
def State.onCredit (s : State) (port vc n : Nat) : State :=
  let p := s.fport port
  (s.setFport port { p with used := tmod 0 p.used vc (fun m => m - n) }).drainPort port 4096

/-- The partner's LACK frees the frames before it (R345). -/
def State.onLack (s : State) (port : Nat) (lack : BitVec 16) : State :=
  let p := s.fport port
  let l := p.retry.filter (fun f => !decide (1 ≤ (lack - f.lseq).toNat ∧ (lack - f.lseq).toNat < 32768))
  s.setFport port { p with retry := l, hurt := p.hurt && decide (l.length = p.retry.length) }

/-- A frame is discarded on a port (R345): the first discard after a frame that was not sends a NAK (log 52); the eighth NAK
that names the same number makes the port retrain, as it does the partner. -/
def State.discard (s : State) (port : Nat) : State :=
  let p := s.fport port
  if p.st ≠ .up ∨ p.nakSent then s
  else
    let s := (s.setFport port { p with nakSent := true, nak := satAdd p.nak 1, sentN := p.sentN + 1 }).transmit port
      (s.linkFrame port 1 p.rxSeq [])
    if 8 ≤ p.sentN + 1 then s.leave port .training lostRetry true else s

/-- Credit goes back in a credit-only frame while the port has nothing else that it may send (R346). -/
def State.returnCredit (s : State) (port : Nat) : Nat → State
  | 0 => s
  | fuel + 1 =>
    let p := s.fport port
    if p.st = .up ∧ !p.owed.isEmpty ∧ (p.pick [] p.wait).isNone then
      (s.transmit port (s.linkFrame port 0 0 [])).returnCredit port fuel
    else s

/-- Act on a LINK frame. -/
def State.onLink (s : State) (port : Nat) (f : Frame) : State :=
  match field f.h2 56 8 with
  | 1 => s.onNak port (BitVec.ofNat 16 (field f.h2 0 16))
  | 2 => s.onHello port (f.payload.headD 0)
  | 3 => s.onLsa port (f.payload.headD 0)
  | _ => s

/-- Count the bytes of a frame received, or a frame that breaks Table 16.2. -/
def State.rxCount (s : State) (port : Nat) (f : Frame) (bad : Bool) : State :=
  let c := tget ({} : FCnt) s.fab.cnts port
  let c := { c with rx := satAdd c.rx (frameBytes f), bad := if bad then satAdd c.bad 1 else c.bad }
  { s with fab := { s.fab with cnts := tset {} s.fab.cnts port c } }

/-- Codewords that a port's FEC corrected while a frame came in (Table 16.6, R398). -/
def State.fecFixed (s : State) (port n : Nat) : State :=
  if n = 0 then s
  else
    let p := s.fport port
    (s.setFport port { p with feccorr := satAdd p.feccorr n }).correctedN 3 (256 + port) n (4 + port / 2) false 0

/-- A frame arrives on a port (R345 to R347): FEC, CRC, sequence, LACK and credit, then its own effect. -/
def State.receive (s : State) (port : Nat) (f : Frame) (crcOk : Bool) (uncorr : Nat) : State :=
  let p := s.fport port
  let link := decide (f.type = 0)
  let seqd := f.seqd
  if p.st = .disabled ∨ p.st = .training then s
  else if uncorr ≠ 0 then (s.setFport port { p with fecunc := satAdd p.fecunc uncorr }).discard port
  else if !crcOk then (s.setFport port { p with crcerr := satAdd p.crcerr 1 }).discard port
  else if p.st ≠ .up ∧ (!link ∨ seqd) then s
  else if seqd ∧ f.lseq ≠ p.rxSeq then s.discard port
  else
    let bad := if link then !linkOk f else !frameOk f
    let s := s.rxCount port f bad
    let p := { p with nakSent := false }
    let s := s.setFport port (if seqd then { p with rxSeq := p.rxSeq + 1, sentN := 0 } else p)
    let s := if p.st = .up then (s.onLack port f.lack).onCredit port f.cvc f.ccnt else s
    let s := if link then s
      else
        let p := s.fport port
        s.setFport port { p with owed := tmod 0 p.owed f.vc (· + f.units) }
    let s := if bad then s else if link then s.onLink port f else s.take_ port f
    s.returnCredit port 16

/-- LK1 and LK3 are OFF while both of their ports are DISABLED (Table 17.2). -/
def State.parkLinks (s : State) : State :=
  [1, 3].foldl (fun s n =>
    if (s.fport (2 * n)).st = .disabled ∧ (s.fport (2 * n + 1)).st = .disabled then
      { s with pwr := { s.pwr with dom := tset .on s.pwr.dom (26 + n) .off } }
    else s) s

end Sys2Proof.Machine
end

