-- ==== Sys2Proof/Machine/Channels.lean ====
section
/-! DEFINITION. What the memory controllers do on their own (R328 to R330): patrol scrub, refresh, self-refresh. -/

namespace Sys2Proof.Machine

/-- Bursts of a sub-channel: 16 banks of 196,608 rows of 64 columns (R322). -/
def subBursts : Nat := 16 * 196608 * 64

/-- The address of burst `i`, in bank, row and column order, of a sub-channel of channel `ch` of a die (R219, R323). -/
def burstAddr (d ch sub i : Nat) : Nat :=
  let col := i % 64
  let row := i / 64 % 196608
  let bank := i / 64 / 196608 % 16
  let line := col / 4
  let hi := 0x18000000000 * d + row * 2 ^ 23 + line * 2 ^ 19 + (bank ^^^ line) * 2 ^ 15 + sub * 2 ^ 14 + ch % 2 * 2 ^ 13
  hi + (ch / 2 ^^^ paSlice hi) * 2 ^ 7 + col % 4 * 32

/-- Parking puts every active channel of a die to sleep (R330, Table 17.2). -/
def State.parkChans (s : State) (d : Nat) : State :=
  (List.range 128).foldl (fun s n =>
    let c := s.chan (128 * d + n)
    if c.state = 1 then s.setChan (128 * d + n) (c.rest s.now) else s) s

/-- May a channel scrub: it is trained, its scrub runs, and it is not in self-refresh (R328, R330)? -/
def Chan.scrubs (c : Chan) : Bool := decide (field c.scrub 0 16 ≠ 0) && decide (c.state = 1) && !c.sleep

/-- A period of a sub-channel's scrub ends: the corrected bursts by pin are counted afresh (R326). -/
def Chan.wrap (c : Chan) (sub : Nat) : Chan := { c with pins := tclear c.pins (16 * sub) 16 }

/-- The scrub read of the burst at `pa` and its repair write. The idle time of the channel goes on, for a scrub read is no
request. In this model no write comes between the read and its repair write (log 32). -/
def State.scrubAt (s : State) (pa : Nat) : State :=
  let k := chanKey pa
  let last := (s.chan k).lastReq
  let keep (s : State) : State := s.setChan k { s.chan k with lastReq := last }
  match s.memRead pa with
  | (s, _, true, _) => keep (s.consume 11 k 31 (homeDie pa) pa)
  | (s, d, false, true) => keep (s.memWrite pa d false)
  | (s, _, false, false) => keep s

/-- PATROL_SCRUB (R328). -/
def execPatrolScrub (die : DieId) (ch : Fin 128) (sub : Fin 2) (s : State) : Out :=
  s.cmd fun s =>
  let k := 128 * die.val + ch.val
  let c := s.chan k
  if !c.scrubs ∨ s.pmem.lost then fin s
  else
    let i := tget 0 c.pos sub.val
    let next := (i + 1) % subBursts
    let c := { c with pos := tset 0 c.pos sub.val next }
    let c := if next = 0 then c.wrap sub.val else c
    fin ((s.setChan k c).scrubAt (burstAddr die.val ch.val sub.val i))

/-- REFRESH (R329): a bank of an active channel is refreshed; in self-refresh the package refreshes itself. -/
def execRefresh (die : DieId) (ch : Fin 128) (sub : Fin 2) (bank : Fin 16) (s : State) : Out :=
  s.cmd fun s =>
  let k := 128 * die.val + ch.val
  let c := s.chan k
  if c.sleep ∨ c.state ≠ 1 ∨ s.pmem.lost then fin s
  else fin (s.setChan k { c with refr := tmod 0 c.refr (16 * sub.val + bank.val) (· + 1) })

/-- SELF_REFRESH_ENTRY (R330): the channel has had no request for MIO_SREF.IDLE ticks, where 0 disables this entry, or the
die's memory controllers are parked. -/
def execSelfRefreshEntry (die : DieId) (ch : Fin 128) (s : State) : Out :=
  s.cmd fun s =>
  let k := 128 * die.val + ch.val
  let c := s.chan k
  let idle := field c.sref 0 20
  if ((idle ≠ 0 ∧ c.lastReq + idle ≤ s.now) ∨ s.dom (12 * die.val + 11) = .parked) ∧ c.state = 1 ∧ !s.pmem.lost then
    fin (s.setChan k (c.rest s.now))
  else fin s

/-- SELF_REFRESH_EXIT (R330): the channel is active again, for the request that is served after it. -/
def execSelfRefreshExit (die : DieId) (ch : Fin 128) (s : State) : Out :=
  s.cmd fun s =>
  let k := 128 * die.val + ch.val
  let c := s.chan k
  if c.sleep then fin (s.setChan k { c.awake s.now with lastReq := s.now }) else fin s

end Sys2Proof.Machine
end

