-- ==== Sys2Proof/Machine/Power.lean ====
section
/-! DEFINITION. Power, clocks and thermal control (17). -/

namespace Sys2Proof.Machine

/-- The effective point: the slowest of the points of R372, coded as POWER_SET codes them. -/
def State.effPoint (s : State) : Nat := max (max s.pwr.req s.pwr.capPt) (max s.pwr.therm (b2n s.pwr.calMax))

/-- The input voltage as the device sees it, under an INPUT override (Table 19.4). -/
def State.inputMv (s : State) (mv : Nat) : Nat :=
  match s.pmem.inOvr with
  | some (v, t) => if s.now < t then v.toNat else mv
  | none => mv

/-- An override that has ended is forgotten once a sample without it has come, and what it began has been recorded (R403). -/
def overNow {α : Type} (now : Nat) : Option (α × Nat) → Option (α × Nat)
  | some (v, t) => if now < t then some (v, t) else none
  | none => none

/-- ILIM in units of 10 mA: values above 45 A act as 45 (R367, Table 17.5). -/
def State.ilim10 (s : State) : Nat := 100 * min s.pwr.ilim 45

/-- The excursion that ends or goes on with a sample (Table 17.1): the record comes at its end, when it lasted more than 1 ms. -/
def State.excursion (s : State) (mv : Nat) : State :=
  let m := s.pmem
  let far (a b : Nat) : Nat := if mv < 6400 then min a b else max a b
  if mv < 6400 ∨ 8000 < mv then
    match m.outIn with
    | none => { s with pmem := { m with outIn := some s.now, extreme := mv } }
    | some _ => { s with pmem := { m with extreme := far m.extreme mv } }
  else
    match m.outIn with
    | none => s
    | some t =>
      let s := { s with pmem := { m with outIn := none, extreme := 0 } }
      if t + 25000 < s.now then
        s.log 0x60 31 2 (m.inOvr.isSome) [w64 m.extreme, w64 (s.now - t)]
      else s

/-- The fast current limit starts and ends by the current (R367). -/
def State.current (s : State) (ma : Nat) : State :=
  let m := s.pmem
  if s.ilim10 < ma then { s with pmem := { m with fcl := true, below := none } }
  else if m.fcl ∧ ma < s.ilim10 - 200 then { s with pmem := { m with below := some (m.below.getD s.now) } }
  else { s with pmem := { m with below := none } }

/-- The current that the on-package stages let in, of a current that the load would draw: at most 5 A until the input, `mv`
now, has first reached 64 V since power-up (R417). Units of 10 mV and 10 mA. -/
def State.drawn (s : State) (mv ma : Nat) : Nat := if s.pmem.inrush && decide (mv < 6400) then min ma 500 else ma

/-- The samples of the last 10 ms, with a new one (R374). -/
def State.sampled (s : State) (p : Nat) : List (Nat × Nat) :=
  (s.now, p) :: s.pmem.power.filter (fun e => decide (s.now < e.1 + 250000))

/-- INPUT_SAMPLE (R366, R367, R417): units of 10 mV and 10 mA. -/
def execInputSample (mv ma : BitVec 16) (s : State) : Out :=
  s.cmd fun s =>
  let v := s.inputMv mv.toNat
  let i := s.drawn mv.toNat ma.toNat
  let s : State := { s with pwr := { s.pwr with mv := v, ma := i },
                            pmem := { s.pmem with inrush := s.pmem.inrush && decide (mv.toNat < 6400), power := s.sampled (v * i) } }
  let s := (s.excursion v).current i
  fin { s with pmem := { s.pmem with inOvr := overNow s.now s.pmem.inOvr, badIn := heldSince s.now s.pmem.badIn (decide (v < 6000) || decide (8200 < v)) } }

/-- POWER_LOSS (R366): the input has been below 60 V or above 82 V for 10 µs. PWRGD follows the input (R420). -/
def execPowerLoss (s : State) : Out :=
  s.cmd fun s =>
  match s.pmem.badIn with
  | none => fin s
  | some t =>
    if t + 250 ≤ s.now ∧ s.pins.pwrgd then
      let s := s.powerLoss
      fin { s with pins := { s.pins with pwrgd := false } }
    else fin s

/-- FAST_CURRENT_LIMIT_END (R367): the current has stayed below ILIM − 2 A for 100 µs. -/
def execFastCurrentLimitEnd (s : State) : Out :=
  s.cmd fun s =>
  match s.pmem.below with
  | some t =>
    if s.pmem.fcl ∧ t + 2500 ≤ s.now then fin { s with pmem := { s.pmem with fcl := false, below := none } } else fin s
  | none => fin s

/-- A cluster enters OFF: it keeps no state (R369). -/
def State.clusterDown (s : State) (c : Nat) : State :=
  let s := s.dropWaits (fun w => match w with
    | .core x => decide (x / 8 = c) | .arm x _ => decide (x / 8 = c) | _ => false)
  let s := (List.range 8).foldl (fun s i => s.setCore (8 * c + i) (s.freshCore (8 * c + i))) s
  let s := (s.setCluster c { s.cluster c with tlb := [] }).setStitcher c {}
  let d := s.die (c / 8)
  let s := s.setDie (c / 8) { d with awl := tclear d.awl (4 * (c % 8)) 4 }
  { s with pwr := { s.pwr with dom := tset .on s.pwr.dom (clDom c) .off } }

/-- CLUSTER_OFF (R369). -/
def execClusterOff (cluster : Fin 16) (s : State) : Out :=
  s.cmd fun s =>
  let c := cluster.val
  match tget none s.pmem.clIdle c with
  | none => fin s
  | some t =>
    if s.clusterQuiet c ∧ t + 25 * max 1 (field s.pwr.clctl 16 16) ≤ s.now then fin (s.clusterDown c) else fin s

/-- FLUSH_INVAL of every line of a half's slices (R370, Table 10.3): its fills complete, then each of its lines is flushed
and invalidated, with its control-cache copies. -/
def State.flushHalf (s : State) (d half : Nat) : State :=
  (List.range 32).foldl (fun s i =>
    let n := 32 * half + i
    let s := State.settleSlice d n (fun _ => true) (fun _ => true) fillFuel s
    (s.slice d n).ways.foldl (fun s e =>
      match e.2 with
      | some l =>
        let w := e.1 % 16
        let (s, _) := s.writeBack l
        let stay := if (s.wayUse d w).use = 1 then some (emptyLine l) else none
        ((s.untrack l pfNever).l2Put (128 * l.line) w stay).snoop (128 * l.line)
      | none => s) s) s

/-- L2_HALF_OFF (R370). With both halves OFF the die's memory controllers are PARKED (Table 17.2). -/
def execL2HalfOff (die : DieId) (half : Fin 2) (s : State) : Out :=
  s.cmd fun s =>
  let d := die.val
  match tget none s.pmem.l2Idle d with
  | none => fin s
  | some t =>
    if s.halfQuiet d ∧ t + 25000 * max 1 (field s.pwr.clctl 32 8) ≤ s.now ∧ s.dom (l2Dom d half.val) = .on then
      let s := s.flushHalf d half.val
      let dom := tset .on s.pwr.dom (l2Dom d half.val) .off
      if tget .on dom (l2Dom d (1 - half.val)) = .off then
        fin { s.parkChans d with pwr := { s.pwr with dom := tset .on dom (12 * d + 11) .parked } }
      else fin { s with pwr := { s.pwr with dom := dom } }
    else fin s

/-- DOMAIN_WAKE (R368): domains are numbered as in `Power`. -/
def execDomainWake (domain : Fin 30) (s : State) : Out :=
  s.cmd fun s =>
  let n := domain.val
  if n < 24 ∧ n % 12 < 8 then fin (s.wakeCluster (8 * (n / 12) + n % 12)) else fin (s.wake n)

/-- DVFS_CHANGE (R373): both dies come to the latest effective point. -/
def execDvfsChange (s : State) : Out :=
  s.cmd fun s =>
  fin { s with pwr := { s.pwr with eff := s.effPoint } }

/-- A step of the cap point (R374). -/
def State.capStep (s : State) (pt : Nat) : State :=
  { s with pwr := { s.pwr with capPt := pt, capSteps := satAdd s.pwr.capSteps 1 },
           pmem := { s.pmem with hold := s.now + 250000 } }

/-- The sum and the number of the power samples of the last 10 ms, in units of 0.1 mW (R374). -/
def State.powerSum (s : State) : Nat × Nat :=
  let l := s.pmem.power.filter (fun e => decide (s.now < e.1 + 250000))
  ((l.map (·.2)).sum, l.length)

/-- CAP_EVALUATION (R374): every 1 ms, of the average of the samples of the last 10 ms. -/
def execCapEvaluation (_tick : Unit) (s : State) : Out :=
  s.cmd fun s =>
  if s.now < s.pmem.capAt + 25000 then fin s
  else
    let (sum, m) := s.powerSum
    let cap := 10000 * m * s.pwr.cap
    let n := if 100 * sum < 95 * cap then s.pmem.lowN + 1 else 0
    let s : State := { s with pwr := { s.pwr with avgw := sum / (10000 * m) }, pmem := { s.pmem with lowN := n, capAt := s.now } }
    if s.now < s.pmem.hold then fin s
    else if cap < sum ∧ s.pwr.capPt < 3 then fin (s.capStep (s.pwr.capPt + 1))
    else if 100 ≤ n ∧ 0 < s.pwr.capPt then fin (s.capStep (s.pwr.capPt - 1))
    else fin s

/-- The die of a sensor as SRC codes it (R376). -/
def sensorDie (n : Nat) : Nat := if n < 32 then n / 16 else if n < 34 then 2 else 4 + (n - 34) / 2

/-- A temperature reading in 1/16 °C. -/
def tempOf (s : State) (n : Nat) : Int := (tget (0 : BitVec 16) s.pwr.temps n).toInt

/-- The sensor with the hottest reading, the lowest-numbered on a tie. -/
def State.hottest (s : State) : Nat :=
  (List.range 42).foldl (fun b n => if tempOf s b < tempOf s n then n else b) 0

/-- Did an injection give the last reading of a sensor (R403)? -/
def State.sensInj (s : State) (n : Nat) : Bool := (tget none s.pmem.sensOvr n).isSome

/-- A sensor's reading under a SENSOR override (Table 19.4). -/
def State.sensed (s : State) (n : Nat) (v : BitVec 16) : BitVec 16 :=
  match tget none s.pmem.sensOvr n with
  | some (o, t) => if s.now < t then o else v
  | none => v

/-- The trip latch takes a sensor and its reading, and power goes (R377); THERMTRIP# falls. `inj`: an injection fired it. -/
def State.tripNow (s : State) (sensor : Nat) (v : BitVec 16) (inj : Bool) : State :=
  let s := s.powerLoss
  { s with pmem := { s.pmem with trip := some (sensor, v), tripInj := inj }, pins := { s.pins with trip := true } }

/-- What the readings drive (Table 17.4), except the trip. -/
def State.thermal (s : State) : State :=
  let h := s.hottest
  let t := tempOf s h
  let lp := s.pwr.lpddr.toInt
  let hot := decide ((16 * s.pwr.tthrot : Int) ≤ t) || decide ((95 : Int) ≤ lp)
  let cool := decide (t < 16 * ((s.pwr.tthrot : Int) - 5)) && decide (lp < 90)
  let crit := decide ((16 * s.pwr.tcrit : Int) ≤ t) || (s.pmem.crit && decide (16 * ((s.pwr.tcrit : Int) - 5) ≤ t))
  let new := crit && !s.pmem.crit
  let m := s.pmem
  let s : State := { s with pmem := { m with hot := hot, cool := heldSince s.now m.cool cool, crit := crit,
                                             logged := m.logged && hot, stepAt := if hot then m.stepAt else none } }
  if new then
    s.log 0x62 31 2 (s.sensInj h) [w64 h, w64 (sensorDie h), (tget (0 : BitVec 16) s.pwr.temps h).signExtend 64]
  else s

/-- SENSOR_READ (R376, R377): `temps` in the order of R376, in 1/16 °C; the hottest package in °C. -/
def execSensorRead (temps : List (BitVec 16)) (lpddrC : BitVec 16) (s : State) : Out :=
  s.cmd fun s =>
  let l := ttab (0 : BitVec 16) 42 (fun n => s.sensed n (temps.getD n 0))
  let o := ttab none 42 (fun n => overNow s.now (tget none s.pmem.sensOvr n))
  let s : State := { s with pwr := { s.pwr with temps := l, lpddr := lpddrC }, pmem := { s.pmem with sensOvr := o } }
  match (List.range 42).find? (fun n => decide ((1920 : Int) ≤ (temps.getD n 0).toInt)) with
  | some n => fin (s.tripNow n (temps.getD n 0) false)
  | none => if s.pmem.lost then fin s else fin s.thermal

/-- A step of the thermal point. -/
def State.thermTo (s : State) (pt : Nat) : State :=
  { s with pwr := { s.pwr with therm := pt, thSteps := satAdd s.pwr.thSteps 1 } }

/-- THERMAL_STEP (Table 17.4): down each 1 ms while hot, up after each 100 ms while cool. -/
def execThermalStep (s : State) : Out :=
  s.cmd fun s =>
  let m := s.pmem
  if m.hot then
    let due : Bool := match m.stepAt with | none => true | some t => decide (t + 25000 ≤ s.now)
    if s.pwr.therm < 3 ∧ due then
      let s := s.thermTo (s.pwr.therm + 1)
      let s : State := { s with pmem := { m with stepAt := some s.now, logged := true } }
      let h := s.hottest
      if m.logged then fin s
      else fin (s.log 0x61 31 2 (s.sensInj h)
        [w64 h, w64 (sensorDie h), (tget (0 : BitVec 16) s.pwr.temps h).signExtend 64, w64 s.pwr.therm])
    else fin s
  else
    match m.cool with
    | some t =>
      if 0 < s.pwr.therm ∧ t + 2500000 ≤ s.now then
        let s := s.thermTo (s.pwr.therm - 1)
        fin { s with pmem := { s.pmem with cool := some s.now } }
      else fin s
    | none => fin s

/-- POWER_SET (R375): it completes when both dies have reached the new effective point. -/
def State.powerSet (s : State) (q : QId) (p : Pkt) (fresh : Bool) : State :=
  let cap := field (p.word 1) 0 16
  if fresh ∧ cap ≠ 0 ∧ (cap < 1000 ∨ 2800 < cap) then s.badWord q p stBAD_PARAM 1
  else
    let s : State := if fresh then
        { s with pwr := { s.pwr with req := field (p.word 0) 0 2, cap := if cap = 0 then 2800 else cap } }
      else s
    if s.pwr.eff = s.effPoint then s.finish q p stOK 0 else s

/-- POWER_SET. -/
def execPowerSet (p : PktRef) (s : State) : Out :=
  s.cmd fun s =>
  s.pktRow p 0x38 (fun s q k fresh => s.powerSet q k fresh)

end Sys2Proof.Machine
end

