-- ==== Sys2Proof/Machine/Boot.lean ====
section
/-! DEFINITION. Boot, signing and calibration (18): the boot stages, recovery, attestation, firmware update, the calibration
packets. -/

namespace Sys2Proof.Machine

/-- The slots in the order in which the ROM tries them (R381): the higher GEN first, A when they are equal. -/
def State.slotOrder (s : State) : List Nat :=
  if imgGen (s.flash.slot 0) < imgGen (s.flash.slot 1) then [1, 0] else [0, 1]

/-- An injection that fires at boot: it counts in the steward's INJ_FIRED, and writes its record (R401). -/
def State.bootFired (s : State) (point inst : Nat) : State :=
  let b := s.injBlk 2
  (s.setInj 2 { b with fired := satAdd b.fired 1 }).log 0x8C 31 2 true [w64 point, w64 inst, 0, 0]

/-- Try a slot: a rejection is recorded; a SLOT_CHECK injection fires (R401). -/
def State.trySlot (s : State) (n : Nat) : State × Bool :=
  let inj := bitAt s.svc.bootSlot n
  let s := if inj then
      let s : State := { s with svc := { s.svc with bootSlot := s.svc.bootSlot &&& ~~~(ones n 1) } }
      s.bootFired 0x15 n
    else s
  match imgBad s.flash.minsvn (s.flash.slot n) false inj with
  | none => (s, true)
  | some i =>
    let sec := if n = 0 then { s.sec with rejA := true } else { s.sec with rejB := true }
    (({ s with sec := sec }).log 0x71 31 2 (inj && decide (i = 5)) [w64 n, w64 i], false)

/-- The ROM runs the image of a slot: measurements 0, 1 and 3 (R388; the order of the fuse bytes is log 34). -/
def State.runSlot (s : State) (n : Nat) : State :=
  let t := s.flash.slot n
  let s : State := { s with sec := { s.sec with st := .firmware, slot := n, gen := imgGen t, svn := imgSvn t % 256, commit := imgCommit t } }
  let fuses := [0, 1, 2, 3].flatMap (fun k => toBytes 32 (Config.keyDigest k).toNat)
  let s := s.measure 0 (toBytes 32 Config.romDigest.toNat)
  let s := s.measure 1 (flashRead t 0x010 0x80 ++ flashRead t 0x070 32)
  s.measure 3 (fuses ++ toBytes 1 Config.keyRevoked.toNat ++ toBytes 1 s.flash.minsvn)

/-- ROM_BOOT (R381, R382). -/
def execRomBoot (s : State) : Out :=
  s.cmd fun s =>
  if s.sec.st ≠ .rom ∨ s.pmem.lost then fin s
  else
    let a := s.slotOrder.headD 0
    match s.trySlot a with
    | (s, true) => fin (s.runSlot a)
    | (s, false) =>
      match s.trySlot (1 - a) with
      | (s, true) => fin (s.runSlot (1 - a))
      | (s, false) => fin { s with sec := { s.sec with st := .recovery } }

/-- Configuration requests through a host port are answered with Configuration Request Retry Status from stage 2 until READY
(R385). -/
def State.cfgRetry (s : State) : Bool := decide (s.sec.st = .firmware) || decide (s.sec.st = .hold)

/-- SEC_RECOV (R382): in RECOVERY the buffered image is checked; a valid one is written to slot A with GEN 1. -/
def State.recovWrite (s : State) : State :=
  if s.sec.st ≠ .recovery then s
  else
    let img := (List.range (2 ^ 25)).map (fun i => tget 0 s.sec.buf i)
    let t := flashOf img
    match imgBad s.flash.minsvn t true false with
    | some _ => { s with sec := { s.sec with buf := [] } }
    | none =>
      let t := flashOf (img.take 8 ++ toBytes 8 1 ++ ((img.drop 16).take (4080 + imgLen t)))
      { s with flash := { s.flash with slots := tset [] s.flash.slots 0 t },
               sec := { s.sec with st := .rom, buf := [], rejA := false, rejB := false } }

/-- SEC_RECOV_WRITE. -/
def execSecRecovWrite (_v : Word) (s : State) : Out :=
  s.cmd fun s =>
  fin s.recovWrite

/-- The calibration set at boot (R391): what is loaded from it, and MEAS2 (R388). -/
def State.bootCal (s : State) : State :=
  let inj := s.svc.bootCal
  let t := s.flash.cal
  let bad := if inj then some 3 else calCheck t
  let hot := if bad.isNone then calThrot t else 100
  let crit := if bad.isNone then calCrit t else 110
  let s : State := { s with svc := { s.svc with bootCal := false },
                            sec := { s.sec with calV := bad.isNone, calInj := inj, calBad := bad.isSome },
                            pwr := { s.pwr with calMax := bad.isSome, tthrot := hot, tcrit := crit } }
  let s := if inj then s.bootFired 0x14 0 else s
  match bad with
  | none => s.measure 2 (flashRead t 0 0x40000)
  | some i => (s.measure 2 (List.replicate 32 0xFF)).log 0x73 31 2 inj [w64 i]

/-- The signing leaves at boot (R387): NEXT is the END of the valid record with the higher SEQ. -/
def State.bootLeaf (s : State) : State :=
  let f := match s.flash.leaf 0, s.flash.leaf 1 with
    | some a, some b => if a.seqNo < b.seqNo then b.fin else a.fin
    | some a, none => a.fin
    | none, some b => b.fin
    | none, none => 0
  { s with sec := { s.sec with next := f, fin := f, tree := f / 2 ^ 20 } }

/-- LPDDR6 training (R332, R385): a channel is active, or has failed; its erased pins are trained again (R326). -/
def State.bootChans (s : State) : State :=
  (List.range 256).foldl (fun s n =>
    s.setChan n { s.chan n with state := if Config.chanFails n then 3 else 1, erase := 0 }) s

/-- Apply a committed retirement at boot (R409): frames as hard. -/
def State.bootRetire (s : State) (e : BitVec 32) : State :=
  let n := field e 0 30
  if 0x38000000 ≤ n then
    let c := n - 0x38000000
    s.setCluster c { s.cluster c with retired := true }
  else if 0x30000000 ≤ n then
    let i := n - 0x30000000
    let k := s.core (i / 4)
    s.setCore (i / 4) { k with cr := { k.cr with engmask := k.cr.engmask &&& ~~~(ones (i % 4) 1) } }
  else
    let d := homeDie (4096 * n)
    let l := tget [] s.mem.retired d
    if l.any (fun r => decide (r.frame = n)) then s
    else { s with mem := { s.mem with retired := tset [] s.mem.retired d (l ++ [⟨n, true⟩]) } }

/-- Domains switched on together, at this moment. -/
def State.powerOn (s : State) (l : List Nat) : State :=
  l.foldl (fun s n => { s with pwr := { s.pwr with dom := tset .on s.pwr.dom n .on },
                               pmem := { s.pmem with upAt := tset 0 s.pmem.upAt n s.now } }) s

/-- The domains that stage 2 powers (R385): the link dies, UNC and MIO of the compute dies, whose timestamps start (R395). -/
def State.bootPower (s : State) : State :=
  if !s.pmem.held then s
  else [0, 1].foldl (fun s d => s.setDie d { s.die d with unc := s.now }) (s.powerOn [10, 11, 22, 23, 26, 27, 28, 29])

/-- The compute dies are released (R385): their L2 halves and every cluster but a retired one are on (R405), and the
known-answer test of every engine in service is due (R404). -/
def State.bootDies (s : State) : State :=
  let live := (List.range 16).filter (fun c => !s.clOut c)
  let s := if s.pmem.held then s.powerOn ([8, 9, 20, 21] ++ live.map clDom) else s
  let s := ((List.range 16).filter s.clOut).foldl (fun (s : State) c =>
    { s with pwr := { s.pwr with dom := tset .on s.pwr.dom (clDom c) .off } }) s
  let eng := live.flatMap (fun c => (List.range 32).filterMap (fun i =>
    if bitAt (s.core (8 * c + i / 4)).cr.engmask (i % 4) then some (32 * c + i) else none))
  { s with pmem := { s.pmem with held := false }, svc := { s.svc with katEng := eng } }

/-- Stage 4 (R385): the compute dies are released; retirements are applied; KNOWN_ANSWER_TEST runs the tests that become due. -/
def State.bootRelease (s : State) : State :=
  let s := (s.flash.live.foldl (fun s e => s.bootRetire e) s).bootDies
  let s : State := { s with sec := { s.sec with st := .firmware, booted := true } }
  let s := if s.badCfg then s.log 0x53 31 2 false [w64 s.pins.fcfg.toNat] else s
  s.healthCheck

/-- The junctions read TTRIP − 10 °C or more: boot holds (R377). -/
def State.tooHot (s : State) : Bool := decide ((1760 : Int) ≤ tempOf s s.hottest)

/-- Stages 2 and 3 (R385): calibration, trip latch (R377), leaves, power, memory. -/
def State.bootStage2 (s : State) : State :=
  let s := (((s.bootCal).bootLeaf).bootPower).bootChans
  match s.pmem.trip with
  | none => s
  | some (n, v) =>
    ({ s with pmem := { s.pmem with trip := none, tripInj := false } }).log 0x63 31 2 s.pmem.tripInj [w64 n, w64 (sensorDie n), v.signExtend 64]

/-- FIRMWARE_BOOT (R385): stages 2 to 4; a hot device holds before stage 4. -/
def execFirmwareBoot (s : State) : Out :=
  s.cmd fun s =>
  let go (s : State) : State := if s.tooHot then { s with sec := { s.sec with st := .hold } } else s.bootRelease
  match s.sec.st with
  | .firmware => if s.sec.booted then fin s else fin (go s.bootStage2)
  | .hold => fin (go s)
  | _ => fin s

/-- The boot queue (R386). -/
def State.bootQueue (s : State) : State :=
  match [0, 1, 2, 3].find? (fun n => !(s.hport n).root) with
  | none => s
  | some n =>
    s.setQueue ⟨0, 0, 0⟩ { cfg := place 1 15 1 ||| place 8 8 5 ||| place 8 0 5, qbase := w64 (winPA n 0),
                           qrbase := w64 (winPA n 0x4000) }

/-- READY (R384 to R386), once the known-answer test of stage 4 has run on every engine in service (R385). -/
def execReady (s : State) : Out :=
  s.cmd fun s =>
  if s.sec.st ≠ .firmware ∨ !s.sec.booted ∨ (List.range 128).any s.katBusy then fin s
  else
    let s := s.bootQueue
    let s := if s.badCfg then s
      else (List.range 8).foldl (fun s n =>
        if (s.partner s.devid n).isSome ∧ (s.fport n).st = .disabled ∧ s.lkOut (n / 2) = false then s.setFport n { s.fport n with st := .training } else s) s
    let s := s.parkLinks
    let old := s.flash.minsvn
    let s := if s.sec.commit ∧ old < s.sec.svn then
        ({ s with flash := { s.flash with minsvn := s.sec.svn } }).log 0x76 31 2 false [w64 old, w64 s.sec.svn]
      else s
    let s := s.log 0x70 31 2 false [w64 s.sec.slot, w64 s.sec.gen, w64 s.sec.svn, w64 (b2n s.sec.calV),
      w64 (s.now - tget 0 s.pmem.upAt 25)]
    fin { s with sec := { s.sec with st := .ready } }

/-- A word that marks an ATTEST whose signature is formed and held back; the report's words follow it (R387). -/
def heldSig : Word := 0x1

/-- Does an ATTEST hold its signature back? -/
def Pkt.holdsSig (p : Pkt) : Bool := decide (p.work.head? = some heldSig)

/-- The report that ATTEST signs, less its signature (Table 18.4): MAGIC, with the report format above it (log 34). -/
def State.report (s : State) (part leaf : Nat) (nonce : List Byte) : List Byte :=
  let w (n : Nat) : List Byte := toBytes 8 n
  let img := s.sec.gen + s.sec.svn * 2 ^ 32 + s.sec.slot * 2 ^ 40 + s.flash.minsvn * 2 ^ 48
  w (0x54415458 + 2 ^ 32) ++ w devinfoReg.toNat ++ toBytes 16 Config.serial.toNat ++ w (s.devid + part * 2 ^ 16) ++ w img ++
    w (s.svc.health + 256 * b2n (!s.sec.calV)) ++ w leaf ++ nonce ++
    [0, 1, 2, 3].flatMap (fun i => toBytes 32 (tget (0 : BitVec 256) s.sec.meas i).toNat) ++ List.replicate 32 0

/-- The signed report with leaf NEXT, which then goes up (R387, R389). -/
def State.attestSign (s : State) (part : Nat) (nonce : List Byte) : List Byte × State :=
  let leaf := s.sec.next
  let m := s.report part leaf nonce
  (m ++ hssSign leaf m, { s with sec := { s.sec with next := leaf + 1 } })

/-- Start the flash program of the next leaf record into the older sector (R387): until it is complete the sector holds no
record, for its CRC fails. -/
def State.leafStart (s : State) : State :=
  { s with flash := { s.flash with leafs := tset none s.flash.leafs s.flash.leafOld none },
           sec := { s.sec with leafProg := some ((s.flash.leafOld, s.flash.leafSeq)) } }

/-- A signature is held back: the report's bytes stay with the packet. -/
def State.holdSig (s : State) (q : QId) (p : Pkt) (b : List Byte) : State :=
  s.setPkt q { p with work := heldSig :: (chunks 8 (b.length + 1) b).map (fun l => w64 (ofBytes l)) }

/-- The bytes of a report held back. -/
def Pkt.heldBytes (p : Pkt) : List Byte := (p.work.drop 1).flatMap (fun w => toBytes 8 w.toNat)

/-- ATTEST (R387, R389, R422): refused while DBGEN is 1. It waits for a bottom tree that is not built. With leaf NEXT at END it
forms its signature, holds it back and starts the program of a leaf record; beyond END it waits for one. -/
def State.attest (s : State) (q : QId) (p : Pkt) : State :=
  if p.holdsSig then s
  else if s.pins.dbgen then s.finish q p stNO_PERM locHdr
  else
    match s.rangeBad p.part (p.word 0) 3860 true true, s.rangeBad p.part (p.word 1) 32 true true with
    | some st, _ => s.badWord q p st 0
    | none, some st => s.badWord q p st 1
    | none, none =>
      match s.memRd q p.pos p.part (p.word 1).toNat 32 with
      | (s, .wait) => s
      | (s, .fail x) => s.finish q p stMEM (w64 x)
      | (s, .poison x) => s.finishMute q p stUNCORR (w64 x)
      | (s, .bytes nonce) =>
        if 2 ^ 40 ≤ s.sec.next then s.finish q p stBUDGET 0
        else if s.sec.tree < s.sec.next / 2 ^ 20 then s
        else if s.sec.fin < s.sec.next then s
        else
          let held := decide (s.sec.fin = s.sec.next)
          let (b, s) := s.attestSign p.part nonce
          if held then (s.leafStart).holdSig q p b else s.putResult q p (p.word 0).toNat b 0

/-- ATTEST. -/
def execAttest (p : PktRef) (s : State) : Out :=
  s.cmd fun s =>
  s.pktRow p 0x48 (fun s q k _ => s.attest q k)

/-- LEAF_RESERVE (R387): the program of the record with END + 1,024 is complete; the held signature is released, unless
PART_DESTROY has ended its ATTEST. -/
def execLeafReserve (s : State) : Out :=
  s.cmd fun s =>
  match s.sec.leafProg with
  | none => fin s
  | some (i, n) =>
    let e := s.sec.fin + 1024
    let r : LeafRec := { seqNo := n, fin := e, crc := leafSum n e }
    let s : State := { s with flash := { s.flash with leafs := tset none s.flash.leafs i (some r) },
                              sec := { s.sec with fin := e, leafProg := none } }
    let s := s.log 0x75 31 2 false [w64 n, w64 e]
    match (s.opPkts [0x48]).find? (fun e => e.2.holdsSig) with
    | none => fin s
    | some (q, p) => fin (s.putResult q p (p.word 0).toNat (p.heldBytes.take 3860) 0)

/-- BOTTOM_TREE_BUILT (R387): the tree after the current one. -/
def execBottomTreeBuilt (s : State) : Out :=
  s.cmd fun s =>
  if s.sec.tree ≤ s.sec.next / 2 ^ 20 then
    let s : State := { s with sec := { s.sec with tree := s.sec.tree + 1 } }
    match (s.opPkts [0x48]).find? (fun e => !e.2.holdsSig) with
    | some (q, p) => fin (s.attest q p)
    | none => fin s
  else fin s

/-- The slot that FW_UPDATE programs, with what it holds. -/
def State.putSlot (s : State) (l : List Byte) : State :=
  { s with flash := { s.flash with slots := tset [] s.flash.slots (1 - s.sec.slot) (flashOf l) },
           sec := { s.sec with fwProg := none } }

/-- Steps 3 to 5 of FW_UPDATE (R383): the image is programmed, read back and checked, and its GEN written. -/
def State.fwProgram (s : State) (q : QId) (p : Pkt) (b : List Byte) : State :=
  let t := 1 - s.sec.slot
  let bad : Bool := (imgBad s.flash.minsvn (flashOf b) true false).isSome
  if bad then (s.putSlot []).badWord q p stBAD_PARAM 0
  else
    let g := (s.sec.gen + 1) % 2 ^ 32
    let s := s.putSlot (b.take 8 ++ toBytes 8 g ++ b.drop 16)
    (s.log 0x72 31 2 false [w64 t, w64 g, w64 (imgSvn (flashOf b))]).finish q p stOK 0

/-- A word that marks an FW_UPDATE that has erased its slot, or a CAL_WRITE that has cleared the VALID marker. -/
def erased : Word := 0x2

/-- Has an FW_UPDATE or CAL_WRITE begun to change the flash? -/
def Pkt.flashing (p : Pkt) : Bool := decide (p.work.getD 1 0 = erased)

/-- FW_UPDATE (R383): once it has begun the target slot is not valid. It erases the slot in one step and programs it in a later
one, when the image has been read. -/
def State.fwUpdate (s : State) (q : QId) (p : Pkt) : State :=
  let n := (p.word 1).toNat
  if n < 4096 ∨ 2 ^ 25 < n then s.finish q p stBAD_LENGTH (locWord 1)
  else
    match s.rangeBad p.part (p.word 0) n true true with
    | some st => (if p.flashing then s.putSlot [] else s).badWord q p st 0
    | none =>
      if !p.flashing then
        let s := s.putSlot []
        ({ s with sec := { s.sec with fwProg := some n } }).setPkt q { p with work := p.work ++ [erased] }
      else
        match s.memRd q p.pos p.part (p.word 0).toNat n with
        | (s, .wait) => s
        | (s, .fail x) => (s.putSlot []).finish q p stMEM (w64 x)
        | (s, .poison x) => (s.putSlot []).finishMute q p stUNCORR (w64 x)
        | (s, .bytes b) => s.fwProgram q p b

/-- FW_UPDATE. -/
def execFwUpdate (p : PktRef) (s : State) : Out :=
  s.cmd fun s =>
  s.pktRow p 0x49 (fun s q k fresh => s.inTurn [0x49] q k fresh (fun s k => s.fwUpdate q k))

/-- CAL_READ (R392). -/
def State.calRead (s : State) (q : QId) (p : Pkt) : State :=
  let off := (p.word 1).toNat
  let n := (p.word 2).toNat
  if n = 0 then s.finish q p stOK 0
  else if 0x40000 < off + n then s.badWord q p stBAD_PARAM 1
  else if s.sec.calBad then s.finish q p stCAL 0
  else
    match s.rangeBad p.part (p.word 0) n true true with
    | some st => s.badWord q p st 0
    | none => s.putResult q p (p.word 0).toNat (flashRead s.flash.cal off n) (w64 n)

/-- CAL_READ. -/
def execCalRead (p : PktRef) (s : State) : Out :=
  s.cmd fun s =>
  s.pktRow p 0x40 (fun s q k fresh => s.inTurn [0x40, 0x41] q k fresh (fun s k => s.calRead q k))

/-- The end of a CAL_WRITE (R393): the digest is computed again and the header written with VALID. -/
def State.calSeal (s : State) (q : QId) (p : Pkt) : State :=
  let t := flashPut s.flash.cal 0 (calHeader (flashRead s.flash.cal 0x100 (0x40000 - 0x100)))
  let s : State := { s with flash := { s.flash with cal := t }, sec := { s.sec with calBad := false, calProg := none } }
  (s.log 0x74 31 2 false [p.word 1, p.word 2]).finish q p stOK 0

/-- CAL_WRITE (R393): the set is checked as it would stand, its VALID marker cleared and the bytes programmed in one step, its
header in a later one; the running device keeps what it loaded at boot. -/
def State.calWrite (s : State) (q : QId) (p : Pkt) : State :=
  let off := (p.word 1).toNat
  let n := (p.word 2).toNat
  if p.flashing then s.calSeal q p
  else if n = 0 then s.finish q p stOK 0
  else if off < 0x100 ∨ 0x40000 < off + n then s.badWord q p stBAD_PARAM 1
  else
    match s.rangeBad p.part (p.word 0) n true true with
    | some st => s.badWord q p st 0
    | none =>
      match s.memRd q p.pos p.part (p.word 0).toNat n with
      | (s, .wait) => s
      | (s, .fail x) => s.finish q p stMEM (w64 x)
      | (s, .poison x) => s.finishMute q p stUNCORR (w64 x)
      | (s, .bytes b) =>
        let t := flashPut s.flash.cal off b
        if !calAllowed t then s.badWord q p stBAD_PARAM 0
        else
          let t := flashPut t 0x40 (toBytes 8 0)
          let s : State := { s with flash := { s.flash with cal := t },
                                    sec := { s.sec with calBad := true, calProg := some (off, n) } }
          s.setPkt q { p with work := p.work ++ [erased] }

/-- CAL_WRITE. -/
def execCalWrite (p : PktRef) (s : State) : Out :=
  s.cmd fun s =>
  s.pktRow p 0x41 (fun s q k fresh => s.inTurn [0x40, 0x41] q k fresh (fun s k => s.calWrite q k))

end Sys2Proof.Machine
end

