-- ==== Sys2Proof/Machine/Caches.lean ====
section
/-! DEFINITION. Cache events, CACHE_OP packets and reduction groups (10). -/

namespace Sys2Proof.Machine

/-- WCB_IDLE_DRAIN: an entry that has taken no store for 256 core cycles drains (R211). -/
def execWcbIdleDrain (core : CoreId) (line : BitVec 41) (s : State) : Out :=
  s.cmd fun s =>
  let c := core.val
  let now := s.cycles c
  fin (s.drainIf c (fun e => decide (e.line = line.toNat) && decide (e.last + 256 ≤ now)))

/-- L1_FILL: the next sector of the line that a miss register tracks arrives (R214). -/
def execL1Fill (core : CoreId) (line : BitVec 41) (s : State) : Out :=
  s.cmd fun s =>
  let c := core.val
  match (s.core c).mem.miss.find? (fun m => decide (m.line = line.toNat)) with
  | some m => fin (s.fillSector c m).1
  | none => fin s

/-- L2_ACCESS: a request arrives at its slice (R220, R221, R234). -/
def execL2Access (pa : BitVec 48) (req : L2Req) (s : State) : Out :=
  s.cmd fun s =>
  match locPA pa.toNat with
  | .dram _ a =>
    fin ((s.wakeL2 a).arriveL2 a req).1
  | _ => fin s

/-- L2_FILL: memory returns a line, and its miss register frees (R220, R221). -/
def execL2Fill (pa : BitVec 48) (s : State) : Out :=
  s.cmd fun s =>
  match locPA pa.toNat with
  | .dram _ a => fin (s.quietLine a)
  | _ => fin s

/-- CONTROL_CACHE_ACCESS: an agent on a side reads a line (R235). -/
def execControlCacheAccess (die : DieId) (side : Fin 2) (pa : BitVec 48) (s : State) : Out :=
  s.cmd fun s =>
  match locPA pa.toNat with
  | .dram _ a =>
    let (s, l, p) := s.ccRead die.val side.val a
    fin (s.emit (.answer a l p))
  | _ => fin s

/-- The operation that a CACHE_OP packet names. -/
def cacheSub (p : Pkt) : Nat := field (p.word 2) 0 4

/-- The operations of Table 10.3. -/
def cacheKnown (n : Nat) : Bool := decide (n ≤ 6) || decide (n = 8) || decide (n = 9)

/-- The checks of R223 on the range of a CACHE_OP: the failing status and word. `align` is Table 10.3's; `oneDie` that the
range must lie on one die. -/
def State.cacheBad (s : State) (p : Pkt) (align : Nat) (oneDie : Bool) : Option (Byte × Nat) :=
  let a := (p.word 0).toNat
  let n := (p.word 1).toNat
  if a % align ≠ 0 then some (stBAD_PARAM, 0)
  else if n % align ≠ 0 then some (stBAD_PARAM, 1)
  else if 0x30000000000 < a + n then some (stBAD_PARAM, 0)
  else if oneDie ∧ a < 0x18000000000 ∧ 0x18000000000 < a + n then some (stBAD_PARAM, 0)
  else (s.rangeBad p.part (p.word 0) n true false).map (fun st => (st, 0))

/-- A range operation 0x0 to 0x6: zero length completes with OK (R223), then the checks, then `f` on partition, base and
length. -/
def State.cacheRow (s : State) (r : PktRef) (op align : Nat) (oneDie : Bool)
    (f : State → Nat → Nat → Nat → State × Byte) : Out :=
  match s.takeSub r 0x08 cacheSub cacheKnown 2 op with
  | (s, none) => fin s
  | (s, some (p, _)) =>
    let q := r.queue
    if p.word 1 = 0 then fin (s.finish q p stOK 0)
    else
      match s.cacheBad p align oneDie with
      | some (st, i) => fin (s.badWord q p st i)
      | none =>
        let (s, st) := f s p.part (p.word 0).toNat (p.word 1).toNat
        fin (s.finish q p st (if st = stOK then 0 else locWord 0))

/-- CACHE_OP FLUSH. -/
def execFlush (p : PktRef) (s : State) : Out :=
  s.cmd fun s =>
  s.cacheRow p 0 128 false (fun s _ a n => (s.flushRange a n, stOK))

/-- CACHE_OP INVAL. -/
def execInval (p : PktRef) (s : State) : Out :=
  s.cmd fun s =>
  s.cacheRow p 1 128 false (fun s _ a n => (s.invalRange a n, stOK))

/-- CACHE_OP FLUSH_INVAL. -/
def execFlushInval (p : PktRef) (s : State) : Out :=
  s.cmd fun s =>
  s.cacheRow p 2 128 false (fun s _ a n => ((s.flushRange a n).invalRange a n, stOK))

/-- CACHE_OP DEAD (R225). -/
def execDead (p : PktRef) (s : State) : Out :=
  s.cmd fun s =>
  s.cacheRow p 3 128 false (fun s _ a n => (s.deadRange a n, stOK))

/-- CACHE_OP LOCK (R226). -/
def execLock (p : PktRef) (s : State) : Out :=
  s.cmd fun s =>
  s.cacheRow p 4 8192 true (fun s part a n => s.lockRange part a n)

/-- UNLOCK and UNLOCK_DISCARD name exactly a range that the partition locked (R227). -/
def State.unlock (s : State) (part a n : Nat) (discard : Bool) : State × Byte :=
  if (s.die (homeDie a)).locks.any (fun r => decide (r.part = part) && decide (r.base = a) && decide (r.len = n)) then
    (s.freeLock part a n discard, stOK)
  else (s, stBAD_PARAM)

/-- CACHE_OP UNLOCK (R227). -/
def execUnlock (p : PktRef) (s : State) : Out :=
  s.cmd fun s =>
  s.cacheRow p 5 8192 true (fun s part a n => s.unlock part a n false)

/-- CACHE_OP UNLOCK_DISCARD (R227). -/
def execUnlockDiscard (p : PktRef) (s : State) : Out :=
  s.cmd fun s =>
  s.cacheRow p 6 8192 true (fun s part a n => s.unlock part a n true)

/-- CACHE_OP GROUP_OPEN (R228): the checks and the group. -/
def State.groupOpen (s : State) (q : QId) (p : Pkt) : State :=
  let a := (p.word 0).toNat
  let n := (p.word 1).toNat
  let w := p.word 2
  let part := p.part
  if n = 0 then s.badWord q p stBAD_PARAM 1
  else
    match s.cacheBad p 128 true with
    | some (st, i) => s.badWord q p st i
    | none =>
      let d := homeDie a
      let k := s.die d
      let g := field w 24 8
      let ranks := field w 16 5
      let dn := field (p.word 3) 0 12
      let st := (p.word 4).toNat
      if k.groups.any (fun h => decide (h.part = part) && decide (h.g = g)) then s.badWord q p stBAD_PARAM 2
      else if k.groups.any (fun h => overlap a n h.base h.len) || k.locks.any (fun r => overlap a n r.base r.len) then
        s.badWord q p stBAD_PARAM 0
      else if ranks = 0 ∨ 16 < ranks then s.badWord q p stBAD_PARAM 2
      else if s.syncOwner d dn ≠ part then s.badWord q p stBAD_PARAM 3
      else if st % 8 ≠ 0 then s.badWord q p stBAD_PARAM 4
      else
        match s.rangeBad part (p.word 4) 8 true true with
        | some e => s.badWord q p e 4
        | none =>
          if !s.groupFits d part a n then s.badWord q p stNO_RES 0
          else
            let grp : Group :=
              { part := part, g := g, base := a, len := n, ordered := bitAt w 8, ranks := ranks,
                step := BitVec.ofNat 32 (field (p.word 3) 32 32), done := dn, status := st,
                timeout := field w 32 16, opened := s.now }
            (s.openGroup d grp (bitAt w 9)).finish q p stOK 0

/-- CACHE_OP GROUP_OPEN (R228). -/
def execGroupOpen (p : PktRef) (s : State) : Out :=
  s.cmd fun s =>
  match s.takeSub p 0x08 cacheSub cacheKnown 2 8 with
  | (s, none) => fin s
  | (s, some (k, _)) => fin (s.groupOpen p.queue k)

/-- CACHE_OP GROUP_ABORT (R233): a group that is not open completes with BAD_PARAM. -/
def execGroupAbort (p : PktRef) (s : State) : Out :=
  s.cmd fun s =>
  match s.takeSub p 0x08 cacheSub cacheKnown 2 9 with
  | (s, none) => fin s
  | (s, some (k, _)) =>
    let d := field (k.word 2) 10 1
    match (s.die d).groups.find? (fun h => decide (h.part = k.part) && decide (h.g = field (k.word 2) 24 8)) with
    | none => fin (s.badWord p.queue k stBAD_PARAM 2)
    | some g => fin ((s.endGroup d g 1).finish p.queue k stOK 0)

/-- CONTRIBUTION: a contribution arrives at a slice, which answers it (R229 to R233). -/
def execContribution (c : Contribution) (s : State) : Out :=
  s.cmd fun s =>
  match s.contribute c with
  | (s, .accept) => fin (s.emit (.contrib 0 0))
  | (s, .retry) => fin (s.emit (.contrib 1 0))
  | (s, .refuse r) => fin (s.emit (.contrib 2 r))

/-- GROUP_TIMEOUT: a group has been open for TIMEOUT ms (R233). -/
def execGroupTimeout (die : DieId) (part : PartId) (g : BitVec 8) (s : State) : Out :=
  s.cmd fun s =>
  let d := die.val
  match (s.die d).groups.find? (fun h => decide (h.part = part.val) && decide (h.g = g.toNat)) with
  | none => fin s
  | some h =>
    if h.timeout ≠ 0 ∧ h.timeout * 25000 ≤ s.now - h.opened then fin (s.endGroup d h 2) else fin s

end Sys2Proof.Machine
end

