-- ==== Sys2Proof/Machine/Control.lean ====
section
/-! DEFINITION. Control transfer (R69, R70), hardware loops (R73), control registers (R74, R88) and translation-buffer
invalidation (R80). -/

namespace Sys2Proof.Machine

/-- BEQ, BNE, BLT, BGE, BLTU, BGEU (R70). -/
def execBranch (h : Issue) (cond : BitVec 3) (rs1 rs2 : Reg) (woff : BitVec 13) (s : State) : Out :=
  s.cmd fun s =>
  let w := wordOf (.branch h cond rs1 rs2 woff)
  s.issueCore h w (fun _ c => bBranch w cond rs1 rs2 woff c)

/-- JAL (R70). -/
def execJal (h : Issue) (rd : Reg) (woff : BitVec 21) (s : State) : Out :=
  s.cmd fun s =>
  s.issueCore h (wordOf (.jal h rd woff)) (fun _ c => bJal rd woff c)

/-- JALR (R69, R70). -/
def execJalr (h : Issue) (rd rs1 : Reg) (imm : BitVec 16) (s : State) : Out :=
  s.cmd fun s =>
  s.issueCore h (wordOf (.jalr h rd rs1 imm)) (fun _ c => bJalr rd rs1 imm c)

/-- LOOP (R73). -/
def execLoop (h : Issue) (level : Fin 2) (rs1 : Reg) (lenM1 : BitVec 10) (s : State) : Out :=
  s.cmd fun s =>
  let w := wordOf (.loop h level rs1 lenM1)
  s.issueCore h w (fun _ c => bLoop w level rs1 lenM1 c)

/-- LOOP.X (R73). -/
def execLoopX (h : Issue) (level : Fin 2) (s : State) : Out :=
  s.cmd fun s =>
  s.issueCore h (wordOf (.loopX h level)) (fun _ c => bLoopX level c)

/-- Does a write of register `n` wait for queued tile instructions: a TCFG write for every one that names its tile
(R149), a CFLAGS write for the conversions that may still set a flag (R74)? -/
def crHeld (n : Nat) (c : Core) : Bool :=
  if 0x030 ≤ n ∧ n ≤ 0x03F then !tileFree (n - 0x030) true true c
  else decide (n = 0x014) && c.tile.queue.any (fun e => e.op.skiver)

/-- The value that a control-register operation writes (Table 4.9). -/
def crNew (op : CrOp) (old v : Word) : Word :=
  match op with
  | .put | .swap => v
  | .bset => old ||| v
  | .bclr => old &&& ~~~v

/-- CRGET of register `n` (R74). -/
def bCrget (x : Ctx) (w : BitVec 32) (rd : Reg) (n : Nat) (c : Core) : CoreRes :=
  match crCheck w c n true false false with
  | some t => .trap c t
  | none =>
    ok (xset c rd (crRead x c n))

/-- CRPUT, CRSWAP, CRBSET, CRBCLR of register `n`: the register is read before it is written; every operation but CRPUT
writes the old value to rd (R74, R88). DESIGN CHOICE (log 67): a TCFG write waits for its tile before its value is judged.
DESIGN CHOICE (log 57): where CORE_CFG changes SAVEMODE, rd belongs to the bank in use after the write. -/
def bCrWrite (x : Ctx) (w : BitVec 32) (op : CrOp) (rd : Reg) (n : Nat) (rs1 : Reg) (c : Core) : CoreRes :=
  if op = .put ∧ rd ≠ 0 then .trap c (tIllegal w)
  else
    match crCheck w c n (decide (op ≠ .put)) true (decide (op = .bset ∨ op = .bclr)) with
    | some t => .trap c t
    | none =>
      if crHeld n c then .hold
      else
        let old := crRead x c n
        match crWrite x w c n (crNew op old (xget c rs1)) with
        | .error t => .trap c t
        | .ok c' => ok (if op = .put then c' else xset c' rd old)

/-- CRGET (R74). -/
def execCrget (h : Issue) (rd : Reg) (creg : BitVec 12) (s : State) : Out :=
  s.cmd fun s =>
  let w := wordOf (.crget h rd creg)
  s.issueCore h w (fun x c => bCrget x w rd creg.toNat c)

/-- What a change of LBCFG.SIZE does to the core's memory (R76): the buffer drains, the L1 is invalidated, landing-buffer
bytes at and above the lesser size are zero. -/
def State.lbResize (s : State) (c old new : Nat) : State :=
  if old = new then s
  else
    let s := s.drainWcb c
    let k := invalL1 (s.core c)
    let lo := 512 * min old new
    s.setCore c { k with mem := { k.mem with landing := tclear k.mem.landing lo 1536, lbBad := tclear k.mem.lbBad (16 * lo) 24576 } }

/-- A control-register write on its core, with what it does beyond the register. -/
def State.crOp (s : State) (h : Issue) (w : BitVec 32) (op : CrOp) (rd : Reg) (n : Nat) (rs1 : Reg) : Out :=
  s.issue h w (fun s =>
    let c := h.core.val
    let old := field (s.core c).cr.lbcfg 0 2
    match s.onCore c (fun x k => bCrWrite x w op rd n rs1 k) with
    | .done s => .done (if n = 0x070 then s.lbResize c old (field (s.core c).cr.lbcfg 0 2) else s)
    | r => r)

/-- A control-register write of a given register. -/
def State.crArgs (s : State) (h : Issue) (w : BitVec 32) (n : Nat) (a : CrArgs) : Out := s.crOp h w a.op a.rd n a.rs1

/-- CRPUT (R74). -/
def execCrput (h : Issue) (creg : BitVec 12) (rs1 : Reg) (s : State) : Out :=
  s.cmd fun s =>
  s.crOp h (wordOf (.crput h creg rs1)) .put 0 creg.toNat rs1

/-- CRSWAP (R74). -/
def execCrswap (h : Issue) (rd : Reg) (creg : BitVec 12) (rs1 : Reg) (s : State) : Out :=
  s.cmd fun s =>
  s.crOp h (wordOf (.crswap h rd creg rs1)) .swap rd creg.toNat rs1

/-- CRBSET (R74). -/
def execCrbset (h : Issue) (rd : Reg) (creg : BitVec 12) (rs1 : Reg) (s : State) : Out :=
  s.cmd fun s =>
  s.crOp h (wordOf (.crbset h rd creg rs1)) .bset rd creg.toNat rs1

/-- CRBCLR (R74). -/
def execCrbclr (h : Issue) (rd : Reg) (creg : BitVec 12) (rs1 : Reg) (s : State) : Out :=
  s.cmd fun s =>
  s.crOp h (wordOf (.crbclr h rd creg rs1)) .bclr rd creg.toNat rs1

/-- A write of LBCFG (R76). -/
def execLbcfgWrite (h : Issue) (a : CrArgs) (s : State) : Out :=
  s.cmd fun s =>
  s.crArgs h (wordOf (.lbcfgWrite h a)) 0x070 a

/-- A write of CORE_CFG (R86, R216). -/
def execCoreCfgWrite (h : Issue) (a : CrArgs) (s : State) : Out :=
  s.cmd fun s =>
  s.crArgs h (wordOf (.coreCfgWrite h a)) 0x200 a

/-- A write of WDKICK (R104). -/
def execWdkickWrite (h : Issue) (a : CrArgs) (s : State) : Out :=
  s.cmd fun s =>
  s.crArgs h (wordOf (.wdkickWrite h a)) 0x141 a

/-- A write of CTCMP (R101). -/
def execCtcmpWrite (h : Issue) (a : CrArgs) (s : State) : Out :=
  s.cmd fun s =>
  s.crArgs h (wordOf (.ctcmpWrite h a)) 0x13D a

/-- A write of VSHAPE (R109). -/
def execVshapeWrite (h : Issue) (a : CrArgs) (s : State) : Out :=
  s.cmd fun s =>
  s.crArgs h (wordOf (.vshapeWrite h a)) 0x020 a

/-- A write of TCFGn (R133, R149). -/
def execTcfgWrite (h : Issue) (n : BitVec 4) (a : CrArgs) (s : State) : Out :=
  s.cmd fun s =>
  s.crArgs h (wordOf (.tcfgWrite h n a)) (0x030 + n.toNat) a

/-- Remove translation-buffer entries from a core and its cluster (R80). -/
def State.tlbDrop (s : State) (c : Nat) (p : Tlb → Bool) : State :=
  let k := s.core c
  let s := s.setCore c { k with mem := { k.mem with tlb := k.mem.tlb.filter (fun e => !p e) } }
  let u := s.cluster (c / 8)
  s.setCluster (c / 8) { u with tlb := u.tlb.filter (fun e => !p e) }

/-- TLB.INV (R80): PRIV_INSN at U; at S an ASID outside the partition raises ACCESS with DETAIL 5. `named` says that the
form names an ASID, `idle` that a register field which the form does not use is nonzero, which raises ILLEGAL_INSN (R66);
`p` picks the entries from va, ASID and partition. -/
def State.tlbInv (s : State) (h : Issue) (w : BitVec 32) (rs1 rs2 : Reg) (named idle : Bool)
    (p : Word → Nat → Nat → Tlb → Bool) : Out :=
  s.issue h w (fun s =>
    let c := h.core.val
    let k := s.core c
    let part := s.owner (c / 8)
    let asid := field (xget k rs2) 0 16
    if idle then .trap s (tIllegal w)
    else if k.level = .u then .trap s (tPriv w)
    else if named && decide (k.level = .s) && !asidOk part asid then .trap s ⟨cACCESS, xget k rs2, 5⟩
    else .done (s.tlbDrop c (p (xget k rs1) asid part)))

/-- TLB.INV of one page. -/
def execTlbInvPage (h : Issue) (rs1 rs2 : Reg) (s : State) : Out :=
  s.cmd fun s =>
  s.tlbInv h (wordOf (.tlbInvPage h rs1 rs2)) rs1 rs2 true false
    (fun va asid _ e => decide (e.asid = asid) && decide (va.toNat / 2 ^ e.log = e.base))

/-- TLB.INV of one ASID: rs1 is not used. -/
def execTlbInvAsid (h : Issue) (rs1 rs2 : Reg) (s : State) : Out :=
  s.cmd fun s =>
  s.tlbInv h (wordOf (.tlbInvAsid h rs1 rs2)) rs1 rs2 true (decide (rs1 ≠ 0)) (fun _ asid _ e => decide (e.asid = asid))

/-- TLB.INV of every ASID of the partition: rs1 and rs2 are not used. -/
def execTlbInvAll (h : Issue) (rs1 rs2 : Reg) (s : State) : Out :=
  s.cmd fun s =>
  s.tlbInv h (wordOf (.tlbInvAll h rs1 rs2)) rs1 rs2 false (decide (rs1 ≠ 0) || decide (rs2 ≠ 0)) (fun _ _ part e => asidOk part e.asid)

end Sys2Proof.Machine
end

