-- ==== Sys2Proof/Machine/Engines.lean ====
section
/-! DEFINITION. Outer-product engine instructions and K_STEP (R147, R158 to R180, R367). -/

namespace Sys2Proof.Machine

/-- Does R158 grant engine requests in a core cycle of this number: every second under the fast current limit (R367), every
fourth while a junction reads TCRIT or more (Table 17.4)? -/
def State.grants (s : State) (cycles : Nat) : Bool :=
  if s.pmem.crit then decide (cycles % 4 = 0) else !s.pmem.fcl || decide (cycles % 2 = 0)

/-- K_STEP: one core cycle of the tile queue (R158, R163). A core whose cluster is off runs nothing. -/
def execKStep (core : CoreId) (s : State) : Out :=
  s.cmd fun s =>
  let c := core.val
  if s.dom (clDom (c / 8)) ≠ .on then fin s
  else
    let k := s.marked c
    let (k', ev) := kCycle (s.grants k.tile.cycles) k
    fin (s.unmarked c k' ev)

/-- OPA (R168, R169). -/
def execOpa (h : Issue) (acc : Fin 4) (ta : BitVec 4) (da : Dir) (tb : BitVec 4) (db : Dir) (rs1 : Reg) (s : State) : Out :=
  s.cmd fun s =>
  let w := wordOf (.opa h acc ta da tb db rs1)
  s.issueCore h w (fun x c =>
    let a := tileOp x c ta da
    let b := tileOp x c tb db
    bQueue (opaIssue w c [(acc.val, a, b)] [(a, b)] ta.toNat (xget c rs1)) c)

/-- OPA.P (R168, Table 8.4): pair hp is engines 2hp and 2hp + 1; the shared operand is the column operand with S = 0 and
the row operand with S = 1. -/
def execOpaP (h : Issue) (hp : Fin 2) (st_ : Bool) (ts : BitVec 4) (ds : Dir) (tx ty : BitVec 4) (dxy : Dir) (rs1 : Reg)
    (s : State) : Out :=
  s.cmd fun s =>
  let w := wordOf (.opaP h hp st_ ts ds tx ty dxy rs1)
  s.issueCore h w (fun x c =>
    let a := tileOp x c ts ds
    let p := tileOp x c tx dxy
    let q := tileOp x c ty dxy
    let pair (o : TileOp) : TileOp × TileOp := if st_ then (o, a) else (a, o)
    bQueue (opaIssue w c [(2 * hp.val, pair p), (2 * hp.val + 1, pair q)] [(a, p), (a, q)] ts.toNat (xget c rs1)) c)

/-- OPA.Q (R168): engine 2i + j takes column operand i and row operand j. -/
def execOpaQ (h : Issue) (ta0 ta1 : BitVec 4) (da : Dir) (tb0 tb1 : BitVec 4) (db : Dir) (rs1 : Reg) (s : State) : Out :=
  s.cmd fun s =>
  let w := wordOf (.opaQ h ta0 ta1 da tb0 tb1 db rs1)
  s.issueCore h w (fun x c =>
    let a0 := tileOp x c ta0 da
    let a1 := tileOp x c ta1 da
    let b0 := tileOp x c tb0 db
    let b1 := tileOp x c tb1 db
    bQueue (opaIssue w c [(0, a0, b0), (1, a0, b1), (2, a1, b0), (3, a1, b1)]
      [(a0, b0), (a0, b1), (a1, b0), (a1, b1)] ta0.toNat (xget c rs1)) c)

/-- OPA.W (R169, R171). -/
def execOpaW (h : Issue) (acc : Fin 4) (tb : BitVec 4) (db : Dir) (vs vsc : BitVec 6) (rs1 : Reg) (s : State) : Out :=
  s.cmd fun s =>
  let w := wordOf (.opaW h acc tb db vs vsc rs1)
  s.issueCore h w (fun x c => bQueue (opaWIssue x w c acc.val tb db vs vsc (xget c rs1)) c)

/-- ACC.CLR (R172): SRTAG is captured at issue. -/
def execAccClr (h : Issue) (acc : Fin 4) (wide : Bool) (s : State) : Out :=
  s.cmd fun s =>
  let w := wordOf (.accClr h acc wide)
  s.issueCore h w (fun _ c =>
    bQueue (if engIllegal c [acc.val] then .error (tIllegal w) else .ok (.clr acc.val wide (c.cr.srtag.setWidth 32))) c)

/-- ACC.RD (R173). -/
def execAccRd (h : Issue) (acc : Fin 4) (td : BitVec 4) (rs1 : Reg) (s : State) : Out :=
  s.cmd fun s =>
  let w := wordOf (.accRd h acc td rs1)
  s.issueCore h w (fun x c => bQueue (rdIssue x w c acc.val td (xget c rs1) none) c)

/-- ACC.RD.D (R173). -/
def execAccRdD (h : Issue) (acc : Fin 4) (td te : BitVec 4) (rs1 rs2 : Reg) (s : State) : Out :=
  s.cmd fun s =>
  let w := wordOf (.accRdD h acc td te rs1 rs2)
  s.issueCore h w (fun x c => bQueue (rdIssue x w c acc.val td (xget c rs1) (some (te, xget c rs2))) c)

/-- ACC.WR (R176). -/
def execAccWr (h : Issue) (acc : Fin 4) (ta : BitVec 4) (rs1 : Reg) (s : State) : Out :=
  s.cmd fun s =>
  let w := wordOf (.accWr h acc ta rs1)
  s.issueCore h w (fun x c => bQueue (wrIssue x w c acc.val ta (xget c rs1)) c)

/-- ACC.EMUL.MUL (R177). -/
def execAccEmulMul (h : Issue) (acc : Fin 4) (ta : BitVec 4) (rs1 : Reg) (s : State) : Out :=
  s.cmd fun s =>
  let w := wordOf (.accEmulMul h acc ta rs1)
  s.issueCore h w (fun x c => bQueue (emulIssue x w true false c acc.val ta (xget c rs1)) c)

/-- ACC.EMUL.ADD (R177). -/
def execAccEmulAdd (h : Issue) (acc : Fin 4) (ta : BitVec 4) (rs1 : Reg) (s : State) : Out :=
  s.cmd fun s =>
  let w := wordOf (.accEmulAdd h acc ta rs1)
  s.issueCore h w (fun x c => bQueue (emulIssue x w false false c acc.val ta (xget c rs1)) c)

/-- ACC.EMUL.MUL.B (R177). -/
def execAccEmulMulB (h : Issue) (acc : Fin 4) (ta : BitVec 4) (rs1 : Reg) (s : State) : Out :=
  s.cmd fun s =>
  let w := wordOf (.accEmulMulB h acc ta rs1)
  s.issueCore h w (fun x c => bQueue (emulIssue x w true true c acc.val ta (xget c rs1)) c)

/-- ACC.EMUL.ADD.B (R177). -/
def execAccEmulAddB (h : Issue) (acc : Fin 4) (ta : BitVec 4) (rs1 : Reg) (s : State) : Out :=
  s.cmd fun s =>
  let w := wordOf (.accEmulAddB h acc ta rs1)
  s.issueCore h w (fun x c => bQueue (emulIssue x w false true c acc.val ta (xget c rs1)) c)

/-- ACC.GETS (R178). -/
def execAccGets (h : Issue) (acc : Fin 4) (rd : Reg) (sel : Bool) (s : State) : Out :=
  s.cmd fun s =>
  let w := wordOf (.accGets h acc rd sel)
  s.issueCore h w (fun _ c => bGets w acc.val rd sel c)

/-- ACC.PUTS (R178). -/
def execAccPuts (h : Issue) (acc : Fin 4) (rs1 : Reg) (sel : Bool) (s : State) : Out :=
  s.cmd fun s =>
  let w := wordOf (.accPuts h acc rs1 sel)
  s.issueCore h w (fun _ c => bPuts w acc.val rs1 sel c)

/-- OPA.MP ILO (R180). -/
def execOpaMpIlo (h : Issue) (acc : Fin 4) (ta : BitVec 4) (da : Dir) (tb : BitVec 4) (db : Dir) (rs1 : Reg)
    (s : State) : Out :=
  s.cmd fun s =>
  let w := wordOf (.opaMpIlo h acc ta da tb db rs1)
  s.issueCore h w (fun x c => bQueue (mpIssue x w 0 c acc.val ta da tb db (xget c rs1)) c)

/-- OPA.MP IHI (R180). -/
def execOpaMpIhi (h : Issue) (acc : Fin 4) (ta : BitVec 4) (da : Dir) (tb : BitVec 4) (db : Dir) (rs1 : Reg)
    (s : State) : Out :=
  s.cmd fun s =>
  let w := wordOf (.opaMpIhi h acc ta da tb db rs1)
  s.issueCore h w (fun x c => bQueue (mpIssue x w 1 c acc.val ta da tb db (xget c rs1)) c)

/-- OPA.MP CRE (R180). -/
def execOpaMpCre (h : Issue) (acc : Fin 4) (ta : BitVec 4) (da : Dir) (tb : BitVec 4) (db : Dir) (rs1 : Reg)
    (s : State) : Out :=
  s.cmd fun s =>
  let w := wordOf (.opaMpCre h acc ta da tb db rs1)
  s.issueCore h w (fun x c => bQueue (mpIssue x w 2 c acc.val ta da tb db (xget c rs1)) c)

/-- OPA.MP CIM (R180). -/
def execOpaMpCim (h : Issue) (acc : Fin 4) (ta : BitVec 4) (da : Dir) (tb : BitVec 4) (db : Dir) (rs1 : Reg)
    (s : State) : Out :=
  s.cmd fun s =>
  let w := wordOf (.opaMpCim h acc ta da tb db rs1)
  s.issueCore h w (fun x c => bQueue (mpIssue x w 3 c acc.val ta da tb db (xget c rs1)) c)

end Sys2Proof.Machine
end

