-- ==== Sys2Proof/Machine/Ethernet.lean ====
section
/-! DEFINITION. The Ethernet ports (R363 to R365): ring pairs, transmit, receive, link state. -/

namespace Sys2Proof.Machine

/-- An Ethernet port. -/
def State.eport (s : State) (n : Nat) : EthPort := tget {} s.fab.eth n

/-- Replace an Ethernet port. -/
def State.setEport (s : State) (n : Nat) (v : EthPort) : State := { s with fab := { s.fab with eth := tset {} s.fab.eth n v } }

/-- A ring pair of a port. -/
def State.epair (s : State) (n p : Nat) : EthPair := tget {} (s.eport n).pairs p

/-- Replace a ring pair. -/
def State.setEpair (s : State) (n p : Nat) (v : EthPair) : State :=
  let e := s.eport n
  s.setEport n { e with pairs := tset {} e.pairs p v }

/-- Where a pair's area and objects lie: the area's address and the lowest sync block, while the partition holds both on the
port's die (R364). -/
def State.ethPlace (s : State) (n p : Nat) : Option (Nat × Nat) :=
  let g := (List.range 1536).find? (fun i => decide (tget 0 s.own.gran (1536 * n + i) = p))
  let b := (List.range 64).find? (fun i => decide (tget 0 s.own.sync (64 * n + i) = p))
  match g, b with
  | some g, some b => if s.exists_ p then some ((1536 * n + g) * 2 ^ 30, b) else none
  | _, _ => none

/-- A read by a pair, checked under R26: a poisoned source is consumed (R400) and brings free bytes (log 5). Table 19.3 has no
row for an Ethernet port: its record gives kind 12 and 32 × port + partition (DESIGN CHOICE, log 69). -/
def State.ethGet (s : State) (n p : Nat) (a : Word) (len : Nat) : State × PAns :=
  match s.rangeBad p a len true true with
  | some _ => (s, .fail a.toNat)
  | none =>
    if a.toNat < 0x30000000000 then
      match s.readMem a.toNat len with
      | (s, b, none) => (s, .bytes b)
      | (s, _, some x) => let (s, b) := (s.consume 12 (32 * n + p) p n x).freeBytes len; (s, .bytes b)
    else
      match s.winRead (.eth n p) p a.toNat len with
      | (s, .poison x) => let (s, b) := (s.consume 12 (32 * n + p) p n x).freeBytes len; (s, .bytes b)
      | x => x

/-- A write by a pair, checked under R26. -/
def State.ethPut (s : State) (n p : Nat) (a : Word) (b : List Byte) : State :=
  match s.rangeBad p a b.length true true with
  | some _ => s
  | none => if a.toNat < 0x30000000000 then s.writeMem a.toNat b false else (s.winWrite (.eth n p) p a.toNat b false).1

/-- The pair with its control words read again when TXDB or RXDB has changed since they were read (R364). -/
def State.ethRefresh (s : State) (n p : Nat) : State :=
  match s.ethPlace n p with
  | none => s
  | some (a, b) =>
    let e := s.epair n p
    let tx := s.objVal n (64 * b + 60)
    let rx := s.objVal n (64 * b + 62)
    if e.off ∨ (e.txdb = tx ∧ e.rxdb = rx) then s
    else
      match s.ethGet n p (w64 a) 24 with
      | (s, .bytes l) =>
        let w (i : Nat) : Word := w64 (ofBytes ((l.drop (8 * i)).take 8))
        s.setEpair n p { e with txdb := tx, rxdb := rx, ctl := w 0, txb := w 1, rxb := w 2 }
      | (s, _) => s

/-- Does a pair have a frame to send, by the control words it has read? -/
def State.ethReady (s : State) (n p : Nat) : Bool :=
  let e := s.epair n p
  (s.ethPlace n p).isSome && bitAt e.ctl 0 && decide (e.tpos < e.txdb.toNat)

/-- Every pair of a port reads its control words where TXDB or RXDB has changed (R364). -/
def State.ethFresh (s : State) (n : Nat) : State := (List.range 17).foldl (fun s p => s.ethRefresh n p) s

/-- The pair whose turn it is to send (R364): after the pair that sent last, in rotation. -/
def State.ethTurn (s : State) (n : Nat) : Option Nat :=
  ((List.range 17).map (fun i => ((s.eport n).last + 1 + i) % 17)).find? (s.ethReady n)

/-- A MAC address as the six bytes of a frame. -/
def macBytes (m : Nat) : List Byte := (List.range 6).map (fun i => BitVec.ofNat 8 (m / 256 ^ (5 - i)))

/-- ETH_MACBASE of a port (R365). -/
def macBase (n : Nat) : Nat := Config.macBase.toNat + 32 * n

/-- The FCS of a MAC frame: the CRC-32 of the rest of it (R363). -/
def ethFcs (frame : List Byte) : List Byte := toBytes 4 (crc32 frame).toNat

/-- The descriptor at a position of a ring: its address. -/
def ringSlot (base : Word) (log pos : Nat) : Word := base + w64 (16 * (pos % 2 ^ log))

/-- A pair's transmit position goes on, and TXHEAD is SET to it (R364). -/
def State.ethSent (s : State) (n p b : Nat) : State :=
  let e := s.epair n p
  let s := (s.setEpair n p { e with tpos := e.tpos + 1 }).forget (.eth n p)
  let s := s.setEport n { s.eport n with last := p }
  s.signal n (64 * b + 61) 0 (w64 (e.tpos + 1))

/-- Send the frame of the descriptor at the transmit position, with its FCS. A descriptor or buffer that R26 refuses, or a length that no
MAC frame has, sends nothing, and the position goes on (R363, R364). -/
def State.ethSend (s : State) (n p b : Nat) : State :=
  let e := s.epair n p
  match s.ethGet n p (ringSlot e.txb (field e.ctl 8 4) e.tpos) 16 with
  | (s, .wait) => s
  | (s, .bytes l) =>
    let a := w64 (ofBytes (l.take 8))
    let len := ofBytes (l.drop 8) % 16384
    if len < 60 ∨ 9212 < len then s.ethSent n p b
    else
      match s.ethGet n p a len with
      | (s, .wait) => s
      | (s, .bytes f) =>
        let f := f.take 6 ++ macBytes (macBase n + p) ++ f.drop 12
        let s := (s.emit (.eth n (f ++ ethFcs f))).ethSent n p b
        s.setEport n { s.eport n with tx := satAdd (s.eport n).tx 1 }
      | (s, _) => s.ethSent n p b
  | (s, _) => s.ethSent n p b

/-- ETHERNET_TRANSMIT (R364). -/
def execEthernetTransmit (eth : Fin 2) (part : PartId) (s : State) : Out :=
  s.cmd fun s =>
  let n := eth.val
  let p := part.val
  let s := s.ethFresh n
  match s.ethPlace n p with
  | none => fin s
  | some (_, b) =>
    if (s.eport n).rate ≠ 0 ∧ s.ethTurn n = some p then fin (s.ethSend n p b) else fin s

/-- A received frame is dropped and counted. -/
def State.ethDrop (s : State) (n : Nat) : State :=
  let e := s.eport n
  s.setEport n { e with drop := satAdd e.drop 1 }

/-- Does a pair wait for the descriptor of its next buffer, from a host window? The frame is taken when it has come. -/
def State.ethAsk (s : State) (n p : Nat) : State × Bool :=
  let s := s.ethRefresh n p
  let e := s.epair n p
  if (s.ethPlace n p).isSome ∧ bitAt e.ctl 0 ∧ e.rpos < e.rxdb.toNat then
    match s.ethGet n p (ringSlot e.rxb (field e.ctl 16 4) e.rpos) 16 with
    | (s, .wait) => (s, true)
    | _ => (s, false)
  else (s, false)

/-- A received frame goes into the next buffer of a pair, or is dropped (R364). -/
def State.ethInto (s : State) (n p : Nat) (frame : List Byte) : State :=
  let s := s.ethRefresh n p
  match s.ethPlace n p with
  | none => s
  | some (_, b) =>
    let e := s.epair n p
    if !bitAt e.ctl 0 then s
    else if e.rxdb.toNat ≤ e.rpos then s.ethDrop n
    else
      let slot := ringSlot e.rxb (field e.ctl 16 4) e.rpos
      match s.ethGet n p slot 16 with
      | (s, .bytes l) =>
        let a := w64 (ofBytes (l.take 8))
        let w1 := w64 (ofBytes (l.drop 8))
        if field w1 0 14 < frame.length ∨ (s.rangeBad p a frame.length true true).isSome then (s.ethDrop n).forget (.eth n p)
        else
          let s := s.ethPut n p a frame
          let s := s.ethPut n p (slot + 8) (toBytes 8 (putField (putField w1 0 14 frame.length) 15 1 1).toNat)
          let s := (s.setEpair n p { e with rpos := e.rpos + 1 }).forget (.eth n p)
          s.signal n (64 * b + 63) 0 (w64 (e.rpos + 1))
      | (s, _) => s.ethDrop n

/-- The pairs that a received frame goes to: the one it is addressed to, or every one for a broadcast or multicast frame. -/
def ethPairs (n : Nat) (frame : List Byte) : List Nat :=
  if bitAt (frame.headD 0) 0 then List.range 17
  else (List.range 17).filter (fun p => decide (frame.take 6 = macBytes (macBase n + p)))

/-- ETHERNET_RECEIVE (R363, R364): a frame and the FCS that came with it; a buffer takes it without. -/
def execEthernetReceive (eth : Fin 2) (frame : List Byte) (fcs : BitVec 32) (s : State) : Out :=
  s.cmd fun s =>
  let n := eth.val
  let e := s.eport n
  if e.rate = 0 then fin s
  else if fcs ≠ crc32 frame then fin (s.setEport n { e with fcs := satAdd e.fcs 1 })
  else if frame.length < 60 ∨ 9212 < frame.length ∨ ofBytes ((frame.drop 12).take 2) = 0x0888 then fin (s.ethDrop n)
  else
    let l := ethPairs n frame
    match l.foldl (fun (a : State × Bool) p => let (s, w) := a.1.ethAsk n p; (s, a.2 || w)) (s, false) with
    | (s, true) => fin s
    | (s, false) =>
      let e := s.eport n
      fin (l.foldl (fun s p => s.ethInto n p frame) (s.setEport n { e with rx := satAdd e.rx 1 }))

/-- ETHERNET_LINK_CHANGE (R365): rate 0 down, 1 800 Gb/s, 2 1.6 Tb/s; 3 names no rate. -/
def execEthernetLinkChange (eth : Fin 2) (rate : BitVec 2) (s : State) : Out :=
  s.cmd fun s =>
  if rate = 3 ∨ s.lkOut (2 * eth.val) then fin s else fin (s.setEport eth.val { s.eport eth.val with rate := rate.toNat })

end Sys2Proof.Machine
end

