-- ==== Sys2Proof/Machine/Fabric.lean ====
section
/-! DEFINITION. Commands of the Lumette fabric (16): frames that arrive, timeouts, link training and discovery, routes, and
the packets LINK_QUERY and LINK_CTRL (R361). -/

namespace Sys2Proof.Machine

/-- FRAME_RECEIVE (R345), with what FEC made of its codewords (Table 16.6). A port that does not signal receives nothing. -/
def execFrameReceive (port : Fin 8) (f : Frame) (crcOk : Bool) (fec : Fec) (s : State) : Out :=
  s.cmd fun s =>
  match (s.fport port.val).st with
  | .disabled | .training => fin s
  | _ => fin ((s.fecFixed port.val fec.fixed).receive port.val f crcOk fec.uncorr)

/-- A frame of one type that has reached this device: another type, a frame that breaks Table 16.2, or one for another
device is no frame of this row. -/
def State.target (s : State) (type : Nat) (f : Frame) : State :=
  if f.type = type ∧ f.dst = s.devid ∧ frameOk f then s.deliver f else s

/-- PUT (R348). -/
def execPut (f : Frame) (s : State) : Out :=
  s.cmd fun s =>
  fin (s.target 1 f)

/-- GET (R348). -/
def execGet (f : Frame) (s : State) : Out :=
  s.cmd fun s =>
  fin (s.target 2 f)

/-- GETR (R348). -/
def execGetr (f : Frame) (s : State) : Out :=
  s.cmd fun s =>
  fin (s.target 3 f)

/-- REDUCE (R348). -/
def execReduce (f : Frame) (s : State) : Out :=
  s.cmd fun s =>
  fin (s.target 4 f)

/-- SIGNAL (R254, R350). -/
def execSignal (f : Frame) (s : State) : Out :=
  s.cmd fun s =>
  fin (s.target 5 f)

/-- MCAST_FRAME (R348). -/
def execMcastFrame (f : Frame) (s : State) : Out :=
  s.cmd fun s =>
  fin (s.target 6 f)

/-- RESP (R349). -/
def execResp (f : Frame) (s : State) : Out :=
  s.cmd fun s =>
  fin (s.target 7 f)

/-- FAB_E2E in ticks: 0 acts as 1 ms (Table 16.6). -/
def State.e2eTicks (s : State) : Nat := 25000 * max 1 (field s.fab.e2e 0 16)

/-- Does a request wait for a response that FAB_E2E bounds (R349, R351)? -/
def FKind.timed : FKind → Bool
  | .psn _ held due => !held && !due
  | .red _ due => !due
  | _ => true

/-- FAB_E2E_TIMEOUT (R349): no response within FAB_E2E makes the request undeliverable. -/
def execFabE2eTimeout (tag : BitVec 16) (s : State) : Out :=
  s.cmd fun s =>
  match tget none s.fab.reqs tag.toNat with
  | none => fin s
  | some r =>
    if r.kind.timed ∧ r.sent + s.e2eTicks ≤ s.now then fin (s.reqDone tag.toNat r (.lost 5 0)) else fin s

/-- A request goes on under a fresh tag: a response to the old one is late (R349). -/
def State.retag (s : State) (q : QId) (old new : Nat) : State :=
  let u := s.queue q
  s.setQueue q { u with psnTags := u.psnTags.map (fun t => if t = old then new else t) }

/-- PSN_SIGNAL_RESEND (R351): 10 ms after it was undeliverable a PSN SIGNAL is sent again by the route of now, with a tag of
its own. -/
def execPsnSignalResend (tag : BitVec 16) (s : State) : Out :=
  s.cmd fun s =>
  match tget none s.fab.reqs tag.toNat with
  | none => fin s
  | some r =>
    match r.kind with
    | .psn n false true =>
      if s.now < r.sent + 250000 then fin s
      else
        let r := { r with kind := FKind.psn (n + 1) false false, sent := s.now }
        if s.noRoute r.frame.dst then fin (s.reqDone tag.toNat r (.lost 6 0))
        else
          match r.who with
          | .ring q =>
            let (t, s) := (s.dropReq tag.toNat).newTag
            let f := { r.frame with h1 := place t 16 16 }
            fin (((s.retag q tag.toNat t).addReq t { r with frame := f }).send f)
          | _ => fin s
    | _ => fin s

/-- NAK (R345). -/
def execNak (port : Fin 8) (seq : BitVec 16) (s : State) : Out :=
  s.cmd fun s =>
  fin (s.onNak port.val seq)

/-- CREDIT (R346). -/
def execCredit (port : Fin 8) (vc : BitVec 3) (n : BitVec 13) (s : State) : Out :=
  s.cmd fun s =>
  fin (s.onCredit port.val vc.toNat n.toNat)

/-- HELLO (R358). -/
def execHello (port : Fin 8) (payload : Sector) (s : State) : Out :=
  s.cmd fun s =>
  fin (s.onHello port.val payload)

/-- HELLO_SEND (R358). -/
def execHelloSend (port : Fin 8) (s : State) : Out :=
  s.cmd fun s =>
  match (s.fport port.val).st with
  | .hello | .up | .miswired => fin (s.transmit port.val (s.linkFrame port.val 2 0 [s.helloPayload port.val]))
  | _ => fin s

/-- HELLO_TIMEOUT (R358): 3 ms with no HELLO. -/
def execHelloTimeout (port : Fin 8) (s : State) : Out :=
  s.cmd fun s =>
  let p := s.fport port.val
  if p.st = .up ∧ p.heard + 75000 ≤ s.now then fin (s.leave port.val .training lostHello false) else fin s

/-- The width that training chooses (R343): the code of Table 16.7, 0 when it fails. -/
def trainWidth (lanes : LaneMask) (half : Bool) : Nat :=
  if field lanes 0 16 = 65535 ∧ !half then 3
  else if field lanes 0 8 = 255 then 1
  else if field lanes 8 8 = 255 then 2
  else 0

/-- TRAINING_ATTEMPT (R343), one every 100 ms: `lanes` are those that both ends lock, less the lanes that an injection
silences. -/
def execTrainingAttempt (port : Fin 8) (lanes : LaneMask) (s : State) : Out :=
  s.cmd fun s =>
  if (s.fport port.val).st = .training then
    let s := s.retrainOver port.val
    let p := s.fport port.val
    fin (s.setFport port.val { p with width := trainWidth (lanes &&& ~~~p.dead) p.half })
  else fin s

/-- FEC_LOCK (Table 16.5): a port whose training has chosen a width goes to HELLO. -/
def execFecLock (port : Fin 8) (s : State) : Out :=
  s.cmd fun s =>
  let p := s.fport port.val
  if p.st = .training ∧ p.width ≠ 0 then fin (s.setFport port.val { p with st := .hello }) else fin s

/-- LOSS_OF_LOCK (Table 16.5). A port cannot tell it from a retrain that its partner has begun, which keeps both retry states
(R345): it keeps its own as for a retrain, and R357 handles the frames where the same partner is not restored within 100 ms
or comes back with a state of its own (DESIGN CHOICE, log 52). -/
def execLossOfLock (port : Fin 8) (s : State) : Out :=
  s.cmd fun s =>
  match (s.fport port.val).st with
  | .disabled | .training => fin s
  | _ => fin (s.leave port.val .training lostLock true)

/-- LSA (R359): link-state advertisements come in on UP ports. -/
def execLsa (port : Fin 8) (payload : Sector) (s : State) : Out :=
  s.cmd fun s =>
  if (s.fport port.val).st = .up then fin (s.onLsa port.val payload) else fin s

/-- Devices of the fabric. -/
def State.devices (s : State) : Nat := 2 ^ s.dimLo 4

/-- The intermediate device that R356 names, with the hops of the detour: the fewest hops, the lowest DEVID on a tie. -/
def State.detour (s : State) (dst : Nat) : Option (Nat × Nat) :=
  (List.range s.devices).foldl (fun best i =>
    match s.pathLen 64 s.devid i, s.pathLen 64 i dst with
    | some a, some b =>
      (match best with
      | some (n, _) => if a + b < n then some (a + b, i) else best
      | none => some (a + b, i))
    | _, _ => best) none

/-- The FAB_RTAB entry of a destination (R356, Table 16.9). -/
def State.route (s : State) (dst : Nat) : Word :=
  if s.badCfg ∨ s.devices ≤ dst then 0x8000
  else if (s.pathLen 64 s.devid dst).isSome then 0
  else match s.detour dst with
    | some (_, i) => place 1 14 1 ||| place i 0 14
    | none => 0x8000

/-- The poisoning SIGNALs held for a destination that has become unreachable (R351). -/
def State.dropHeld (s : State) (dst : Nat) : State :=
  let gone := s.fab.reqs.filterMap (fun e => match e.2 with
    | some r => (match r.kind with
      | .psn _ true _ => if r.frame.dst = dst then some e.1 else none
      | _ => none)
    | none => none)
  runJobs jobFuel (gone.map (fun t => .acked t true)) s

/-- The entries that the link states of now change, with their new values. -/
def State.newRoutes (s : State) : List (Nat × Word) :=
  ((List.range s.devices).filter (fun d => decide (d ≠ s.devid))).filterMap (fun d =>
    let e := s.route d
    if e = s.rtab d then none else some (d, e))

/-- Write an entry of FAB_RTAB: a destination that becomes unreachable ends the SIGNALs held for it (R351). -/
def State.setRoute (s : State) (d : Nat) (e : Word) : State :=
  let s := { s with fab := { s.fab with rtab := tset 0x8000 s.fab.rtab d e } }
  if bitAt e 15 then s.dropHeld d else s

/-- The LSA that a rewrite of the routes follows: origin and version, of the last one stored where the origin named has none. -/
def State.lsaOf (s : State) (org : Nat) : Nat × Nat :=
  match tget none s.fab.lsas org with
  | some (ver, _) => (org, ver)
  | none => s.fab.lastLsa

/-- ROUTE_UPDATE (R356, R360): after an LSA of `org` the steward rewrites every changed entry, and writes one record of it
(Table 16.10). -/
def execRouteUpdate (org : BitVec 14) (s : State) : Out :=
  s.cmd fun s =>
  let l := s.newRoutes
  if l.isEmpty then fin s
  else
    let (org, ver) := s.lsaOf org.toNat
    let s := l.foldl (fun s e => s.setRoute e.1 e.2) s
    fin (s.log 0x54 31 2 false [w64 org, w64 ver, w64 l.length, w64 (l.filter (fun e => bitAt e.2 15)).length])

/-- FAB_PSTATE (Table 16.7). -/
def FPort.pstate (p : FPort) : Word :=
  place p.pdev 50 14 ||| place p.pport 47 3 ||| place p.width 6 2 ||| place p.st.code 0 3

/-- The ports that the PORTS field of a packet names. -/
def Pkt.ports (i : Nat) (p : Pkt) : List Nat := (List.range 8).filter (bitAt (p.word i))

/-- LINK_QUERY (R361). -/
def State.linkQuery (s : State) (q : QId) (p : Pkt) : State :=
  let l := p.ports 1
  let n := 32 * l.length
  if l.isEmpty then s.finish q p stOK 0
  else
    match s.rangeBad p.part (p.word 0) n true true with
    | some st => s.badWord q p st 0
    | none =>
      let b := l.flatMap (fun i =>
        let f := s.fport i
        [f.pstate.toNat, f.crcerr, f.nak, f.retrain].flatMap (toBytes 8))
      s.putResult q p (p.word 0).toNat b (w64 n)

/-- LINK_QUERY. -/
def execLinkQuery (p : PktRef) (s : State) : Out :=
  s.cmd fun s =>
  s.pktRow p 0x30 (fun s q k _ => s.linkQuery q k)

/-- LINK_CTRL on one port (R361, Table 16.5): a disabled port leaves that state on UP alone, and only one that R353 wires
under a valid configuration; RETRAIN and FULL end FAB_LANE (Table 19.4). -/
def State.linkCtrl (s : State) (op port : Nat) : State :=
  let p := s.fport port
  let wired := !s.badCfg && (s.partner s.devid port).isSome && !s.lkOut (port / 2)
  match op with
  | 0 => (s.leave port .disabled lostCtrl false).parkLinks
  | 1 => if p.st = .disabled ∧ wired then (s.wake (26 + port / 2)).setFport port { p with st := .training } else s
  | 2 =>
    let s := s.setFport port { p with dead := 0 }
    if p.st = .disabled then s else s.leave port .training lostCtrl true
  | _ =>
    let s := s.setFport port { p with half := decide (op = 3), dead := if op = 4 then 0 else p.dead }
    if p.st = .disabled then s else s.leave port .training lostCtrl true

/-- LINK_CTRL of operation `op` (R361): DOWN completes at once, the others when every named port is UP. -/
def State.linkCtrlRow (s : State) (r : PktRef) (op : Nat) : State :=
  let q := r.queue
  match s.takeSub r 0x31 (fun p => if (p.ports 0).isEmpty then op else field (p.word 0) 8 4) (fun n => decide (n ≤ 4)) 0 op with
  | (s, none) => s
  | (s, some (p, fresh)) =>
    let l := p.ports 0
    if l.isEmpty then s.finish q p stOK 0
    else
      let s := if fresh then l.foldl (fun s n => s.linkCtrl op n) s else s
      if op = 0 ∨ l.all (fun n => decide ((s.fport n).st = .up)) then s.finish q p stOK 0 else s

/-- LINK_CTRL DOWN. -/
def execLinkCtrlDown (p : PktRef) (s : State) : Out :=
  s.cmd fun s =>
  fin (s.linkCtrlRow p 0)

/-- LINK_CTRL UP. -/
def execLinkCtrlUp (p : PktRef) (s : State) : Out :=
  s.cmd fun s =>
  fin (s.linkCtrlRow p 1)

/-- LINK_CTRL RETRAIN. -/
def execLinkCtrlRetrain (p : PktRef) (s : State) : Out :=
  s.cmd fun s =>
  fin (s.linkCtrlRow p 2)

/-- LINK_CTRL HALF. -/
def execLinkCtrlHalf (p : PktRef) (s : State) : Out :=
  s.cmd fun s =>
  fin (s.linkCtrlRow p 3)

/-- LINK_CTRL FULL. -/
def execLinkCtrlFull (p : PktRef) (s : State) : Out :=
  s.cmd fun s =>
  fin (s.linkCtrlRow p 4)

/-- LINK_CTRL_TIMEOUT (R361): after 1 s with a named port not UP. -/
def execLinkCtrlTimeout (p : PktRef) (s : State) : Out :=
  s.cmd fun s =>
  match s.pktAt p 0x31 with
  | none => fin s
  | some k =>
    let down := (k.ports 0).filter (fun n => !decide ((s.fport n).st = .up))
    if k.st = .begun ∧ k.began + 25000000 ≤ s.now ∧ down ≠ [] ∧ k.work.head? ≠ some commitWork then
      fin (s.finish p.queue k stLINK_DOWN (w64 ((down.map (fun n => 2 ^ n)).sum)))
    else fin s

end Sys2Proof.Machine
end

