-- ==== Sys2Proof/Machine/Float.lean ====
section
/-! DEFINITION. The scalar floating-point instructions (R65, R72, Table 4.7). -/

namespace Sys2Proof.Machine

/-- FADD, FSUB, FMUL. -/
def execFaddFsubFmul (h : Issue) (fp16 : Bool) (op : FArith) (rd rs1 rs2 : Reg) (s : State) : Out :=
  s.cmd fun s =>
  s.issueCore h (wordOf (.faddFsubFmul h fp16 op rd rs1 rs2))
    (fun _ c => fput fp16 rd (faVal op (fsrc c fp16 rs1) (fsrc c fp16 rs2)) c)

/-- FMIN, FMAX. -/
def execFminFmax (h : Issue) (fp16 : Bool) (max : Bool) (rd rs1 rs2 : Reg) (s : State) : Out :=
  s.cmd fun s =>
  s.issueCore h (wordOf (.fminFmax h fp16 max rd rs1 rs2))
    (fun _ c => fput fp16 rd (fMinMaxVal max (fsrc c fp16 rs1) (fsrc c fp16 rs2)) c)

/-- FMA: rd + rs1 × rs2, rounded once. -/
def execFma (h : Issue) (fp16 : Bool) (rd rs1 rs2 : Reg) (s : State) : Out :=
  s.cmd fun s =>
  s.issueCore h (wordOf (.fma h fp16 rd rs1 rs2))
    (fun _ c => fput fp16 rd ((fsrc c fp16 rd).add ((fsrc c fp16 rs1).mul (fsrc c fp16 rs2))) c)

/-- FCMP EQ, LT, LE. -/
def execFcmp (h : Issue) (fp16 : Bool) (op : FCmpOp) (rd rs1 rs2 : Reg) (s : State) : Out :=
  s.cmd fun s =>
  s.issueCore h (wordOf (.fcmp h fp16 op rd rs1 rs2))
    (fun _ c => putReg c rd (if fCmpVal op (fsrc c fp16 rs1) (fsrc c fp16 rs2) then 1 else 0))

/-- FCVT.F: from the other format into the selected one. -/
def execFcvtF (h : Issue) (fp16 : Bool) (rd rs1 : Reg) (s : State) : Out :=
  s.cmd fun s =>
  s.issueCore h (wordOf (.fcvtF h fp16 rd rs1)) (fun _ c => fput fp16 rd (fsrc c (!fp16) rs1) c)

/-- FCVT.FI: from a signed 64-bit integer. -/
def execFcvtFi (h : Issue) (fp16 : Bool) (rd rs1 : Reg) (s : State) : Out :=
  s.cmd fun s =>
  s.issueCore h (wordOf (.fcvtFi h fp16 rd rs1)) (fun _ c => fput fp16 rd (intVal (xget c rs1).toInt) c)

/-- FCVT.IF: to a signed 64-bit integer toward zero, saturating; a NaN gives 0. -/
def execFcvtIf (h : Issue) (fp16 : Bool) (rd rs1 : Reg) (s : State) : Out :=
  s.cmd fun s =>
  s.issueCore h (wordOf (.fcvtIf h fp16 rd rs1))
    (fun _ c => putReg c rd (BitVec.ofInt 64 (toIntSat 64 (fsrc c fp16 rs1)).1))

/-- FDIV. -/
def execFdiv (h : Issue) (fp16 : Bool) (rd rs1 rs2 : Reg) (s : State) : Out :=
  s.cmd fun s =>
  s.issueCore h (wordOf (.fdiv h fp16 rd rs1 rs2)) (fun _ c => bFdiv fp16 rd rs1 rs2 c)

/-- FSQRT. -/
def execFsqrt (h : Issue) (fp16 : Bool) (rd rs1 : Reg) (s : State) : Out :=
  s.cmd fun s =>
  s.issueCore h (wordOf (.fsqrt h fp16 rd rs1)) (fun _ c => fput fp16 rd (fsrc c fp16 rs1).sqrt c)

end Sys2Proof.Machine
end

