-- ==== Sys2Proof/Machine/Queues.lean ====
section
/-! DEFINITION. Command queues from ring to reply (R302 to R313): doorbells, reading a packet, writing a reply. -/

namespace Sys2Proof.Machine

/-- Does the queue take its doorbells from sync objects (HRN_QCFG.DBMODE)? -/
def Queue.objBells (u : Queue) : Bool := bitAt u.cfg 16

/-- The doorbell count (HRN_QTAIL as it reads, Table 14.1). -/
def State.bell (s : State) (q : QId) : Nat :=
  let u := s.queue q
  if u.objBells then (s.objVal q.die.val (field u.cfg 40 12)).toNat else u.tail.toNat

/-- The replies consumed (HRN_QRDONE as it reads, Table 14.1). -/
def State.consumed (s : State) (q : QId) : Nat :=
  let u := s.queue q
  if u.objBells then (s.objVal q.die.val (field u.cfg 28 12)).toNat else u.rdone.toNat

/-- HRN_QHEAD (R304, R195). -/
def Queue.head (u : Queue) : Nat :=
  match u.region with
  | some g => g.startPos
  | none => match u.pkts.find? (fun p => decide (p.st = .waiting)) with
    | some p => p.pos
    | none => u.nextPos

/-- A write of HRN_QTAIL; ignored under DBMODE 1 (Table 14.1). -/
def State.qtailWrite (s : State) (q : QId) (v : Word) : State :=
  let u := s.queue q
  if u.v && !u.objBells then s.setQueue q { u with tail := v } else s

/-- A write of HRN_QRDONE; ignored under DBMODE 1 (Table 14.1). -/
def State.qrdoneWrite (s : State) (q : QId) (v : Word) : State :=
  let u := s.queue q
  if u.v && !u.objBells then s.setQueue q { u with rdone := v } else s

/-- A write of HRN_QRESUME (R313). -/
def State.qresumeWrite (s : State) (q : QId) (v : Word) : State :=
  let u := s.queue q
  if u.v && u.stop && !u.killed && decide (u.head ≤ v.toNat) && decide (v.toNat ≤ s.bell q) then
    s.setQueue q { u with stop := false, cause := 0, nextPos := v.toNat,
                          pkts := u.pkts.filter (fun p => decide (p.st = .begun)) }
  else s

/-- HRN_QTAIL_WRITE. -/
def execHrnQtailWrite (q : QId) (v : Word) (s : State) : Out :=
  s.cmd fun s =>
  fin (s.qtailWrite q v)

/-- HRN_QRDONE_WRITE. -/
def execHrnQrdoneWrite (q : QId) (v : Word) (s : State) : Out :=
  s.cmd fun s =>
  fin (s.qrdoneWrite q v)

/-- HRN_QRESUME_WRITE. -/
def execHrnQresumeWrite (q : QId) (v : Word) (s : State) : Out :=
  s.cmd fun s =>
  fin (s.qresumeWrite q v)

/-- May the queue read its next position (R304, R309, R312, R313)? One that is not begun is read at a time. -/
def State.mayRead (s : State) (q : QId) : Bool :=
  let u := s.queue q
  u.v && !u.killed && s.mayBegin q && u.pkts.all (fun p => decide (p.st = .begun)) && decide (u.nextPos < s.bell q)

/-- Does the partition of a queue still hold the granule of a place in its rings (R26)? -/
def State.ringHeld (s : State) (q : QId) (a n : Nat) : Bool := (s.rangeBad q.part.val (w64 a) n true true).isNone

/-- Read 64 bytes of the packet ring, through the west half of the die's control cache or a host window. A slot in a granule
of another partition is not read (R26). A poisoned completion brings no bytes: they are free (log 5). -/
def State.slotRead (s : State) (q : QId) : State × PAns × List Byte :=
  let u := s.queue q
  let a := u.qbase.toNat + 64 * (u.nextPos % 2 ^ field u.cfg 0 5)
  if !s.ringHeld q a 64 then (s, .fail a, [])
  else if a < 0x30000000000 then
    match s.ccBytes q.die.val 0 a 64 with
    | (s, b, none) => (s, .bytes b, b)
    | (s, b, some x) => (s, .poison x, b)
  else
    let who : Agent := .ring q
    match s.winRead who q.part.val a 64 with
    | (s, .poison x) =>
      let (s, b) := s.freeBytes 64
      (s, .poison x, b)
    | (s, r) => (s, r, match r with | .bytes b => b | _ => [])

/-- The packet that 64 bytes hold: the header and the 2 × PLEN words that are read (R306). -/
def pktOf (pos : Nat) (b : List Byte) : Pkt :=
  let w (i : Nat) : Word := w64 (ofBytes ((b.drop (8 * i)).take 8))
  let h0 := w 0
  { pos := pos, h0 := h0, h1 := w 1, w := (List.range (min 6 (2 * field h0 32 8))).map (fun i => w (i + 2)) }

/-- Is a position the last of an open region whose earlier packets have not all completed? A packet there that stops the queue
closes the region, and is read again until they have (R194). -/
def State.closesLater (s : State) (q : QId) (pos : Nat) : Bool :=
  match (s.queue q).region with
  | some g => decide (pos = g.startPos + g.len) && !s.quietFrom q g.startPos pos
  | none => false

/-- The queue stops at the packet it has just read, which completes and performs no signal (R308, Table 19.3). -/
def State.stopAt (s : State) (q : QId) (p : Pkt) (cause : Nat) (st : Byte) (d : Word) : State :=
  if s.closesLater q p.pos then s
  else (s.setQueue q { s.queue q with stop := true, cause := cause, nextPos := p.pos + 1 }).failPkt q p st d

/-- PACKET_READ (R304, R308): the slot of the next position is read, its SEQ checked, and the packet waits for its turn. A
slot whose host read fails is read again later. -/
def execPacketRead (q : QId) (s : State) : Out :=
  s.cmd fun s =>
  if !s.mayRead q then fin (s.pump q)
  else
    let n := (s.queue q).nextPos
    match s.slotRead q with
    | (s, .wait, _) => fin s
    | (s, .fail _, _) => fin (s.forget (.ring q))
    | (s, .poison x, b) =>
      let p : Pkt := { pktOf n b with h1 := 0 }
      if s.closesLater q n then fin (s.forget (.ring q))
      else fin (((s.consume 7 (qKey q) q.part.val q.die.val x).forget (.ring q)).stopAt q p 3 stUNCORR (w64 x))
    | (s, .bytes b, _) =>
      let s := s.forget (.ring q)
      let p := pktOf n b
      if field p.h0 16 16 ≠ n % 65536 then
        fin (s.stopAt q { p with h0 := putField p.h0 40 8 q.part.val, h1 := 0 } 2 stBAD_PARAM locHdr)
      else
        let u := s.queue q
        fin ((s.setQueue q { u with pkts := u.pkts ++ [p], nextPos := n + 1 }).pump q)

/-- The 32 bytes of a reply entry (Table 14.4). -/
def State.entryBytes (s : State) (q : QId) (r : Reply) : List Byte :=
  let u := s.queue q
  let w0 := place r.part 46 5 ||| place q.q.val 40 6 ||| place r.op.toNat 32 8 |||
    place (1 - u.rtail / 2 ^ field u.cfg 8 5 % 2) 24 1 ||| place r.status.toNat 16 8 ||| place r.seqNo.toNat 0 16
  [w0.toNat, r.detail.toNat, s.stamp q.die.val, q.die.val].flatMap (toBytes 8)

/-- The lowest-numbered endpoint port whose link is up (R335). -/
def State.upPort (s : State) : Option Nat := [0, 1, 2, 3].find? (fun n => let p := s.hport n; !p.root && p.up)

/-- The host interrupt of a reply (R335): a vector that the host has masked sets its Pending bit and sends nothing. -/
def State.replyIrq (s : State) (q : QId) (r : Reply) : State :=
  if !r.irq then s
  else match s.upPort with
    | none => s
    | some n =>
      let p := s.hport n
      if tget false p.masks (qKey q) then s.setHport n { p with pendv := tset false p.pendv (qKey q) true }
      else s.emit (.msix n q.part.val q.q.val)

/-- Are signals of a packet still to be applied: sent and not answered, or waiting for earlier ones (R254, R255, R309)? -/
def State.sigsOut (s : State) (q : QId) (pos : Nat) : Bool :=
  s.outstanding (.pkt q pos) || (s.queue q).sigWait.any (fun e => decide (e.1 = pos))

/-- Write the oldest reply in line, once its packet's signals have been applied and the ring has room (R309, R311, R312). A
write to a granule of another partition has no effect (R26). -/
def State.writeReply (s : State) (q : QId) : Option State :=
  let u := s.queue q
  match u.waitRep with
  | [] => none
  | r :: rest =>
    if s.consumed q + 2 ^ field u.cfg 8 5 ≤ u.rtail ∨ s.sigsOut q r.pos then none
    else
      let r := u.mapReply r
      let a := u.qrbase.toNat + 32 * (u.rtail % 2 ^ field u.cfg 8 5)
      let b := s.entryBytes q r
      let s := if !s.ringHeld q a 32 then s
        else if a < 0x30000000000 then s.ccWrite q.die.val 0 a b else (s.winWrite (.ring q) q.part.val a b false).1
      let s := s.setQueue q { s.queue q with waitRep := rest, rtail := u.rtail + 1 }
      some ((s.replyIrq q r).pump q)

/-- REPLY_WRITE. -/
def execReplyWrite (q : QId) (s : State) : Out :=
  s.cmd fun s =>
  fin ((s.writeReply q).getD s)

end Sys2Proof.Machine
end

