-- ==== Sys2Proof/Machine/KnownAnswer.lean ====
section
/-! DEFINITION. The passes and patterns of the known-answer test (R404). -/

namespace Sys2Proof.Machine

/-- The SRNG tag of the test (R404). -/
def katTag : BitVec 32 := 0x4B415400

/-- Lane `i` of the column (`row` false) or row line of a pattern: walking ones, 0x7FFF against 0x8000, 0x5555 against 0xAAAA,
SRNG words. Which word stands in which lane is the model's choice: the first of a pair in the column line, the SRNG words of
indices 0 to 63 there and 64 to 127 in the row line (DESIGN CHOICE, log 71). -/
def katLane (pattern : Nat) (row : Bool) (i : Nat) : BitVec 16 :=
  match pattern with
  | 0 => 1#16 <<< (i % 16)
  | 1 => if row then 0x8000 else 0x7FFF
  | 2 => if row then 0xAAAA else 0x5555
  | _ => srng 0 katTag (BitVec.ofNat 48 (if row then 64 + i else i)) 0

/-- The product that the core's MUL forms for a cell of an ILO or IHI pass, pass 4 × mode + pattern: the half that the pass
writes (R180, R404). -/
def katProduct (pass cell : Nat) : BitVec 16 :=
  let a := (katLane (pass % 4) false (cell / 64)).signExtend 64
  let b := (katLane (pass % 4) true (cell % 64)).signExtend 64
  ((a * b) >>> (16 * (pass / 4))).truncate 16

/-- Does a pass write a cell: ILO and IHI all, CRE the even and CIM the odd columns of rows 0 to 31 (Table 8.7)? -/
def katWrites (pass cell : Nat) : Bool :=
  decide (pass < 8) || (decide (cell / 64 < 32) && decide (cell % 2 = pass - 8))

/-- What the test compares a cell with: the product of MUL, or the table in the firmware image (R404). -/
def katAnswer (pass cell : Nat) : BitVec 16 := if pass < 8 then katProduct pass cell else Config.katTable pass cell

/-- The cells of engine `e` that a pass finds different from their answers. A cell that no defect touches holds what R180 gives
it, which is its answer (`Laws.mpWord_katProduct`). -/
def katWrong (cells : List KatCell) (e pass : Nat) : List Nat :=
  (cells.filter (fun x => decide (x.engine.val = e) && decide (x.pass.val = pass) && katWrites pass x.cell.toNat &&
    decide (x.read ≠ katAnswer pass x.cell.toNat))).map (fun x => x.cell.toNat)

/-- The passes that engine `e` fails, by bit. -/
def katBits (cells : List KatCell) (e : Nat) : Nat :=
  ((List.range 10).map (fun p => if (katWrong cells e p).isEmpty then 0 else 2 ^ p)).sum

/-- The first pass that engine `e` fails, and the lowest cell that differs in it (ENGINE_RETIRED, Table 19.2). -/
def katFirst (cells : List KatCell) (e : Nat) : Option (Nat × Nat) :=
  ((List.range 10).find? (fun p => !(katWrong cells e p).isEmpty)).map (fun p =>
    (p, (katWrong cells e p).foldl min 4095))

end Sys2Proof.Machine
end

