-- ==== Sys2Proof/Machine/ServiceOps.lean ====
section
/-! DEFINITION. A flush of the event log (R396), arming an injection (R401 to R403), the reset of a core (R407),
retirement (R405, R408, R409). -/

namespace Sys2Proof.Machine

/-- A flush (R396): every pending record in SEQ order; LOG_LOST when records were discarded. -/
def State.flushLog (s : State) : State :=
  let v := s.svc
  let s : State := { s with svc := { v with spill := (v.pend.map LogRec.programmed).foldl spillAdd v.spill, pend := [], flushAt := s.now, lostRec := 0 } }
  if v.lostRec = 0 then s else s.log 0x8D 31 2 false [w64 v.lostRec]

/-- Injection points that keep a sector address (R403). -/
def keepsSector (p : Nat) : Bool := [0x05, 0x06, 0x07, 0x09].contains p

/-- Does INSTANCE with a slice or channel agree with R402? `pa` is the address that INJ_ARG carries, when it does. -/
def instOk (u inst n : Nat) (slice : Bool) (pa : Option Nat) : Bool :=
  decide (inst / 256 = u) && decide (inst % 256 < n) &&
    (match pa with
     | none => true
     | some a => decide (a < 0x30000000000) && decide (homeDie a = u) &&
       decide ((if slice then paSlice a else paChan a) = inst % 256))

/-- Does a point with its instance belong to an injection block, and keep to R402 (Table 19.4)? Blocks: 0 CD0, 1 CD1, 2 steward,
4 + n LKn. -/
def injValid (u point inst : Nat) (arg : Word) : Bool :=
  let pa := field arg 0 48
  let cd := decide (u < 2)
  match point with
  | 0x01 => cd && decide (inst < 512) && decide (inst / 256 = u)
  | 0x02 | 0x03 | 0x04 | 0x05 | 0x12 => cd && decide (inst < 128) && decide (inst / 64 = u)
  | 0x06 => cd && instOk u inst 64 true (some pa)
  | 0x07 => cd && instOk u inst 128 false (some pa)
  | 0x08 => cd && instOk u inst 128 false none
  | 0x09 => cd && decide (inst = u) && decide (pa < 0x30000000000) && decide (homeDie pa = u)
  | 0x0A => decide (inst ≤ 6) && decide (u = if inst = 0 then 0 else if inst ≤ 2 then 2 else inst + 1)
  | 0x0B | 0x0C | 0x0D => decide (inst < 8) && decide (u = 4 + inst / 2)
  | 0x0E => decide (u = 2) && decide (inst < 4)
  | 0x0F => decide (inst < 42) && decide (u = sensorDie inst)
  | 0x10 | 0x11 | 0x14 => decide (u = 2)
  | 0x13 => cd && decide (inst < 512) && decide (inst / 256 = u)
  | 0x15 => decide (u = 2) && decide (inst < 2)
  | 0x20 => cd && decide (inst < 16) && decide (inst / 8 = u)
  | _ => false

/-- What a counted point has to do: bursts, frames or codewords. -/
def injCount (point : Nat) (arg : Word) : Nat :=
  match point with
  | 0x08 => field arg 16 16
  | 0x0B | 0x0C => arg.toNat
  | _ => 1

/-- A RESET of a core (R407): its state, its arm slots; its known-answer test follows as KNOWN_ANSWER_TEST, which writes
CORE_RESET. -/
def State.coreReset (s : State) (c : Nat) : State :=
  let s := s.dropWaits (fun w => match w with
    | .core x => decide (x = c) | .arm x _ => decide (x = c) | _ => false)
  let s : State := { s with answers := s.answers.filter (fun a => !decide (a.who = .core c)) }
  let s := s.setCore c (s.freshCore c)
  { s with svc := { s.svc with katDue := if s.svc.katDue.contains c then s.svc.katDue else s.svc.katDue ++ [c] } }

/-- DBG_CTL.RESET (R407): nothing on a core with a running task, or whose cluster is OFF. -/
def State.dbgReset (s : State) (c : Nat) : State :=
  if (s.core c).task.isSome ∨ s.dom (clDom (c / 8)) ≠ .on then s else s.coreReset c

/-- TESTMODE on a cluster that partition 0 holds (R406): RETAIN follows; leaving resets every core under R407. -/
def State.testMode (s : State) (c : Nat) (on : Bool) : State :=
  if s.owner c ≠ 0 ∨ (!on ∧ !(s.cluster c).test) then s
  else
    let w := if on then s.pwr.clctl ||| ones c 1 else s.pwr.clctl &&& ~~~(ones c 1)
    let s : State := { s with pwr := { s.pwr with clctl := w } }
    let s := s.setCluster c { s.cluster c with test := on }
    if on then s else (List.range 8).foldl (fun s i => s.dbgReset (8 * c + i)) s

/-- Set WDCNT one tick short of expiry (Table 19.4). -/
def State.wdShort (s : State) (c : Nat) : State :=
  let k := s.core c
  let n := max 1 (field k.tc.wdctl 16 16) * 1024 - 1
  let base : Int := if bitAt k.tc.wdctl 0 then (s.now : Int) - n else n
  s.setCore c { k with tc := { k.tc with wdBase := base }, injAsync := cWATCHDOG :: k.injAsync }

/-- A lane stops signalling (FAB_LANE): a port that uses it loses lock. -/
def State.laneDead (s : State) (port lane : Nat) : State :=
  let p := s.fport port
  let used := match p.width with | 1 => decide (lane < 8) | 2 => decide (8 ≤ lane) | 3 => true | _ => false
  let s := s.setFport port { p with dead := p.dead ||| ones lane 1 }
  match p.st with
  | .disabled | .training => s
  | _ => if used then s.leave port .training lostLock true else s

/-- Write a sector poisoned (POISON of Table 19.4). -/
def State.poisonSector (s : State) (sec : Nat) : State :=
  let (s, b, _) := s.readMem (32 * sec) 32
  s.writeMem (32 * sec) b true

/-- Does a point fire when it is armed (R401)? -/
def firesNow (point : Nat) : Bool := [0x09, 0x0F, 0x10, 0x11, 0x12, 0x20].contains point

/-- A point that fires when it is armed. -/
def State.injNow (s : State) (u point inst : Nat) (arg : Word) : State :=
  match point with
  | 0x09 => (s.poisonSector (field arg 5 43)).fire u [field arg 5 43]
  | 0x0F =>
    let s := s.fire u []
    { s with pmem := { s.pmem with
      sensOvr := tset none s.pmem.sensOvr inst (some (BitVec.ofNat 16 (field arg 0 16), s.now + 25000 * field arg 32 16)) } }
  | 0x10 => (s.fire u []).tripNow 0 (tget (0 : BitVec 16) s.pwr.temps 0) true
  | 0x11 =>
    let s := s.fire u []
    { s with pmem := { s.pmem with inOvr := some (BitVec.ofNat 16 (field arg 0 16), s.now + 25000 * field arg 32 16) } }
  | 0x12 => (s.wdShort inst).fire u []
  | _ => (s.testMode inst (bitAt arg 0)).fire u []

/-- UCIE_CRC and FAB_LANE fire as time passes: at the next flit of a connection, which always carries flits, and while the lanes
of the port signal (R401). -/
def State.injTime (s : State) (u : Nat) : State :=
  match s.armedAt u 0x0A, s.armedAt u 0x0D with
  | some a, _ => (s.fire u []).corrected 3 (32 * a.inst + field a.arg 0 5) u true 0
  | none, some a =>
    if (s.fport a.inst).st = .disabled then s else (s.laneDead a.inst (field a.arg 0 4)).fire u []
  | none, none => s

/-- Time passes: a tick of every clock, the injections that it fires, and the retrains that have lasted too long (R345). -/
def State.tickAll (s : State) : State :=
  let s := s.tick
  if s.pmem.lost then s
  else
    let s := [0, 2, 4, 5, 6, 7].foldl (fun s u => s.injTime u) s
    (List.range 8).foldl (fun s n => s.retrainOver n) s

/-- A write of INJ_GO (R401 to R403): a point that has not fired is replaced; a bad one sets BAD and arms nothing. -/
def State.injGo (s : State) (u : Nat) : State :=
  let b := s.injBlk u
  let point := field b.point 0 8
  let inst := field b.point 16 16
  if !injValid u point inst b.arg || (keepsSector point && decide (256 ≤ b.kept.length)) then s.setInj u { b with bad := true }
  else
    let s := match b.armed with
      | some a => if a.hit then s else s.log 0x8C 31 u true [w64 a.point, w64 a.inst, a.arg, 1]
      | none => s
    let n := injCount point b.arg
    let s := s.setInj u { b with
      armed := if n = 0 then none else some { point := point, inst := inst, arg := b.arg, left := n } }
    if firesNow point then s.injNow u point inst b.arg else s

/-- The block that owns the target of a point (R401). -/
def injOwner (point inst : Nat) : Nat :=
  match point with
  | 0x01 | 0x13 => inst / 256 % 2
  | 0x02 | 0x03 | 0x04 | 0x05 | 0x12 => inst / 64 % 2
  | 0x06 | 0x07 | 0x08 => inst / 256 % 2
  | 0x09 => inst % 2
  | 0x0A => if inst = 0 then 0 else if inst ≤ 2 then 2 else 4 + (inst - 3) % 4
  | 0x0B | 0x0C | 0x0D => 4 + inst / 2 % 4
  | 0x0F => if inst < 42 then sensorDie inst else 2
  | 0x20 => inst / 8 % 2
  | _ => 2

/-- Retire an engine or a cluster (R183, R405, R408): it acts at once, and its entry waits for its
commit, with which it is reported. -/
def State.retireUnit (s : State) (e : Nat) : State :=
  let s : State := { s with svc := { s.svc with uncom := s.svc.uncom ++ [BitVec.ofNat 32 e] } }
  if 0x38000000 ≤ e then
    let c := e - 0x38000000
    s.setCluster c { s.cluster c with retired := true }
  else
    let n := e - 0x30000000
    let k := s.core (n / 4)
    s.setCore (n / 4) { k with cr := { k.cr with engmask := k.cr.engmask &&& ~~~(ones (n % 4) 1) } }

end Sys2Proof.Machine
end

