-- ==== Sys2Proof/Machine/Service.lean ====
section
/-! DEFINITION. Errors, injection and service (19): the event log, injection, known-answer test, retirement, health, core
debug. -/

namespace Sys2Proof.Machine

/-- A connection has lost its last module (R341): the ports of a link die go out of service, and so do the clusters of a compute
die. -/
def State.connGone (s : State) (c : Nat) : State :=
  if s.modsLeft c ≠ 0 ∨ c = 0 then s
  else if c ≤ 2 then (List.range 8).foldl (fun s i => s.clusterDown (8 * (c - 1) + i)) s
  else
    let n := c - 3
    let s := (s.leave (2 * n) .disabled lostLock false).leave (2 * n + 1) .disabled lostLock false
    let e := tget ({} : EthPort) s.fab.eth (n / 2)
    if n % 2 = 0 then { s with fab := { s.fab with eth := tset {} s.fab.eth (n / 2) { e with rate := 0 } } } else s.parkLinks

/-- A module is out of service (R341). -/
def State.moduleLost (s : State) (c : Nat) : State :=
  (({ s with svc := { s.svc with mods := tmod 0 s.svc.mods c (fun n => min (modules c) (n + 1)) } }).connGone c).healthCheck

/-- LOG_RECORD (R395, R396): a detector reports to the steward. Reports of corrected errors are coalesced by unit and instance
(R398); MODULE_LOST names the connection first (Table 19.2, R341). -/
def execLogRecord (type : Byte) (part : BitVec 5) (src : BitVec 3) (payload : List Word) (s : State) : Out :=
  s.cmd fun s =>
  let w (i : Nat) : Word := payload.getD i 0
  if type = 0x80 then
    fin (s.coalesce (corrKey (w 0).toNat (w 1).toNat) (w 2).toNat (fun n s =>
      s.log type part.toNat src.toNat false [w 0, w 1, w64 n, w 3]))
  else
    let s := s.log type part.toNat src.toNat false payload
    if type = 0x86 ∧ (payload.headD 7).toNat ≤ 6 then fin (s.moduleLost (w 0).toNat) else fin s

/-- LOG_FLUSH (R396). -/
def execLogFlush (s : State) : Out :=
  s.cmd fun s =>
  if s.flushDue then fin s.flushLog else fin s

/-- LOG_READ (R399): whole records, those that name the partition for partitions 1 to 16. -/
def State.logRead (s : State) (q : QId) (p : Pkt) : State :=
  let n := (p.word 1).toNat
  let from_ := (p.word 2).toNat
  if n = 0 then s.finish q p stOK 0
  else
    match s.rangeBad p.part (p.word 0) n true true with
    | some st => s.badWord q p st 0
    | none =>
      let l := (s.svc.spill ++ s.svc.pend).filter (fun r => decide (from_ ≤ r.seqNo) && (decide (p.part = 0) || decide (r.part = p.part)))
      let b := (l.take (n / 64)).flatMap LogRec.bytes
      s.putResult q p (p.word 0).toNat b (w64 b.length)

/-- LOG_READ. -/
def execLogRead (p : PktRef) (s : State) : Out :=
  s.cmd fun s =>
  s.pktRow p 0x3A (fun s q k _ => s.logRead q k)

/-- INJ_GO_WRITE (R401). -/
def execInjGoWrite (unit : Fin 8) (_v : Word) (s : State) : Out :=
  s.cmd fun s =>
  if unit.val = 3 then fin s else fin (s.injGo unit.val)

/-- INJECT (R401): the steward writes the block of the die that owns the target. -/
def State.inject (s : State) (q : QId) (p : Pkt) : State :=
  let w := p.word 0
  let u := injOwner (field w 0 8) (field w 16 16)
  let b := s.injBlk u
  let s := (s.setInj u { b with point := w &&& 0xFFFF00FF#64, arg := p.word 1, bad := false }).injGo u
  let r := s.injBlk u
  let s := s.setInj u { r with bad := r.bad || b.bad }
  if r.bad then s.badWord q p stBAD_PARAM 0 else s.finish q p stOK 0

/-- INJECT. -/
def execInject (p : PktRef) (s : State) : Out :=
  s.cmd fun s =>
  s.pktRow p 0x4A (fun s q k _ => s.inject q k)

/-- Count a known-answer result of an engine or of a core's other tests, key 5 × core + i: a second failure in a row retires
it (R405). -/
def State.katResult (s : State) (c i : Nat) (fail : Bool) : State :=
  let key := 5 * c + i
  let set (n : Nat) : State := { s with svc := { s.svc with katFail := tset 0 s.svc.katFail key n } }
  if !fail then set 0
  else if tget 0 s.svc.katFail key = 0 then set 1
  else if i < 4 then (set 0).retireUnit (0x30000000 + 4 * c + i)
  else if (s.cluster (c / 8)).retired then set 0
  else (set 0).retireUnit (0x38000000 + c / 8)

/-- The passes that an armed KAT injection makes an engine fail (Table 19.4). -/
def State.katForced (s : State) (n : Nat) : Nat :=
  match s.armedAt (n / 256) 0x13 with
  | some a => if a.inst = n then field a.arg 0 10 else 0
  | none => 0

/-- Note a failing test for the record of its retirement. -/
def State.katNote (s : State) (key : Nat) (v : Nat × Nat) : State :=
  { s with svc := { s.svc with katPass := tset (0, 0) s.svc.katPass key v } }

/-- The test of an engine: `bad` is the first pass that its own defects fail, with the first cell that differs; an injection
fails passes without counting (R403). An engine that failed for the first time is tested again at once, as is one whose failure was
injected (R405). -/
def State.katEngine (s : State) (n : Nat) (bad : Option (Nat × Nat)) : State :=
  let forced := s.katForced n
  let s := if forced = 0 then s else s.fire (n / 256) []
  let s := match bad with | none => s | some v => s.katNote n v
  let again := (bad.isSome && decide (tget 0 s.svc.katFail (5 * (n / 4) + n % 4) = 0)) || (bad.isNone && decide (forced ≠ 0))
  let s := s.katResult (n / 4) (n % 4) bad.isSome
  let l := s.svc.katEng.filter (fun x => !decide (x = n))
  { s with svc := { s.svc with katEng := if again then l ++ [n] else l } }

/-- The result of a test as CORE_RESET shows it: the failed passes of engine e at bits 10e to 10e + 9, the scalar test at 40, the
vector test at 41 (log 18). -/
def katWord (d : KatDefects) : Nat :=
  ((List.range 4).map (fun e => 2 ^ (10 * e) * katBits d.cells e)).sum + 2 ^ 40 * b2n d.scalar + 2 ^ 41 * b2n d.vector

/-- KNOWN_ANSWER_TEST (R404, R405): the test of a core's engines that is due, once the core holds no task; it wakes the cluster.
The passes and their answers are `katAnswer`; what the operand brings is the defects of the hardware.
A core without a defect passes. The test ends the
RESET of a core when nothing is tested again (R407). -/
def execKnownAnswerTest (core : CoreId) (d : KatDefects) (s : State) : Out :=
  s.cmd fun s =>
  let c := core.val
  let l := s.katTests c
  if (s.core c).task.isSome ∨ !s.katBusy c ∨ (s.dom (clDom (c / 8)) ≠ .on ∧ s.noPower (clDom (c / 8))) then fin s
  else
    let s := s.wakeCluster (c / 8)
    let forced := l.any (fun n => decide (s.katForced n ≠ 0))
    let s := l.foldl (fun s n => s.katEngine n (katFirst d.cells (n % 4))) s
    let fails := d.scalar || d.vector
    let again := fails && decide (tget 0 s.svc.katFail (5 * c + 4) = 0)
    let s := if fails then s.katNote (512 + c / 8) (b2n (!d.scalar), 0) else s
    let s := s.katResult c 4 fails
    let s : State := if again then { s with svc := { s.svc with katEng := s.svc.katEng ++ l } } else s
    if s.svc.katDue.contains c ∧ !again ∧ (s.katTests c).all (fun n => !s.svc.katEng.contains n) then
      let s : State := { s with svc := { s.svc with katDue := s.svc.katDue.erase c } }
      fin (s.log 0x8A 31 (c / 64) forced [w64 c, w64 (katWord d)])
    else fin s

/-- RETIREMENT_COMMIT (R408, R409): the oldest entry is committed, and then recorded and reported. -/
def execRetirementCommit (s : State) : Out :=
  s.cmd fun s =>
  match s.svc.uncom with
  | [] => fin s
  | e :: rest =>
    let n := field e 0 30
    let soft := bitAt e 30
    let s : State := { s with flash := s.flash.commit e, svc := { s.svc with uncom := rest } }
    if 0x38000000 ≤ n then
      fin (s.log 0x88 31 ((n - 0x38000000) / 8 % 2) false [w64 ((n - 0x38000000) / 8), w64 ((n - 0x38000000) % 8),
        w64 (tget (0, 0) s.svc.katPass (512 + (n - 0x38000000))).1]).healthCheck
    else if 0x30000000 ≤ n then
      let k := n - 0x30000000
      let (p, x) := tget (0, 0) s.svc.katPass k
      fin (s.log 0x87 31 (k / 256 % 2) false [w64 k, w64 p, w64 x]).healthCheck
    else
      let d := homeDie (4096 * n)
      fin (s.log 0x84 31 d false [w64 d, w64 (4096 * n), w64 (b2n (!soft)), w64 (tget [] s.mem.retired d).length, 0]).healthCheck

/-- HEALTH_EVALUATION (R410): every hour, 90,000,000,000 always-on ticks, the rate triggers over the trailing 24 hours. -/
def execHealthEvaluation (s : State) : Out :=
  s.cmd fun s =>
  if s.now < s.svc.evalAt + 90000000000 then fin s
  else
    let s : State := { s with svc := { s.svc with
      events := s.svc.events.filter (fun e => decide (s.now - e.2 ≤ 2160000000000)), evalAt := s.now } }
    fin ({ s with svc := { s.svc with rates := s.rateTrig } }).healthCheck

/-- The frames that HEALTH lists for a partition, CD0 first (R409, R411). -/
def State.healthFrames (s : State) (part : Nat) : List Retired :=
  (s.framesShown 0 ++ s.framesShown 1).filter (fun r =>
    decide (part = 0) || decide (tget 0 s.own.gran (r.frame / 2 ^ 18) = part))

/-- The health report (Table 19.8). -/
def State.healthReport (s : State) (part : Nat) : List Byte :=
  let l := s.healthFrames part
  let eng := (List.range 64).map (fun i => BitVec.ofNat 8 (((List.range 8).map (fun j =>
    let n := 8 * i + j
    if s.engShown n || s.clShown (n / 32) then 0 else 2 ^ j)).sum))
  let cl := ((List.range 16).map (fun c => if s.clShown c then 2 ^ c else 0)).sum
  let half := ((List.range 8).map (fun n =>
    let p := s.fport n
    if p.st = .up ∧ (p.width = 1 ∨ p.width = 2) then 2 ^ n else 0)).sum
  let ce := s.eventsN (fun e => decide (e = .ce))
  let ue := s.eventsN (fun e => decide (e = .ue))
  let pa := s.eventsN (fun e => match e with | .parity .. => true | _ => false)
  toBytes 8 (s.svc.health + 256 * b2n (!s.sec.calV)) ++ toBytes 8 s.triggers ++ eng ++
    toBytes 8 (cl + half * 2 ^ 16 + s.modsLeft 0 * 2 ^ 24) ++ toBytes 8 s.pinsErased ++ toBytes 8 ce ++ toBytes 8 ue ++
    toBytes 8 pa ++ toBytes 8 (s.hardN 0 + s.hardN 1 * 2 ^ 32) ++ toBytes 8 l.length ++ List.replicate 120 0 ++
    l.flatMap (fun r => toBytes 8 (4096 * r.frame + b2n r.hard))

/-- HEALTH (R411). -/
def State.health (s : State) (q : QId) (p : Pkt) : State :=
  match s.rangeBad p.part (p.word 0) 65792 true true with
  | some st => s.badWord q p st 0
  | none => s.putResult q p (p.word 0).toNat (s.healthReport p.part) 0

/-- HEALTH. -/
def execHealth (p : PktRef) (s : State) : Out :=
  s.cmd fun s =>
  s.pktRow p 0x39 (fun s q k _ => s.health q k)

/-- DBG_RESET. -/
def execDbgReset (core : CoreId) (s : State) : Out :=
  s.cmd fun s =>
  fin (s.dbgReset core.val)

/-- DBG_CTL.RESTART (Table 19.6): a core halted at F resumes at PC + 4. -/
def State.dbgRestart (s : State) (c : Nat) : State :=
  let k := s.core c
  match k.run with
  | .halted => s.setCore c { k with run := .running, pc := k.pc + 4 }
  | _ => s

/-- DBG_RESTART. -/
def execDbgRestart (core : CoreId) (s : State) : Out :=
  s.cmd fun s =>
  fin (s.dbgRestart core.val)

/-- DBGREQ (Table 19.6): IP bit 5 pends. -/
def execDbgreq (core : CoreId) (s : State) : Out :=
  s.cmd fun s =>
  fin (s.pend core.val 32)

end Sys2Proof.Machine
end

