-- ==== Sys2Proof/Machine/RegOps.lean ====
section
/-! DEFINITION. The memory-mapped registers (R4 to R7, R20 to R22): what each 64-bit register reads as and what a write does.
Spaces are numbered as in `Loc`: 0 CD0, 1 CD1, 2 steward, 4 + n LKn. -/

namespace Sys2Proof.Machine

/-- The value of a register after a write: `mask` are the bits written, `rw` the RW bits (R4, R6). -/
def mix (old v mask rw : Word) : Word := (old &&& ~~~(mask &&& rw)) ||| (v &&& mask &&& rw)

/-- A queue by die, partition and number. -/
def qidOf (d p q : Nat) : QId := ⟨⟨d % 2, Nat.mod_lt _ (by omega)⟩, partId p, ⟨q % 64, Nat.mod_lt _ (by omega)⟩⟩

/-- HRN_RGN (Table 9.9). -/
def Queue.rgn (u : Queue) : Word :=
  let step := if u.stepOpen then field u.stepCtr 0 32 else 0
  match u.region with
  | none => place step 32 32 ||| place (b2n u.poisoned) 9 1
  | some r => place step 32 32 ||| place r.startPos 16 16 ||| place (b2n u.poisoned) 9 1 ||| place (b2n r.pe) 8 1 |||
      place (b2n r.nf) 7 1 ||| place (b2n r.ovf) 6 1 ||| place r.attempt 4 2 ||| place r.rung 2 2 ||| 1

/-- HRN_STEPCTL (Table 13.1). -/
def Queue.stepctl (u : Queue) : Word :=
  (if u.stepOpen then place u.pobj.toNat 16 13 ||| place u.plen 8 7 else 0) ||| place (b2n (u.stop && decide (u.cause = 1))) 1 1 ||| place (b2n u.stepOpen) 0 1

/-- A register of a queue page (Table 14.1). -/
def State.queueReg (s : State) (q : QId) (o : Nat) : Word :=
  let u := s.queue q
  match o with
  | 0x00 => u.cfg
  | 0x08 => u.qbase
  | 0x10 => u.qrbase
  | 0x18 => w64 (s.bell q)
  | 0x20 => w64 u.head
  | 0x28 => w64 u.rtail
  | 0x30 => w64 (s.consumed q)
  | 0x38 => place u.cause 1 2 ||| place (b2n u.stop) 0 1
  | _ => 0

/-- The Harness's registers: RGN, STEPCTR and STEPCTL, STAGE, the queue pages. -/
def State.hrnRead (s : State) (d o : Nat) : Word :=
  if 0x200000 ≤ o then
    let i := (o - 0x200000) / 0x1000
    if i < 1088 then s.queueReg (qidOf d (i / 64) (i % 64)) (o % 0x1000) else 0
  else if 0x120000 ≤ o ∧ o < 0x120000 + 8 * 136 then tget 0 s.own.stages ((o - 0x120000) / 8)
  else if 0x110000 ≤ o ∧ o < 0x110000 + 16 * 1088 then
    let i := (o - 0x110000) / 16
    let u := s.queue (qidOf d (i / 64) (i % 64))
    if o % 16 = 0 then u.stepCtr else u.stepctl
  else if 0x100000 ≤ o ∧ o < 0x100000 + 8 * 1088 then
    let i := (o - 0x100000) / 8
    (s.queue (qidOf d (i / 64) (i % 64))).rgn
  else 0

/-- The sync unit's registers (Table 11.11). -/
def State.synRead (s : State) (d o : Nat) : Word :=
  let u := (s.die d).sync
  if o < 0x8000 then tget 0 u.vals (o / 8)
  else if 0x10000 ≤ o ∧ o < 0x10200 then w64 (tget 0 s.own.sync (64 * d + (o - 0x10000) / 8))
  else match o with
    | 0x20000 => w64 u.signals
    | 0x20008 => w64 u.waitsN
    | 0x20010 => place u.waits.length 0 14
    | 0x20018 => w64 u.rnak
    | 0x20020 => w64 u.rrefused
    | _ => 0

/-- The census registers (R185). -/
def State.cnsRead (s : State) (d o : Nat) : Word :=
  if o < 0x20000 then w64 ((s.slotWords d (o / 0x80)).getD (o % 0x80 / 8) 0)
  else if o < 0x20000 + 8 * 17 then w64 (tget 0 (s.die d).census.unenr ((o - 0x20000) / 8))
  else 0

/-- L2_WAYOWNj (Table 10.9). -/
def State.wayOwn (s : State) (d j : Nat) : Word :=
  (List.range 8).foldl (fun w i =>
    let u := s.wayUse d (8 * j + i)
    w ||| place (if u.use = 0 then 0 else u.part) (8 * i) 5) 0

/-- The L2 registers (Table 10.7). -/
def State.l2sRead (s : State) (d o : Nat) : Word :=
  if o = 0x800000 then (List.range 16).foldl (fun w i => w ||| place (s.wayUse d i).use (2 * i) 2) 0
  else if o = 0x800008 then s.wayOwn d 0
  else if o = 0x800010 then s.wayOwn d 1
  else if o < 0x400000 then
    let k := s.slice d (o / 0x10000)
    match o % 0x10000 with
    | 0x00 => k.lim
    | 0x08 => w64 k.hitN
    | 0x10 => w64 k.missN
    | 0x18 => w64 k.wb
    | 0x20 => w64 k.deadrd
    | 0x28 => w64 k.retry
    | 0x30 => w64 k.refuse
    | 0x38 => w64 k.qfull
    | _ => 0
  else 0

/-- The control-cache registers (Table 10.7). -/
def State.cchRead (s : State) (d o : Nat) : Word :=
  let c := tget ({} : CcHalf) (s.die d).cc (o / 0x800000)
  match o % 0x800000 with
  | 0x00 => w64 c.hitN
  | 0x08 => w64 c.missN
  | 0x10 => w64 c.link
  | 0x18 => w64 c.snoop
  | _ => 0

/-- The STATE code of a context (Table 12.9). -/
def CtxSt.code : CtxSt → Nat
  | .unbound => 0 | .idle => 1 | .running => 2 | .held => 3 | .faulted => 4

/-- STC_CTXSTAT (Table 12.9). -/
def SCtx.stat (x : SCtx) : Word :=
  place x.tag.toNat 48 16 ||| place x.pc 42 6 ||| place x.reason 38 4 ||| place x.sub 35 3 ||| place x.st.code 32 3

/-- One of five prefetch counters (R282). -/
def PfCnt.word (p : PfCnt) (i : Nat) : Word := w64 ([p.issue, p.used, p.late, p.evict, p.never].getD i 0)

/-- The Stitchers' registers (Table 12.6). -/
def State.stcRead (s : State) (d o : Nat) : Word :=
  let cl := 8 * d + o / 0x100000
  let r := o % 0x100000
  if 0x800000 ≤ o then 0
  else if r < 0x2000 then
    let x := s.ctx cl (r / 0x100)
    match r % 0x100 with
    | 0x00 => x.ctl
    | 0x08 => x.ring
    | 0x10 => x.stat
    | 0x18 => w64 x.pos
    | 0x20 => x.faddr
    | _ => 0
  else
    let k := s.stitcher cl
    match r with
    | 0x10000 => k.retrylim
    | 0x10008 => w64 k.bytes
    | 0x10010 => k.pf.word 0
    | 0x10018 => k.pf.word 1
    | 0x10020 => k.pf.word 2
    | 0x10028 => k.pf.word 3
    | 0x10030 => k.pf.word 4
    | 0x10038 => w64 k.retry
    | 0x10040 => w64 k.redref
    | 0x10048 => w64 k.mcdetach
    | _ => 0

/-- The Awls' registers (Table 12.6). -/
def State.awlRead (s : State) (d o : Nat) : Word :=
  let a := o % 0x100000 / 0x10000
  if 0x800000 ≤ o ∨ 4 ≤ a then 0
  else
    let k := tget ({} : Awl) (s.die d).awl (4 * (o / 0x100000) + a)
    match o % 0x10000 with
    | 0x00 => w64 k.elems
    | 0x08 => w64 k.lines
    | 0x10 => w64 k.faults
    | _ => 0

/-- The Tannery's registers (Table 12.6). -/
def State.tnyRead (s : State) (d o : Nat) : Word :=
  let t := (s.die d).tny
  if o < 0x110 then (if o % 16 = 0 then tget 0 t.rate (o / 16) else 0)
  else if 0x1000 ≤ o ∧ o ≤ 0x1020 then t.pf.word ((o - 0x1000) / 8)
  else if o = 0x1028 then w64 t.offB
  else if o = 0x1030 then w64 t.pfB
  else 0

/-- MIO_STATE.STATE. -/
def Chan.stateCode (c : Chan) : Nat := if c.sleep then 2 else c.state

/-- The memory controllers' registers (Table 15.3). -/
def State.mioRead (s : State) (d o : Nat) : Word :=
  if 0x800000 ≤ o then 0
  else
    let c := s.chan (128 * d + o / 0x10000)
    match o % 0x10000 with
    | 0x00 => w64 c.ce
    | 0x08 => w64 c.ue
    | 0x10 => w64 c.poison
    | 0x18 => c.scrub
    | 0x20 => c.sref
    | 0x28 => c.erase
    | 0x30 => place c.stateCode 0 2
    | 0x38 => w64 (tget 0 s.mem.retN d)
    | _ => 0

/-- The code of a power domain's state (Table 17.5). -/
def DomSt.code : DomSt → Nat
  | .off => 0 | .on => 2 | .parked => 3

/-- The PWR registers (Table 17.5). -/
def State.pwrRead (s : State) (d o : Nat) : Word :=
  let p := s.pwr
  if 0x40 ≤ o ∧ o < 0xC0 then (tget (0 : BitVec 16) p.temps (16 * d + (o - 0x40) / 8)).setWidth 64
  else match o with
    | 0x00 => (List.range 12).foldl (fun w i => w ||| place (s.dom (12 * d + i)).code (2 * i) 2) 0
    | 0x08 => p.clctl
    | 0x10 => place s.effPoint 9 2 ||| place (b2n p.calMax) 8 1 ||| place p.therm 6 2 ||| place p.capPt 4 2 ||| place p.req 2 2
    | 0x18 => place p.ilim 16 8 ||| place p.cap 0 16
    | 0x20 => place p.avgw 48 16 ||| place p.ma 16 16 ||| place p.mv 0 16
    | 0x28 => place p.tcrit 8 8 ||| place p.tthrot 0 8
    | 0x100 => w64 p.capSteps
    | 0x108 => w64 p.thSteps
    | 0x110 => w64 p.ilimCyc
    | _ => 0

/-- The INJ and RAS registers of a block (Table 19.5). -/
def State.injRead (s : State) (u o : Nat) : Word :=
  let b := s.injBlk u
  match o with
  | 0x00 => b.point
  | 0x08 => b.arg
  | 0x18 => place (b2n b.bad) 1 1 ||| place (b2n ((b.armed.map (fun a => !a.hit)).getD false)) 0 1
  | 0x20 => w64 b.fired
  | 0x100 => w64 b.parity
  | 0x108 => w64 b.poison
  | 0x110 => if u = 2 then w64 s.svc.lost else 0
  | _ => 0

/-- The core-debug registers (Table 19.6, R407). -/
def State.dbgRead (s : State) (c o : Nat) : Word :=
  let k := s.core c
  let wedged := match k.run with | .wedged _ => true | _ => false
  let open_ := wedged || decide (k.run = .halted)
  if o = 0 then
    (match k.run with | .wedged t => place 2 16 2 ||| place t.code.toNat 8 8 ||| 1 | .halted => 2 | _ => 0) |||
      place (b2n (s.cluster (c / 8)).test) 2 1
  else if !open_ then 0
  else if 0x10000 ≤ o ∧ o < 0x18000 then crRead (s.ctxOf c) k ((o - 0x10000) / 8)
  else if 0x20000 ≤ o ∧ o < 0x20300 then
    let n := (o - 0x20000) % 0x100 / 8
    if n = 0 then 0
    else tget 0 (match (o - 0x20000) / 0x100 with | 0 => k.xu | 1 => k.xs | _ => k.xf) n
  else 0

/-- A register of a compute die (Table 1.7). -/
def State.dieRead (s : State) (d off : Nat) : Word :=
  let o := off % 0x1000000
  match off / 0x1000000 with
  | 0x0 => s.hrnRead d o
  | 0x1 => s.synRead d o
  | 0x2 => s.cnsRead d o
  | 0x3 => s.l2sRead d o
  | 0x4 => s.cchRead d o
  | 0x5 => s.stcRead d o
  | 0x6 => s.awlRead d o
  | 0x7 => s.tnyRead d o
  | 0x8 => s.mioRead d o
  | 0x9 => s.pwrRead d o
  | 0xA => s.injRead d o
  | n => if 0x10 ≤ n ∧ n < 0x18 then s.dbgRead (64 * d + 8 * (n - 0x10) + o / 0x200000) (o % 0x200000) else 0

/-- SEC (Tables 18.6, 20.6). -/
def State.secRead (s : State) (o : Nat) : Word :=
  let c := s.sec
  if 0x40 ≤ o ∧ o < 0xC0 then
    w64 ((tget (0 : BitVec 256) c.meas ((o - 0x40) / 32)).toNat / 2 ^ (64 * (o % 32 / 8)))
  else if 0x120 ≤ o ∧ o < 0x160 then w64 (ofBytes ((devicePub.drop (o - 0x120)).take 8))
  else match o with
    | 0x00 => place c.svn 56 8 ||| place c.gen 24 32 ||| place (b2n c.rejB) 5 1 ||| place (b2n c.rejA) 4 1 ||| place c.slot 3 1 |||
        place c.st.code 0 3
    | 0x08 => place c.next 0 40
    | 0x10 => place c.fin 0 41
    | 0x18 => place s.flash.minsvn 0 8
    | 0x100 => devinfoReg
    | 0x108 => w64 Config.serial.toNat
    | 0x110 => w64 (Config.serial.toNat / 2 ^ 64)
    | 0x118 => Config.macBase.setWidth 64
    | _ => 0

/-- CAL_STAT (Table 18.6): BUSY while a CAL_WRITE has begun and is not complete. -/
def State.calStat (s : State) : Word := place (b2n (!(s.opPkts [0x41]).isEmpty)) 1 1 ||| place (b2n s.sec.calV) 0 1

/-- HPT (Table 15.7). -/
def State.hptRead (s : State) (o : Nat) : Word :=
  let p := s.hport (o / 0x100000)
  let r := o % 0x100000
  if 0x400000 ≤ o then 0
  else if 0x80000 ≤ o ∧ o < 0x80000 + 8 * 17 then tget 0 s.aper ((o - 0x80000) / 8)
  else if 0x10000 ≤ r ∧ r < 0x18000 then tget 0 p.wxlat ((r - 0x10000) / 8)
  else match r with
    | 0x00 => place (b2n p.root) 0 1
    | 0x08 => p.link
    | 0x10 => w64 p.cto
    | 0x18 => w64 p.urca
    | 0x20 => w64 p.ep
    | 0x28 => p.msi
    | 0x30 => w64 p.linkdn
    | _ => 0

/-- A register of the steward (Table 1.8). -/
def State.stwRead (s : State) (off : Nat) : Word :=
  let o := off % 0x1000000
  match off / 0x1000000 with
  | 0x0 => s.secRead o
  | 0x1 => if o = 0 then s.calStat else 0
  | 0x3 => s.hptRead o
  | 0xA => s.injRead 2 o
  | _ => 0

/-- FAB of link die `n` (Table 16.6). -/
def State.fabRead (s : State) (n o : Nat) : Word :=
  if o < 0x200000 then
    let port := 2 * n + o / 0x100000
    let p := s.fport port
    let c := tget ({} : FCnt) s.fab.cnts port
    match o % 0x100000 with
    | 0x00 => p.pstate
    | 0x08 => w64 p.crcerr
    | 0x10 => w64 p.feccorr
    | 0x18 => w64 p.fecunc
    | 0x20 => w64 p.nak
    | 0x28 => w64 p.retrain
    | 0x30 => w64 c.tx
    | 0x38 => w64 c.rx
    | 0x40 => w64 c.bad
    | _ => 0
  else if 0x400000 ≤ o ∧ o < 0x420000 then s.rtab ((o - 0x400000) / 8)
  else match o with
    | 0x800000 => s.fabCfg
    | 0x800008 => s.fab.e2e
    | 0x800010 => w64 s.fab.lsver
    | 0x800018 => w64 s.fab.late
    | 0x800020 => w64 s.fab.undel
    | _ => 0

/-- ETH (R365). -/
def State.ethRead (s : State) (n o : Nat) : Word :=
  let e := s.eport n
  match o with
  | 0x00 => place (macBase n) 0 48
  | 0x08 => place (b2n (decide (e.rate ≠ 0))) 0 1 ||| place e.rate 1 2
  | 0x10 => w64 e.tx
  | 0x18 => w64 e.rx
  | 0x20 => w64 e.fcs
  | 0x28 => w64 e.drop
  | _ => 0

/-- A register of link die `n` (Table 1.8). -/
def State.lnkRead (s : State) (n off : Nat) : Word :=
  let o := off % 0x1000000
  match off / 0x1000000 with
  | 0x0 => s.fabRead n o
  | 0x1 => if n % 2 = 0 then s.ethRead (n / 2) o else 0
  | 0xA => s.injRead (4 + n) o
  | _ => 0

/-- The 64-bit register at an aligned offset of a register space; one that no table assigns reads zero (R7). -/
def State.regRead (s : State) (space off : Nat) : Word :=
  if space < 2 then s.dieRead space off
  else if space = 2 then s.stwRead off
  else s.lnkRead (space - 4) off

/-- Write a register of a queue page (Table 14.1). -/
def State.queueRegW (s : State) (q : QId) (o : Nat) (v mask : Word) : State :=
  match o with
  | 0x18 => s.qtailWrite q (mix (s.queue q).tail v mask (BitVec.allOnes 64))
  | 0x30 => s.qrdoneWrite q (mix (s.queue q).rdone v mask (BitVec.allOnes 64))
  | 0x40 => s.qresumeWrite q (v &&& mask)
  | _ => s

/-- Write a Harness register. -/
def State.hrnWrite (s : State) (d o : Nat) (v mask : Word) : State :=
  if 0x200000 ≤ o then
    let i := (o - 0x200000) / 0x1000
    if i < 1088 then s.queueRegW (qidOf d (i / 64) (i % 64)) (o % 0x1000) v mask else s
  else if 0x120000 ≤ o ∧ o < 0x120000 + 8 * 136 then
    { s with own := { s.own with stages := tmod 0 s.own.stages ((o - 0x120000) / 8) (fun w => mix w v mask 0xF03F) } }
  else s

/-- Write a census register: CNS_CTL and CNS_THR are RW, the flags of CNS_STAT W1C. -/
def State.cnsWrite (s : State) (d o : Nat) (v mask : Word) : State :=
  if 0x20000 ≤ o then s
  else
    let n := o / 0x80
    let c := s.cslot d n
    match o % 0x80 with
    | 0x00 => s.setCslot d n { c with ctl := mix c.ctl v mask 0xFFFFFFF81F800001 }
    | 0x08 => s.setCslot d n { c with thr := mix c.thr v mask (BitVec.allOnes 64) }
    | 0x10 => s.setCslot d n { c with flags := c.flags &&& ~~~((v &&& mask).setWidth 4) }
    | _ => s

/-- Write a Stitcher register. -/
def State.stcWrite (s : State) (d o : Nat) (v mask : Word) : State :=
  let cl := 8 * d + o / 0x100000
  let r := o % 0x100000
  if 0x800000 ≤ o then s
  else if r < 0x2000 then
    let x := s.ctx cl (r / 0x100)
    match r % 0x100 with
    | 0x00 => s.setCtx cl (r / 0x100) { x with ctl := mix x.ctl v mask 0xFFFFFFFFFFFFC001 }
    | 0x08 => s.setCtx cl (r / 0x100) { x with ring := mix x.ring v mask 0xFFFFFFFFFE00 }
    | _ => s
  else if r = 0x10000 then
    let k := s.stitcher cl
    s.setStitcher cl { k with retrylim := mix k.retrylim v mask 0xFFFF }
  else s

/-- The RETAIN bits of the clusters in test mode, which stay set (R406). -/
def State.testRetain (s : State) : Word :=
  (List.range 16).foldl (fun w c => if (s.cluster c).test then w ||| ones c 1 else w) 0

/-- Write a PWR register. -/
def State.pwrWrite (s : State) (o : Nat) (v mask : Word) : State :=
  match o with
  | 0x08 => { s with pwr := { s.pwr with clctl := mix s.pwr.clctl v mask 0x1FFFFFFFFFF ||| s.testRetain } }
  | 0x18 => { s with pwr := { s.pwr with ilim := field (mix (place s.pwr.ilim 16 8) v mask 0xFF0000) 16 8 } }
  | _ => s

/-- Write an INJ register (Table 19.5). -/
def State.injWrite (s : State) (u o : Nat) (v mask : Word) : State :=
  let b := s.injBlk u
  match o with
  | 0x00 => s.setInj u { b with point := mix b.point v mask 0xFFFF00FF }
  | 0x08 => s.setInj u { b with arg := mix b.arg v mask (BitVec.allOnes 64) }
  | 0x10 => s.injGo u
  | 0x18 => s.setInj u { b with bad := b.bad && !bitAt (v &&& mask) 1 }
  | _ => s

/-- DBG_CTL (Table 19.6): DBGREQ, RESTART, RESET. -/
def State.dbgWrite (s : State) (c o : Nat) (v mask : Word) : State :=
  if o ≠ 8 then s
  else
    let w := v &&& mask
    let s := if bitAt w 2 then s.pend c 32 else s
    let s := if bitAt w 1 then s.dbgRestart c else s
    if bitAt w 0 then s.dbgReset c else s

/-- Write a memory-controller register. -/
def State.mioWrite (s : State) (d o : Nat) (v mask : Word) : State :=
  if 0x800000 ≤ o then s
  else
    let n := 128 * d + o / 0x10000
    let c := s.chan n
    match o % 0x10000 with
    | 0x18 => s.setChan n { c with scrub := mix c.scrub v mask 0xFFFF }
    | 0x20 => s.setChan n { c with sref := mix c.sref v mask 0xFFFFF }
    | _ => s

/-- Write a register of a compute die. -/
def State.dieWrite (s : State) (d off : Nat) (v mask : Word) : State :=
  let o := off % 0x1000000
  match off / 0x1000000 with
  | 0x0 => s.hrnWrite d o v mask
  | 0x1 => if o < 0x8000 then s.signal d (o / 8) 0 (mix (s.objVal d (o / 8)) v mask (BitVec.allOnes 64)) else s
  | 0x2 => s.cnsWrite d o v mask
  | 0x3 =>
    if o < 0x400000 ∧ o % 0x10000 = 0 then
      let k := s.slice d (o / 0x10000)
      let t := s.setSlice d (o / 0x10000) { k with lim := mix k.lim v mask 0x1F }
      t.promote d (o / 0x10000) k.queue.length 0
    else s
  | 0x5 => s.stcWrite d o v mask
  | 0x7 =>
    if o < 0x110 ∧ o % 16 = 0 then
      let k := s.die d
      s.setDie d { k with tny := { k.tny with rate := tmod 0 k.tny.rate (o / 16) (fun w => mix w v mask 0xFFFFFFFF) } }
    else s
  | 0x8 => s.mioWrite d o v mask
  | 0x9 => s.pwrWrite o v mask
  | 0xA => s.injWrite d o v mask
  | n => if 0x10 ≤ n ∧ n < 0x18 then s.dbgWrite (64 * d + 8 * (n - 0x10) + o / 0x200000) (o % 0x200000) v mask else s

/-- Write HPT_WXLAT[g] of a port. -/
def State.wxlatWrite (s : State) (port g : Nat) (v mask : Word) : State :=
  let p := s.hport port
  s.setHport port { p with wxlat := tmod 0 p.wxlat g (fun w => mix w v mask 0xFFFFFFFFC0000001) }

/-- Write HPT_APER[f]. -/
def State.aperWrite (s : State) (f : Nat) (v mask : Word) : State :=
  { s with aper := tmod 0 s.aper f (fun w => mix w v mask 0xFFFFC0000001) }

/-- Write an HPT register. -/
def State.hptWrite (s : State) (o : Nat) (v mask : Word) : State :=
  let n := o / 0x100000
  let p := s.hport n
  let r := o % 0x100000
  if 0x400000 ≤ o then s
  else if 0x80000 ≤ o ∧ o < 0x80000 + 8 * 17 then s.aperWrite ((o - 0x80000) / 8) v mask
  else if 0x10000 ≤ r ∧ r < 0x18000 then s.wxlatWrite n ((r - 0x10000) / 8) v mask
  else if r = 0x28 then s.setHport n { p with msi := mix p.msi v mask 0xFFFF0003FFFF }
  else s

/-- Write a register of the steward. -/
def State.stwWrite (s : State) (off : Nat) (v mask : Word) : State :=
  let o := off % 0x1000000
  match off / 0x1000000 with
  | 0x0 => if o = 0x20 then s.recovWrite else s
  | 0x3 => s.hptWrite o v mask
  | 0xA => s.injWrite 2 o v mask
  | _ => s

/-- Write a register of link die `n`. -/
def State.lnkWrite (s : State) (n off : Nat) (v mask : Word) : State :=
  let o := off % 0x1000000
  match off / 0x1000000 with
  | 0x0 =>
    if 0x400000 ≤ o ∧ o < 0x420000 then
      let d := (o - 0x400000) / 8
      s.setRoute d (mix (s.rtab d) v mask 0xFFFF)
    else if o = 0x800008 then { s with fab := { s.fab with e2e := mix s.fab.e2e v mask 0xFFFF } }
    else s
  | 0xA => s.injWrite (4 + n) o v mask
  | _ => s

/-- Write the bits `mask` of the 64-bit register at an aligned offset; one that no table assigns ignores it (R7). -/
def State.regWrite (s : State) (space off : Nat) (v mask : Word) : State :=
  if space < 2 then s.dieWrite space off v mask
  else if space = 2 then s.stwWrite off v mask
  else s.lnkWrite (space - 4) off v mask

/-- Read a register, or the half of one (R6). -/
def State.regGet (s : State) (space off bytes : Nat) : Word :=
  let w := s.regRead space (off / 8 * 8)
  if bytes = 8 then w else w64 (field w (8 * (off % 8)) 32)

/-- A register access wakes the domain that holds the register (R368): an L2 half, a cluster with its Stitcher and Awls, LK1
or LK3. A link die both of whose ports are DISABLED goes back to OFF, and PARKED memory controllers to PARKED, at once (Table
17.2). A core's debug block does not wake its cluster (R407). -/
def State.regWake (s : State) (space off : Nat) : State :=
  let o := off % 0x1000000
  if 4 ≤ space then (s.wake (22 + space)).parkLinks
  else if space < 2 then
    match off / 0x1000000 with
    | 0x3 => if o < 0x400000 then s.wake (l2Dom space (o / 0x200000)) else s
    | 0x5 | 0x6 => if o < 0x800000 then s.wakeCluster (8 * space + o / 0x100000) else s
    | _ => s
  else s

/-- Write a register, or the half of one (R6). -/
def State.regPut (s : State) (space off bytes : Nat) (v : Word) : State :=
  let s := s.regWake space off
  if bytes = 8 then s.regWrite space off v (BitVec.allOnes 64)
  else s.regWrite space (off / 8 * 8) (place (field v 0 32) (8 * (off % 8)) 32) (ones (8 * (off % 8)) 32)

/-- A register that only the steward writes: TNY_RATE (R281), the memory controllers' (R332), PWR (R378), HPT_WXLAT but for the
PF's function page (R337), and the device-wide ones of the link dies with FAB_RTAB (R362). -/
def stewardOnly (space off : Nat) : Bool :=
  let o := off % 0x1000000
  match off / 0x1000000 with
  | 0x0 => decide (4 ≤ space)
  | 0x3 => decide (space = 2) && decide (0x10000 ≤ o % 0x100000) && decide (o % 0x100000 < 0x18000)
  | 0x7 => decide (space < 2) && decide (o < 0x1000)
  | 0x8 | 0x9 => decide (space < 2)
  | _ => false

/-- A write by a core at F or through the test port: the registers that only the steward writes ignore it. -/
def State.regPutF (s : State) (space off bytes : Nat) (v : Word) : State :=
  if stewardOnly space off then s else s.regPut space off bytes v

/-- REGISTER_WRITE (R4 to R7, R20), by the steward or whoever the register allows: any other width or alignment has no
effect. -/
def execRegisterWrite (addr : BitVec 48) (bytes : Nat) (v : Word) (s : State) : Out :=
  s.cmd fun s =>
  match locPA addr.toNat with
  | .reg sp off => if regFits off bytes then fin (s.regPut sp off bytes v) else fin s
  | _ => fin s

/-- REGACC (R422): one 64-bit access at level F; all ones, and nothing written, unless DBGEN was sampled as 1. -/
def execRegacc (addr : BitVec 48) (write : Option Word) (s : State) : Out :=
  s.cmd fun s =>
  let s : State := { s with pins := { s.pins with tap := .regacc } }
  let none_ := s.emit (.tdo (BitVec.allOnes 64))
  match locPA addr.toNat with
  | .reg sp off =>
    if !s.pins.dbgen ∨ off % 8 ≠ 0 then fin none_
    else
      match write with
      | none => fin ((s.regWake sp off).emit (.tdo ((s.regWake sp off).regRead sp off)))
      | some v => fin (s.regPutF sp off 8 v)
  | _ => fin none_

end Sys2Proof.Machine
end

