-- ==== Sys2Proof/Machine/Host.lean ====
section
/-! DEFINITION. The host ports as the host and an attached device use them (R333 to R340): apertures, queue and function
pages, completions of host-window reads, MSI writes, link state. -/

namespace Sys2Proof.Machine

/-- Does a port present the endpoint functions and is its link up (R334)? -/
def HPort.endpoint (p : HPort) : Bool := !p.root && p.up

/-- UR and CA completions received or sent, HPT_URCA. -/
def State.urca (s : State) (port : Nat) : State :=
  let p := s.hport port
  s.setHport port { p with urca := satAdd p.urca 1 }

/-- A poisoned TLP was received, HPT_EP. -/
def State.epIn (s : State) (port : Nat) : State :=
  let p := s.hport port
  s.setHport port { p with ep := satAdd p.ep 1 }

/-- A write of the host with EP set is a poisoned TLP received (R340). -/
def State.epSeen (s : State) (port : Nat) (a : HostAcc) : State :=
  match a with
  | .write _ true => s.epIn port
  | _ => s

/-- An access from the host completes as Unsupported Request (R334, R336). -/
def State.hostUr (s : State) (port f : Nat) (a : HostAcc) : State :=
  let s := (s.urca port).epSeen port a
  match a with
  | .read _ => s.emit (.hostAnswer port f .ur)
  | .write _ _ => s

/-- Bytes that a host access moves. -/
def accSize : HostAcc → Nat
  | .read n => n
  | .write b _ => b.length

/-- A host access performed at L2 (R336, R338, R400). -/
def State.hostAtL2 (s : State) (port f a : Nat) (acc : HostAcc) : State :=
  let s := s.dieAsked (homeDie a)
  match acc with
  | .read n =>
    match s.readMem a n with
    | (s, b, none) => s.emit (.hostAnswer port f (.ok b))
    | (s, _, some x) => (s.consume 10 port f (homeDie x) x).emit (.hostAnswer port f .ep)
  | .write b ep => (s.epSeen port acc).writeMem a b ep

/-- An access to the recovery buffer (R382). -/
def State.recovBuf (s : State) (port f off : Nat) (acc : HostAcc) : State :=
  match acc with
  | .read n => s.emit (.hostAnswer port f (.ok ((List.range n).map (fun i => tget 0 s.sec.buf (off + i)))))
  | .write b _ =>
    let s := s.epSeen port acc
    { s with sec := { s.sec with buf := (b.zipIdx).foldl (fun t e => tset 0 t (off + e.2) e.1) s.sec.buf } }

/-- The lowest-numbered endpoint port (R382, R386). -/
def State.firstEndpoint (s : State) : Option Nat := [0, 1, 2, 3].find? (fun n => !(s.hport n).root)

/-- HOST_APERTURE_ACCESS (R336, R26; in RECOVERY R382). -/
def execHostApertureAccess (port : Fin 4) (f : PartId) (off : BitVec 32) (a : HostAcc) (s : State) : Out :=
  s.cmd fun s =>
  let n := accSize a
  if !(s.hport port.val).endpoint ∨ s.pmem.lost then fin s
  else if s.sec.st = .recovery then
    if f.val = 0 ∧ s.firstEndpoint = some port.val ∧ off.toNat + n ≤ 2 ^ 25 then fin (s.recovBuf port.val f.val off.toNat a)
    else fin (s.hostUr port.val f.val a)
  else
    let w := tget 0 s.aper f.val
    let at_ := field w 30 18 * 2 ^ 30 + off.toNat
    if !bitAt w 0 ∨ 2 ^ 32 < off.toNat + n ∨ (s.rangeBad f.val (w64 at_) n true false).isSome then
      fin (s.hostUr port.val f.val a)
    else fin (s.hostAtL2 port.val f.val at_ a)

/-- What a BAR0 offset of a function reaches (Table 15.5): a register of a queue, by partition, number and offset in the
page; an offset in the function page; nothing. -/
inductive BarHit where
  | queue (part q off : Nat)
  | function (off : Nat)
  | none
  deriving DecidableEq, Repr

/-- Decode a BAR0 offset (Table 15.5). -/
def barHit (f off : Nat) : BarHit :=
  if f = 0 then
    if off < 0x440000 then .queue (off / 0x40000) (off / 0x1000 % 64) (off % 0x1000)
    else if off < 0x480000 then .function (off - 0x440000)
    else .none
  else if off < 0x40000 then .queue f (off / 0x1000) (off % 0x1000)
  else if off < 0x80000 then .function (off - 0x40000)
  else .none

/-- Does the function page of `f` hold a register at an aligned offset: HPT_APER[f] at 0, and on the PF HPT_WXLAT[g] of port n
at 0x1000 + n × 0x8000 + 8g (R334; log 35)? -/
def fnPageHas (f off : Nat) : Bool := decide (off = 0) || (decide (f = 0) && decide (0x1000 ≤ off) && decide (off < 0x21000))

/-- Read a register of a function page. -/
def State.fnPageRead (s : State) (f off : Nat) : Word :=
  if off = 0 then tget 0 s.aper f
  else tget 0 (s.hport ((off - 0x1000) / 0x8000)).wxlat ((off - 0x1000) % 0x8000 / 8)

/-- Write a register of a function page. -/
def State.fnPageWrite (s : State) (f off : Nat) (v mask : Word) : State :=
  if off = 0 then s.aperWrite f v mask
  else s.wxlatWrite ((off - 0x1000) / 0x8000) ((off - 0x1000) % 0x8000 / 8) v mask

/-- A register access from the host: the width and alignment are R6's; a write carries its bytes, little-endian (R3). -/
def State.hostReg (s : State) (port f off : Nat) (acc : HostAcc) (rd : State → Word) (wr : State → Word → Word → State) :
    State :=
  let lo := 8 * (off % 8)
  match acc with
  | .read n => s.emit (.hostAnswer port f (.ok (toBytes n ((rd s).toNat / 2 ^ lo))))
  | .write b _ => wr s (BitVec.ofNat 64 (ofBytes b * 2 ^ lo)) (ones lo (8 * b.length))

/-- HOST_QUEUE_PAGE_ACCESS (R334, Table 15.5). The page of a queue that does not exist reads zero and keeps nothing (DEDUCED,
log 38). -/
def execHostQueuePageAccess (port : Fin 4) (f : PartId) (off : BitVec 23) (a : HostAcc) (s : State) : Out :=
  s.cmd fun s =>
  let ep := match a with | .write _ e => e | _ => false
  if !(s.hport port.val).endpoint ∨ s.pmem.lost then fin s
  else if ep then fin (s.epIn port.val)
  else if !regFits off.toNat (accSize a) then fin (s.hostUr port.val f.val a)
  else
    match barHit f.val off.toNat with
    | .none => fin (s.hostUr port.val f.val a)
    | .queue p q o =>
      match s.findQueue (partId p) ⟨q % 64, Nat.mod_lt _ (by omega)⟩ with
      | none => fin (s.hostReg port.val f.val o a (fun _ => 0) (fun s _ _ => s))
      | some k =>
        let r := o / 8 * 8
        let s := s.dieAsked k.die.val
        fin (s.hostReg port.val f.val o a (fun s => s.queueReg k r) (fun s v m => s.queueRegW k r v m))
    | .function o =>
      let r := o / 8 * 8
      if fnPageHas f.val r then
        fin (s.hostReg port.val f.val o a (fun s => s.fnPageRead f.val r) (fun s v m => s.fnPageWrite f.val r v m))
      else fin (s.hostUr port.val f.val a)

/-- HOST_WINDOW_ACCESS (R337, R338, R26): an access to a window by the partition's Harness agent. Issued again, a read takes
the answer that has come. -/
def execHostWindowAccess (part : PartId) (pa : BitVec 48) (a : HostAcc) (s : State) : Out :=
  s.cmd fun s =>
  let who : Agent := .sync part.val
  if accSize a = 0 ∨ (s.rangeBad part.val (pa.setWidth 64) (accSize a) false true).isSome then fin s
  else
    match a with
    | .read n =>
      match s.winRead who part.val pa.toNat n with
      | (s, .wait) => fin s
      | (s, _) => fin (s.forget who)
    | .write b ep => fin (s.winWrite who part.val pa.toNat b ep).1

/-- The record of a read that a completion or a timeout failed (R338): an EP completion writes its own each time. -/
def State.readFailed (s : State) (port kind : Nat) (r : HostReq) (inj : Bool) : State :=
  if kind = 4 then s.log 0x8E r.part 2 inj [w64 port, 4, w64 (agentKind r.who), w64 r.pa, 1]
  else s.hostFail port kind (agentKind r.who) r.part r.pa inj

/-- An outstanding read of a port ends with an answer for its agent. -/
def State.readEnds (s : State) (port tag : Nat) (r : HostReq) (b : List Byte) (f : Option ReadFail)
    (inj : Bool) : State :=
  let p := s.hport port
  let s := s.setHport port { p with reqs := tset none p.reqs tag none }
  let a : Ans := { who := r.who, addr := r.pa, len := r.len, bytes := b, fail := f, inj := inj }
  State.answered { s with answers := s.answers ++ [a] } r.who

/-- A read times out (R338). -/
def State.readTimeout (s : State) (port tag : Nat) (r : HostReq) (inj : Bool) : State :=
  let p := s.hport port
  ((s.setHport port { p with cto := satAdd p.cto 1 }).readFailed port 1 r inj).readEnds port tag r [] (some .host) inj

/-- A read ends with a UR (kind 2) or CA (kind 3) completion. -/
def State.readAborted (s : State) (port tag kind : Nat) (r : HostReq) (inj : Bool) : State :=
  ((s.urca port).readFailed port kind r inj).readEnds port tag r [] (some .host) inj

/-- A read ends with an EP completion, of which a free sector is poisoned (log 5). -/
def State.readPoisoned (s : State) (port tag : Nat) (r : HostReq) (inj : Bool) : State :=
  let s := (s.epIn port).readFailed port 4 r inj
  let (v, s) := s.free
  s.readEnds port tag r [] (some (.poisoned (32 * (v.toNat % max 1 (r.len / 32))))) inj

/-- A HOST_COMP injection that the next completion of a port fires (Table 19.4). -/
def State.hostComp (s : State) (port : Nat) : Option Nat :=
  match s.armedAt 2 0x0E with
  | some a => if a.inst = port then some a.arg.toNat else none
  | none => none

/-- HOST_COMPLETION (R338). One that answers no outstanding read, or brings another number of bytes than was read, has no
effect. -/
def execHostCompletion (port : Fin 4) (tag : Nat) (c : HostCompl) (s : State) : Out :=
  s.cmd fun s =>
  let n := port.val
  match tget none (s.hport n).reqs tag with
  | none => fin s
  | some r =>
    match s.hostComp n with
    | some 0 => fin ((s.fire 2 []).readTimeout n tag r true)
    | some 1 => fin ((s.fire 2 []).readAborted n tag 2 r true)
    | some _ => fin ((s.fire 2 []).readPoisoned n tag r true)
    | none =>
      match c with
      | .ok b => if b.length = r.len then fin (s.readEnds n tag r b none false) else fin s
      | .ur => fin (s.readAborted n tag 2 r false)
      | .ca => fin (s.readAborted n tag 3 r false)
      | .ep => fin (s.readPoisoned n tag r false)

/-- HOST_COMPLETION_TIMEOUT (R338): 10 ms, 250,000 always-on ticks, after the read was sent. -/
def execHostCompletionTimeout (port : Fin 4) (tag : Nat) (s : State) : Out :=
  s.cmd fun s =>
  match tget none (s.hport port.val).reqs tag with
  | none => fin s
  | some r => if r.sent + 250000 ≤ s.now then fin (s.readTimeout port.val tag r false) else fin s

/-- INBOUND_HOST_WRITE (R338, R327): a write whose LPDDR6 address BAR2 has given is checked under R26 and lands, poisoned
when its TLP has EP set. -/
def execInboundHostWrite (port : Fin 4) (f : PartId) (lpa : BitVec 48) (bytes : List Byte) (ep : Bool) (s : State) : Out :=
  s.cmd fun s =>
  if !(s.hport port.val).endpoint ∨ s.pmem.lost then fin s
  else if (s.rangeBad f.val (lpa.setWidth 64) bytes.length true false).isSome then
    fin (s.hostUr port.val f.val (.write bytes ep))
  else fin (s.hostAtL2 port.val f.val lpa.toNat (.write bytes ep))

/-- MSI_WRITE (R339): ADD 1 on the object that HPT_MSI names, for its partition. -/
def execMsiWrite (port : Fin 4) (addr : Word) (s : State) : Out :=
  s.cmd fun s =>
  let p := s.hport port.val
  let die := field p.msi 12 1
  let obj := field p.msi 0 12
  if p.root ∧ p.up ∧ field addr 32 32 = 0 ∧ field addr 16 16 = field p.msi 32 16 ∧ s.syncOwner die obj = field p.msi 13 5 then
    fin ((s.dieAsked die).signal die obj 1 1)
  else fin s

/-- Is a host port's link in training or trained: from stage 2 of the boot on (R385), and in RECOVERY that of the lowest-numbered
endpoint port (R382)? -/
def State.hostTrains (s : State) (port : Nat) : Bool :=
  match s.sec.st with
  | .ready | .hold => true
  | .firmware => s.sec.booted
  | .recovery => decide ([0, 1, 2, 3].find? (fun n => !(s.hport n).root) = some port)
  | _ => false

/-- HOST_LINK_UP (R333, R339): HPT_LINK shows the width, rate and protocol. CXL is a root port's option besides CXL.io. -/
def execHostLinkUp (port : Fin 4) (widthLog rate : BitVec 3) (cxl : Bool) (s : State) : Out :=
  s.cmd fun s =>
  if s.pmem.lost ∨ !s.hostTrains port.val ∨ 4 < widthLog.toNat ∨ 5 < rate.toNat then fin s
  else
    let p := s.hport port.val
    fin (s.setHport port.val { p with link := place (b2n cxl) 7 1 ||| place rate.toNat 4 3 ||| place widthLog.toNat 1 3 ||| 1 })

/-- HOST_LINK_DOWN (R338). The reads outstanding on the port end by HOST_COMPLETION_TIMEOUT. -/
def execHostLinkDown (port : Fin 4) (s : State) : Out :=
  s.cmd fun s =>
  let p := s.hport port.val
  fin (s.setHport port.val { p with link := 0 })

end Sys2Proof.Machine
end

