-- ==== Sys2Proof/Machine/Integer.lean ====
section
/-! DEFINITION. The integer instructions (R66 to R68, Tables 4.3 and 4.4). -/

namespace Sys2Proof.Machine

/-- ADD, SUB, AND, OR, XOR, SLL, SRL, SRA, and words that no table assigns (R66, R67). -/
def execAddSubLogicShift (h : Issue) (op : AluOp) (rd rs1 rs2 : Reg) (s : State) : Out :=
  s.cmd fun s =>
  let w := wordOf (.addSubLogicShift h op rd rs1 rs2)
  s.issueCore h w (fun _ c => bAlu w op rd rs1 rs2 c)

/-- SLT, SLTU (R67). -/
def execSltSltu (h : Issue) (uns : Bool) (rd rs1 rs2 : Reg) (s : State) : Out :=
  s.cmd fun s =>
  s.issueCore h (wordOf (.sltSltu h uns rd rs1 rs2)) (fun _ c => bSlt uns rd rs1 rs2 c)

/-- MIN, MAX, MINU, MAXU (R67). -/
def execMinMax (h : Issue) (op : MinMaxOp) (rd rs1 rs2 : Reg) (s : State) : Out :=
  s.cmd fun s =>
  s.issueCore h (wordOf (.minMax h op rd rs1 rs2))
    (fun _ c => putReg c rd (minMaxVal op (xget c rs1) (xget c rs2)))

/-- ADDO, SUBO (R68). -/
def execAddoSubo (h : Issue) (sub : Bool) (rd rs1 rs2 : Reg) (s : State) : Out :=
  s.cmd fun s =>
  s.issueCore h (wordOf (.addoSubo h sub rd rs1 rs2))
    (fun _ c => bOvf rd (addoExact sub (xget c rs1) (xget c rs2)) c)

/-- CLZ, CTZ, POPC (R67). -/
def execClzCtzPopc (h : Issue) (op : CountOp) (rd rs1 : Reg) (s : State) : Out :=
  s.cmd fun s =>
  s.issueCore h (wordOf (.clzCtzPopc h op rd rs1)) (fun _ c => putReg c rd (countVal op (xget c rs1)))

/-- SEXT.W, ZEXT.W (R67). -/
def execSextWZextW (h : Issue) (zero : Bool) (rd rs1 : Reg) (s : State) : Out :=
  s.cmd fun s =>
  s.issueCore h (wordOf (.sextWZextW h zero rd rs1)) (fun _ c => putReg c rd (extW zero (xget c rs1)))

/-- ADDI, ANDI, ORI, XORI, SLTI, SLTIU (R67). -/
def execAddiAndiOriXoriSlti (h : Issue) (op : ImmOp) (rd rs1 : Reg) (imm : BitVec 16) (s : State) : Out :=
  s.cmd fun s =>
  s.issueCore h (wordOf (.addiAndiOriXoriSlti h op rd rs1 imm))
    (fun _ c => putReg c rd (immVal op (xget c rs1) imm))

/-- SHI (R67). -/
def execShi (h : Issue) (kind : BitVec 2) (amount : BitVec 6) (rd rs1 : Reg) (s : State) : Out :=
  s.cmd fun s =>
  let w := wordOf (.shi h kind amount rd rs1)
  s.issueCore h w (fun _ c => bShi w kind amount rd rs1 c)

/-- LSI (R67). -/
def execLsi (h : Issue) (rd rs1 : Reg) (imm : BitVec 16) (s : State) : Out :=
  s.cmd fun s =>
  s.issueCore h (wordOf (.lsi h rd rs1 imm)) (fun _ c => putReg c rd (lsiVal (xget c rs1) imm))

/-- MUL, MULH, MULHU (R67). -/
def execMulMulhMulhu (h : Issue) (op : MulOp) (rd rs1 rs2 : Reg) (s : State) : Out :=
  s.cmd fun s =>
  s.issueCore h (wordOf (.mulMulhMulhu h op rd rs1 rs2))
    (fun _ c => putReg c rd (mulVal op (xget c rs1) (xget c rs2)))

/-- MULO (R68). -/
def execMulo (h : Issue) (rd rs1 rs2 : Reg) (s : State) : Out :=
  s.cmd fun s =>
  s.issueCore h (wordOf (.mulo h rd rs1 rs2)) (fun _ c => bOvf rd ((xget c rs1).toInt * (xget c rs2).toInt) c)

/-- DIV, DIVU, REM, REMU (R67, R68). -/
def execDivDivuRemRemu (h : Issue) (op : DivOp) (rd rs1 rs2 : Reg) (s : State) : Out :=
  s.cmd fun s =>
  s.issueCore h (wordOf (.divDivuRemRemu h op rd rs1 rs2)) (fun _ c => bDiv op rd rs1 rs2 c)

end Sys2Proof.Machine
end

