-- ==== Sys2Proof/Machine/CoreAccess.lean ====
section
/-! DEFINITION. How a core's instruction moves bytes: local memory through the L1 or the write-combining buffer, the
landing buffer and the debug view, host windows, registers at level F, other devices (R17 to R20, R209 to R216, R327, R338,
R349, R400). -/

namespace Sys2Proof.Machine

/-- Alignment, translation and checks of one access, before any byte moves (R69). -/
def State.aim (s : State) (c : Nat) (kind : AccKind) (own : Bool) (va : Word) (n align : Nat) :
    State × Except Trap (List Piece) :=
  if va.toNat % align ≠ 0 then (s, .error ⟨cMISALIGNED, va, 0⟩) else s.resolve c kind own va n

/-- How a core's read stands: its bytes, an ACCESS at an address with its DETAIL, or it waits for another agent. -/
inductive LdRes where
  | ok (b : List Byte)
  | bad (va : Word) (detail : Nat)
  | wait
  deriving DecidableEq, Repr

/-- The way of a read into local memory; `peek` is a store's read of a unit that it covers in part, which allocates no line
in the L1 (R126, R210). -/
inductive Via where
  | l1 | const | l2 | peek
  deriving DecidableEq, Repr

/-- Read bytes of one line of this device's LPDDR6: them, or the address of the first poisoned sector touched. -/
def State.viaRead (s : State) (c : Nat) (via : Via) (pa n : Nat) : State × Except Nat (List Byte) :=
  match via with
  | .l1 => s.loadLine c pa n
  | .const => s.roRead c 1 pa n
  | .peek =>
    match s.loadHit c pa n with
    | (s, some b) => (s, b)
    | (s, none) =>
      match s.readMem pa n with
      | (s, b, none) => (s, .ok b)
      | (s, _, some a) => (s, .error a)
  | .l2 =>
    match s.readMem pa n with
    | (s, b, none) => (s, .ok b)
    | (s, _, some a) => (s, .error a)

/-- A read of poisoned data by a core (R400). -/
def State.ldPoison (s : State) (c kind : Nat) (va : Word) (a : Nat) : State × LdRes :=
  (s.consume kind c (s.owner (c / 8)) (c / 64) a, .bad va 6)

/-- Read the core-local window (Table 1.5, R181). -/
def State.localRead (s : State) (c kind o : Nat) (p : Piece) : State × LdRes :=
  let k := s.core c
  if o < lbSize k then
    let (b, bad) := landRead k o p.len
    if bad then s.ldPoison c kind p.va (0xE00000000000 + o) else (s, .ok b)
  else
    let (b, k', ev) := viewRead (s.marked c) o p.len
    (s.unmarked c k' ev, .ok b)

/-- Read one piece. `kind` is the row of Table 19.3 that a poisoned read takes. A failed host read gives all ones (Table
15.6). -/
def State.loadPiece (s : State) (c : Nat) (via : Via) (kind : Nat) (p : Piece) : State × LdRes :=
  let part := s.owner (c / 8)
  let who : Agent := .core c
  match p.loc with
  | .dram _ pa =>
    match s.viaRead c via pa p.len with
    | (s, .ok b) => (s, .ok b)
    | (s, .error a) => s.ldPoison c kind (p.va + w64 (a - pa)) a
  | .locl o => s.localRead c kind o p
  | .reg sp off =>
    let s := (s.drainWcb c).regWake sp off
    (s, .ok (toBytes p.len (s.regGet sp off p.len).toNat))
  | .host port o =>
    match (s.drainWcb c).hostRead who part port o p.len with
    | (s, .bytes b) => (s, .ok b)
    | (s, .wait) => (s, .wait)
    | (s, .fail _) => (s, .ok (List.replicate p.len 0xFF))
  | .remote dev lpa =>
    let lo := lpa / 32 * 32
    let n := (lpa + p.len + 31) / 32 * 32 - lo
    match (s.drainWcb c).remoteRead who part dev lo n with
    | (s, .bytes b) => (s, .ok ((b.drop (lpa - lo)).take p.len))
    | (s, .wait) => (s, .wait)
    | (s, .fail (.poisoned off)) =>
      s.ldPoison c kind (if lpa - lo ≤ off then p.va + w64 (off - (lpa - lo)) else p.va) (globPA dev (lo + off))
    | (s, .fail _) => (s, .bad p.va 2)
  | _ => (s, .bad p.va 1)

/-- Read the pieces of an access, in order: a core's uncached accesses complete one at a time (R209). -/
def State.loadPieces (c : Nat) (via : Via) (kind : Nat) : List Piece → State → State × LdRes
  | [], s => (s, .ok [])
  | p :: l, s =>
    match s.loadPiece c via kind p with
    | (s, .ok b) =>
      match State.loadPieces c via kind l s with
      | (s, .ok b') => (s, .ok (b ++ b'))
      | x => x
    | x => x

/-- How a core's write stands: performed, an ACCESS, or it waits: for what it reads first, or, `sent`, for the answers of
its frames. -/
inductive StRes where
  | done
  | bad (va : Word) (detail : Nat)
  | wait (sent : Bool)
  deriving DecidableEq, Repr

/-- The sectors of a remote piece: each with the offset of its first byte in the piece, of that byte in the sector, and the
number of bytes. -/
def pieceSectors (lpa n : Nat) : List (Nat × Nat × Nat × Nat) :=
  (List.range ((lpa + n + 31) / 32 - lpa / 32)).map (fun i =>
    let lo := 32 * (lpa / 32 + i)
    let a := max lpa lo
    let b := min (lpa + n) (lo + 32)
    (lo, a - lpa, a - lo, b - a))

/-- What a remote write sends for a sector: its bytes, nothing for a poisoned sector that the write covers in part, which stays
poisoned (R327); or the write fails, or waits for the sector it merges with (log 23). -/
inductive SecRes where
  | send (b : List Byte)
  | skip
  | lost
  | wait
  deriving DecidableEq, Repr

/-- One sector of a remote write. -/
def State.remoteSector (s : State) (c part dev : Nat) (bytes : List Byte) (e : Nat × Nat × Nat × Nat) : State × SecRes :=
  let (lo, off, at_, n) := e
  let new := (bytes.drop off).take n
  if n = 32 then (s, .send new)
  else
    match s.remoteRead (.core c) part dev lo 32 with
    | (s, .bytes b) => (s, .send (b.take at_ ++ new ++ b.drop (at_ + n)))
    | (s, .wait) => (s, .wait)
    | (s, .fail (.poisoned _)) => (s, .skip)
    | (s, .fail _) => (s, .lost)

/-- The sectors of a remote piece, in order, up to the first that waits. -/
def State.remoteSectors (c part dev : Nat) (bytes : List Byte) :
    List (Nat × Nat × Nat × Nat) → State → State × List (Nat × SecRes)
  | [], s => (s, [])
  | e :: l, s =>
    match s.remoteSector c part dev bytes e with
    | (s, .wait) => (s, [(e.1, .wait)])
    | (s, r) =>
      let (s, t) := State.remoteSectors c part dev bytes l s
      (s, (e.1, r) :: t)

/-- What a piece of a write needs before any byte moves: none when it is ready. -/
def State.storeReady (s : State) (c : Nat) (p : Piece) (bytes : List Byte) : State × Option StRes :=
  match p.loc with
  | .remote dev lpa =>
    let (s, l) := State.remoteSectors c (s.owner (c / 8)) dev bytes (pieceSectors lpa p.len) (s.drainWcb c)
    (s, if l.any (fun e => decide (e.2 = .wait)) then some (.wait false)
      else if l.any (fun e => decide (e.2 = .lost)) then some (.bad p.va 2)
      else none)
  | _ => (s, none)

/-- Send the sectors of a remote piece, in one PUT a page where none is left out. -/
def State.remotePut (s : State) (c dev lpa : Nat) (p : Piece) (bytes : List Byte) : State :=
  let part := s.owner (c / 8)
  let (s, l) := State.remoteSectors c part dev bytes (pieceSectors lpa p.len) s
  let data := l.map (fun e => (e.1, match e.2 with | .send b => b | _ => []))
  let va (lo : Nat) : Word := if lo ≤ lpa then p.va else p.va + w64 (lo - lpa)
  if data.all (fun e => decide (e.2.length = 32)) then
    s.putRemote (.core c) part dev (lpa / 32 * 32) (va (lpa / 32 * 32)) (data.flatMap (·.2))
  else
    data.foldl (fun s e => if e.2.isEmpty then s else s.putRemote (.core c) part dev e.1 (va e.1) e.2) s

/-- Invalidate the sectors that a scatter writes in the issuing core's L1 and victim cache (R128). -/
def dropSectors (k : Core) (pa n : Nat) : Core :=
  let line := pa / 128
  let m : BitVec 4 := (touched (pa % 128) n).foldl (fun m i => setMaskBit m i true) 0
  let f (l : List CLine) : List CLine := l.map (fun e => if e.line = line then { e with valid := e.valid &&& ~~~m } else e)
  { k with mem := { k.mem with l1 := tmod [] k.mem.l1 (line % l1Sets k) f, victim := f k.mem.victim } }

/-- Write the landing buffer sector by sector: a sector with a bad byte takes bad parity (R181). -/
def State.landStore (s : State) (c o : Nat) (bytes : List Byte) (bad : List Bool) : State :=
  (pieceSectors o bytes.length).foldl (fun s e =>
    let (_, off, _, n) := e
    s.setCore c (landWrite (s.core c) (o + off) ((bytes.drop off).take n) (((bad.drop off).take n).any id))) s

/-- The sectors of a line in which one of the bytes from `off` on is bad. -/
def badSecs (off : Nat) (bad : List Bool) : BitVec 4 :=
  bad.zipIdx.foldl (fun m e => if e.1 then setMaskBit m ((off + e.2) / 32) true else m) 0

/-- Write one piece that is ready. `direct` is a scatter's write at the home L2. -/
def State.storePiece (s : State) (c : Nat) (direct : Bool) (p : Piece) (bytes : List Byte) (bad : List Bool) : State :=
  let part := s.owner (c / 8)
  let poison := bad.any id
  match p.loc with
  | .dram _ pa =>
    if direct then (s.setCore c (dropSectors (s.core c) pa bytes.length)).writeMem pa bytes false
    else s.storeLine c pa bytes (badSecs (pa % 128) bad)
  | .locl o => if o < lbSize (s.core c) then s.landStore c o bytes bad else s.setCore c (viewWrite (s.core c) o bytes)
  | .reg sp off => (s.drainWcb c).regPutF sp off p.len (BitVec.ofNat 64 (ofBytes bytes))
  | .host port o => ((s.drainWcb c).hostWrite (.core c) part port o bytes poison).1
  | .remote dev lpa => s.remotePut c dev lpa p bytes
  | _ => s

/-- Does a piece lie on another device? -/
def Piece.away (p : Piece) : Bool := match p.loc with | .remote .. => true | _ => false

/-- What the first piece that is not ready needs. -/
def State.allReady (c : Nat) : List Piece → List Byte → State → State × Option StRes
  | [], _, s => (s, none)
  | p :: l, b, s =>
    match s.storeReady c p (b.take p.len) with
    | (s, none) => State.allReady c l (b.drop p.len) s
    | x => x

/-- The lowest address of a remote write of the core that failed (R349). -/
def State.lostWrite (s : State) (c : Nat) : Option Nat :=
  (s.answers.filter (fun a => decide (a.who = .core c) && decide (a.len = 0) && a.fail.isSome)).foldl
    (fun m a => match m with | none => some a.addr | some n => some (min n a.addr)) none

/-- Write the pieces of an access. With `sent` its frames have gone out: it is performed when all are answered. -/
def State.storePieces (s : State) (c : Nat) (direct : Bool) (ps : List Piece) (bytes : List Byte) (bad : List Bool)
    (sent : Bool) : State × StRes :=
  if sent then
    if s.outstanding (.core c) then (s, .wait true)
    else match s.lostWrite c with
      | some a => (s, .bad (w64 a) 2)
      | none => (s, .done)
  else
    match State.allReady c ps bytes s with
    | (s, some r) => (s, r)
    | (s, none) =>
      let s := (ps.foldl (fun (a : State × List Byte × List Bool) p =>
        (a.1.storePiece c direct p (a.2.1.take p.len) (a.2.2.take p.len), a.2.1.drop p.len, a.2.2.drop p.len))
        (s, bytes, bad)).1
      (s, if ps.any Piece.away && s.outstanding (.core c) then .wait true else .done)

/-- Where a store that waits stands: twice the number of its writes performed, plus 1 when the next has been sent. -/
def State.setStorePos (s : State) (c n : Nat) : State :=
  let k := s.core c
  s.setCore c { k with mem := { k.mem with prog := n } }

/-- ACCESS (Table 5.3). -/
def tAccess (va : Word) (detail : Nat) : Trap := ⟨cACCESS, va, BitVec.ofNat 32 detail⟩

/-- A write that one instruction makes: its element, address, alignment and bytes, and a mask of the bits that it changes. -/
structure Write where
  idx   : Nat
  va    : Word
  align : Nat
  bytes : List Byte
  mask  : List Byte
  deriving DecidableEq, Repr

/-- A write that changes every bit of its bytes. -/
def fullWrite (idx : Nat) (va : Word) (align : Nat) (bytes : List Byte) : Write :=
  { idx := idx, va := va, align := align, bytes := bytes, mask := List.replicate bytes.length 0xFF }

/-- How a list of an instruction's writes ends. -/
inductive WrRes where
  | done
  | trap (idx : Nat) (t : Trap)
  | wait
  deriving DecidableEq, Repr

/-- The address of a location, as far as its place in a sector goes. -/
def Loc.low : Loc → Nat
  | .dram _ a => a
  | .host _ o => o
  | .locl o => o
  | .reg _ o => o
  | .remote _ a => a
  | _ => 0

/-- A location `n` bytes further on. -/
def Loc.plus (n : Nat) : Loc → Loc
  | .dram d a => .dram d (a + n)
  | .host p o => .host p (o + n)
  | .locl o => .locl (o + n)
  | .reg sp o => .reg sp (o + n)
  | .remote dev a => .remote dev (a + n)
  | l => l

/-- A piece cut where a sector ends. -/
def Piece.cut (p : Piece) : List Piece :=
  let n := 32 - p.loc.low % 32
  if p.len ≤ n then [p] else [{ p with len := n }, ⟨p.loc.plus n, p.va + w64 n, p.len - n⟩]

/-- The old bits of a unit that a store covers in part, sector by sector (R126), and which of them come from a poisoned
sector: that is no fault of the store, whose sector stays poisoned, and the bits are then free values (R327, Table 19.3, log
68). -/
def State.oldBits (c : Nat) : List Piece → State → State × LdRes × List Bool
  | [], s => (s, .ok [], [])
  | p :: l, s =>
    let got (s : State) (b : List Byte) (bad : Bool) : State × LdRes × List Bool :=
      match State.oldBits c l s with
      | (s, .ok b', bad') => (s, .ok (b ++ b'), List.replicate p.len bad ++ bad')
      | x => x
    match s.loadPiece c .peek 0 p with
    | (s, .ok b) => got s b false
    | (s, .bad _ 6) => let (s, b) := s.freeBytes p.len; got s b true
    | (s, r) => (s, r, [])

/-- The bytes that a write stores, and which of them are poisoned: where it leaves bits unchanged it reads them (R126). A
scatter faults at a poisoned unit (Table 19.3). -/
def State.writeData (s : State) (c : Nat) (direct : Bool) (ps : List Piece) (w : Write) : State × LdRes × List Bool :=
  let join (old : List Byte) : List Byte :=
    (old.zip (w.bytes.zip w.mask)).map (fun e => (e.1 &&& ~~~e.2.2) ||| (e.2.1 &&& e.2.2))
  if w.mask.all (fun b => decide (b = 0xFF)) then (s, .ok w.bytes, [])
  else if direct then
    match State.loadPieces c .peek 0 ps s with
    | (s, .ok old) => (s, .ok (join old), [])
    | (s, x) => (s, x, [])
  else
    match State.oldBits c (ps.flatMap Piece.cut) s with
    | (s, .ok old, bad) => (s, .ok (join old), bad)
    | x => x

/-- Perform one write. -/
def State.writeOne (s : State) (c : Nat) (direct : Bool) (w : Write) (sent : Bool) : State × Except Trap StRes :=
  match s.aim c .store false w.va w.bytes.length w.align with
  | (s, .error t) => (s, .error t)
  | (s, .ok ps) =>
    match (if sent then (s, .ok w.bytes, []) else s.writeData c direct ps w) with
    | (s, .wait, _) => (s, .ok (.wait false))
    | (s, .bad va d, _) => (s, .error (tAccess va d))
    | (s, .ok b, bad) => let (s, r) := s.storePieces c direct ps b bad sent; (s, .ok r)

/-- Perform an instruction's writes in order, from where it stands: number `pos` is next. -/
def State.writeRun (c : Nat) (direct : Bool) : List Write → Nat → Bool → State → State × WrRes
  | [], _, _, s => (s, .done)
  | w :: l, pos, sent, s =>
    match s.writeOne c direct w sent with
    | (s, .error t) => (s, .trap w.idx t)
    | (s, .ok .done) => State.writeRun c direct l (pos + 1) false s
    | (s, .ok (.bad va d)) => (s, .trap w.idx (tAccess va d))
    | (s, .ok (.wait b)) => (s.setStorePos c (2 * pos + b2n b), .wait)

/-- Go on with an instruction's writes. -/
def State.writes (s : State) (c : Nat) (direct : Bool) (l : List Write) : State × WrRes :=
  let p := (s.core c).mem.prog
  State.writeRun c direct (l.drop (p / 2)) (p / 2) (decide (p % 2 = 1)) s

/-- A read that one instruction makes: its element, address, alignment, bytes. -/
structure Read where
  idx   : Nat
  va    : Word
  align : Nat
  n     : Nat
  deriving DecidableEq, Repr

/-- How a list of an instruction's reads ends, with the bytes of each element read before that. -/
inductive RdRes where
  | done (l : List (Nat × List Byte))
  | trap (idx : Nat) (t : Trap) (l : List (Nat × List Byte))
  | wait
  deriving DecidableEq, Repr

/-- Aim the reads of one request in order, up to the first that traps. -/
def State.aimRun (c : Nat) : List Read → List (Nat × List Piece) → State →
    State × List (Nat × List Piece) × Option (Nat × Trap)
  | [], acc, s => (s, acc, none)
  | r :: l, acc, s =>
    match s.aim c .load false r.va r.n r.align with
    | (s, .error t) => (s, acc, some (r.idx, t))
    | (s, .ok ps) => State.aimRun c l (acc ++ [(r.idx, ps)]) s

/-- The bytes of local memory among some pieces, line by line. -/
def localBytes (l : List (Nat × List Piece)) : List (Nat × Nat) :=
  l.flatMap (fun e => e.2.filterMap (fun p => match p.loc with | .dram _ pa => some (pa, p.len) | _ => none))

/-- Read what a request has aimed at, in order; `acc` is what has been read, `stop` the trap that ends the request. -/
def State.readAimed (c : Nat) (stop : Option (Nat × Trap)) :
    List (Nat × List Piece) → List (Nat × List Byte) → State → State × RdRes
  | [], acc, s => (s, match stop with | none => .done acc | some (i, t) => .trap i t acc)
  | (i, ps) :: l, acc, s =>
    match State.loadPieces c .l1 0 ps s with
    | (s, .ok b) => State.readAimed c stop l (acc ++ [(i, b)]) s
    | (s, .bad va d) => (s, .trap i (tAccess va d) acc)
    | (s, .wait) => (s, .wait)

/-- Perform the reads of one request, a vector load or a row of TLD.R (R214): the write-combining buffer is looked up for
all its bytes together (R212). `acc` is what the instruction's earlier requests have read. -/
def State.readReq (s : State) (c : Nat) (l : List Read) (acc : List (Nat × List Byte)) : State × RdRes :=
  let (s, ps, stop) := State.aimRun c l [] s
  State.readAimed c stop ps acc (s.wcbSettle c (localBytes ps))

/-- Perform the reads of an instruction that is one request. -/
def State.reads (s : State) (c : Nat) (l : List Read) : State × RdRes := s.readReq c l []

/-- Perform the reads of an instruction each of which is a request of its own, in order. -/
def State.readEach (c : Nat) : List Read → List (Nat × List Byte) → State → State × RdRes
  | [], acc, s => (s, .done acc)
  | r :: l, acc, s =>
    match s.readReq c [r] acc with
    | (s, .done acc) => State.readEach c l acc s
    | x => x

end Sys2Proof.Machine
end

