-- ==== Sys2Proof/Machine/Loads.lean ====
section
/-! DEFINITION. Scalar loads and stores (R69, R71, R209 to R216). -/

namespace Sys2Proof.Machine

/-- The address rs1 + offset13. -/
def memAddr (k : Core) (rs1 : Reg) (off : BitVec 13) : Word := xget k rs1 + off.signExtend 64

/-- A scalar load's value comes in, or its trap. -/
def SysRes.load (c : Nat) (rd : Reg) (size : LoadSize) (r : State × LdRes) : SysRes :=
  match r with
  | (s, .ok b) => .done (s.setCore c (xset (s.core c) rd (loadVal size b)))
  | (s, .bad va d) => .trap s (tAccess va d)
  | (s, .wait) => .stay s

/-- The miss registers of a core's L1 (Table 10.1), and the requests that one merges (R214). -/
def l1Regs : Nat := 32
def l1Merge : Nat := 8

/-- Loads in flight that wait for a line. -/
def waitersOf (k : Core) (line : Nat) : Nat :=
  (k.mem.loads.filter (fun w => w.got.isNone && decide (w.pa / 128 = line))).length

/-- A miss joins the register of its line, or allocates one, which requests the line from L2 (R214); none while the
register's waiters are 8, or every register tracks another line. -/
def missRegs (k : Core) (pa : Nat) : Option (List Miss) :=
  if k.mem.miss.any (fun m => decide (m.line = pa / 128)) then
    if waitersOf k (pa / 128) < l1Merge then some k.mem.miss else none
  else if k.mem.miss.length < l1Regs then some (k.mem.miss ++ [{ line := pa / 128, first := pa / 32 % 4 }])
  else none

/-- A scalar load from memory issues (R214): its data is there, or a miss register brings it; none while it must wait at
issue for a register. A load behind others in flight writes its destination after them; one that finds poisoned bytes in the
write-combining buffer traps when it would write it (R83, R400). -/
def State.loadLocal (s : State) (c : Nat) (rd : Reg) (size : LoadSize) (pa : Nat) (va : Word) : Option State :=
  let (s, hit) := s.loadHit c pa (loadBytes size)
  let k := s.core c
  let w : Waiter := { rd := rd, size := size, pa := pa, va := va, pc := k.pc, lp := k.lp, got := hit.map (fun r => match r with | .ok b => .bytes b | .error _ => .poison) }
  match hit, (if hit.isSome then some k.mem.miss else missRegs k pa) with
  | some (.error _), some _ => some (s.setCore c { k with mem := { k.mem with loads := k.mem.loads ++ [w] } })
  | some (.ok b), some _ =>
    if k.mem.loads.isEmpty then some (s.setCore c (xset k rd (loadVal size b)))
    else some (s.setCore c { k with mem := { k.mem with loads := k.mem.loads ++ [w] } })
  | none, some r => some (s.setCore c { k with mem := { k.mem with miss := r, loads := k.mem.loads ++ [w] } })
  | _, none => none

/-- Issue a scalar load behind loads in flight: it does not read what they write, no asynchronous trap is due, and its fetch,
translation and checks pass. None where it waits for them instead. -/
def State.loadBehind (s : State) (h : Issue) (size : LoadSize) (rd rs1 : Reg) (off : BitVec 13) : Option State :=
  let c := h.core.val
  let k := s.core c
  let reads := decide (rs1 ≠ 0) && k.mem.loads.any (fun w => decide (w.rd = rs1))
  if !s.canIssue c || k.mem.loads.isEmpty || reads || decide (h.rsvz ≠ 0) || (s.takeAsync c).isSome then none
  else
    match s.fetch c with
    | (_, some _) => none
    | (s, none) =>
      let va := memAddr (s.core c) rs1 off
      match s.aim c .load false va (loadBytes size) (loadBytes size) with
      | (s, .ok [⟨.dram _ pa, _, _⟩]) => (s.loadLocal c rd size pa va).map (fun t => s.complete c (.done t))
      | _ => none

/-- LB to LD (R69): a load that misses completes issue, and writes rd when its data comes in (R83, R214). -/
def execLoad (h : Issue) (size : LoadSize) (rd rs1 : Reg) (off : BitVec 13) (s : State) : Out :=
  s.cmd fun s =>
  match s.loadBehind h size rd rs1 off with
  | some s => fin s
  | none =>
    s.issue h (wordOf (.load h size rd rs1 off)) (fun s =>
      let c := h.core.val
      let va := memAddr (s.core c) rs1 off
      let n := loadBytes size
      match s.aim c .load false va n n with
      | (s, .error t) => .trap s t
      | (s, .ok ps) =>
        match ps with
        | [⟨.dram _ pa, _, _⟩] => match s.loadLocal c rd size pa va with
          | some t => .done t
          | none => .hold s
        | ps => .load c rd size (State.loadPieces c .l1 0 ps s))

/-- LDK (R71, R209): 64 bits through the constant cache. -/
def execLdk (h : Issue) (rd rs1 : Reg) (off : BitVec 13) (s : State) : Out :=
  s.cmd fun s =>
  s.issue h (wordOf (.ldk h rd rs1 off)) (fun s =>
    let c := h.core.val
    match s.aim c .load true (memAddr (s.core c) rs1 off) 8 8 with
    | (s, .error t) => .trap s t
    | (s, .ok ps) => .load c rd .ld (State.loadPieces c .const 0 ps s))

/-- How an instruction whose writes ended completes: `fin` on the core when they are performed, `stop` on the core at the
element of a trap. -/
def SysRes.writes (c : Nat) (fin : Core → Core) (stop : Nat → Core → Core) (r : State × WrRes) : SysRes :=
  match r with
  | (s, .done) => .done (s.setCore c (fin (s.core c)))
  | (s, .trap i t) => .trap (s.setCore c (stop i (s.core c))) t
  | (s, .wait) => .stay s

/-- SB to SD (R69, R211): size codes 4 to 7 are reserved. -/
def execStore (h : Issue) (size : BitVec 3) (rs2 rs1 : Reg) (off : BitVec 13) (s : State) : Out :=
  s.cmd fun s =>
  let w := wordOf (.store h size rs2 rs1 off)
  s.issue h w (fun s =>
    let c := h.core.val
    let k := s.core c
    let n := 2 ^ size.toNat
    if 4 ≤ size.toNat then .trap s (tIllegal w)
    else
      .writes c id (fun _ k => k)
        (s.writes c false [fullWrite 0 (memAddr k rs1 off) n (toBytes n (xget k rs2).toNat)]))

end Sys2Proof.Machine
end

