-- ==== Sys2Proof/Machine/Sync.lean ====
section
/-! DEFINITION. Fences and sync instructions (R238 to R258), and operations that reach a sync unit by themselves. -/

namespace Sys2Proof.Machine

/-- What FENCE.M with INV = 0 does (R241): the write-combining buffer drains; it has not completed while a remote write or
signal of the core is unanswered. -/
def State.fenceM (s : State) (c : Nat) : State × Bool :=
  let s := s.drainWcb c
  (s, !s.outstanding (.core c))

/-- A fence whose core waits for FENCE.M first; `f` is what follows. -/
def State.fenced (s : State) (c : Nat) (f : Core → Core) : SysRes :=
  match s.fenceM c with
  | (s, false) => .stay s
  | (s, true) => .done (s.setCore c (f (s.core c)))

/-- FENCE.M (R241). -/
def execFenceM (h : Issue) (s : State) : Out :=
  s.cmd fun s =>
  s.issue h (wordOf (.fenceM h)) (fun s => s.fenced h.core.val id)

/-- FENCE.M.INV (R241, R215). -/
def execFenceMInv (h : Issue) (s : State) : Out :=
  s.cmd fun s =>
  s.issue h (wordOf (.fenceMInv h)) (fun s => s.fenced h.core.val invalL1)

/-- FENCE.I (R242): as FENCE.M, then the read-only caches are invalidated. -/
def execFenceI (h : Issue) (s : State) : Out :=
  s.cmd fun s =>
  s.issue h (wordOf (.fenceI h)) (fun s => s.fenced h.core.val invalRo)

/-- FENCE.T (R150, R243): the tile queue empties and the reuse latches are cleared. -/
def execFenceT (h : Issue) (s : State) : Out :=
  s.cmd fun s =>
  s.issueCore h (wordOf (.fenceT h)) (fun _ c =>
    if c.tile.queue.isEmpty then ok { c with tile := { c.tile with latch := [] } } else .hold)

/-- The contexts that a core owns (R262). -/
def State.owned (s : State) (c : Nat) : List Nat :=
  (List.range 32).filter (fun n => let x := s.ctx (c / 8) n
    decide (x.st ≠ .unbound) && !bitAt x.ctl 46 && decide (field x.ctl 43 3 = c % 8))

/-- FENCE.S (R244): until every context that the core owns is quiet the instruction has not completed and has no effect. -/
def execFenceS (h : Issue) (s : State) : Out :=
  s.cmd fun s =>
  s.issue h (wordOf (.fenceS h)) (fun s =>
    let c := h.core.val
    if (s.owned c).all (fun n => s.ctxQuiet (c / 8) n) then .done s else .left s)

/-- A sync name is malformed (R245). -/
def badName (w : Word) : Bool :=
  bitAt w 62 || decide (field w 13 35 ≠ 0) || (!bitAt w 63 && decide (field w 48 14 ≠ 0))

/-- Die and number of the object that a name gives. -/
def nameObj (w : Word) : Nat × Nat := (field w 12 1, field w 0 12)

/-- The SYNC_FAULT reason of a name: the lowest that applies (Table 11.9). `local_` that only a local object is allowed. -/
def State.nameFault (s : State) (part : Nat) (local_ : Bool) (w : Word) : Option Nat :=
  let (d, o) := nameObj w
  if badName w then some 1
  else if s.pairRemote w then (if local_ then some 2 else none)
  else if s.syncOwner d o = part then none
  else some 3

/-- A sync instruction: ILLEGAL_INSN for a reserved OPC or ORD, SYNC_FAULT for its name, then `f` on the name. -/
def State.syncInsn (s : State) (h : Issue) (w : BitVec 32) (bad local_ : Bool) (rs1 : Reg) (f : State → Word → SysRes) :
    Out :=
  s.issue h w (fun s =>
    let c := h.core.val
    let name := xget (s.core c) rs1
    if bad then .trap s (tIllegal w)
    else
      match s.nameFault (s.owner (c / 8)) local_ name with
      | some r => .trap s ⟨cSYNC_FAULT, 0, BitVec.ofNat 32 r⟩
      | none => f s name)

/-- Mark the piece of the instruction that has been done. -/
def State.setProg (s : State) (c n : Nat) : State :=
  let k := s.core c
  s.setCore c { k with mem := { k.mem with prog := n } }

/-- SYNC.SIG (R246, R249, R254). Release waits as FENCE.M does; a remote signal with acquire order holds issue until it is
answered. -/
def execSyncSig (h : Issue) (op : BitVec 3) (ord : BitVec 2) (rs1 rs2 : Reg) (s : State) : Out :=
  s.cmd fun s =>
  s.syncInsn h (wordOf (.syncSig h op ord rs1 rs2)) (decide (3 ≤ op.toNat)) false rs1 (fun s name =>
    let c := h.core.val
    let acq := bitAt ord 0
    let v := xget (s.core c) rs2
    let (d, o) := nameObj name
    let after (s : State) : SysRes := .done (if acq then s.setCore c (invalL1 (s.core c)) else s)
    if (s.core c).mem.prog = 1 then (if s.outstanding (.core c) then .stay s else after s)
    else
      match (if bitAt ord 1 then s.fenceM c else (s, true)) with
      | (s, false) => .stay s
      | (s, true) =>
        if s.pairRemote name then
          let dev := field name 48 14
          if s.noRoute dev then after (s.rnak (c / 64) (s.owner (c / 8)) dev 6 0)
          else
            let s := s.signalRemote (.core c) (s.owner (c / 8)) dev op.toNat d o v
            if acq then .stay (s.setProg c 1) else .done s
        else after (s.signal d o op.toNat v))

/-- SYNC.WAIT (R249, R250): the core holds issue until the wait is satisfied, its release part included: an interrupt or
WATCHDOG abandons it there too. -/
def execSyncWait (h : Issue) (cond : BitVec 3) (ord : BitVec 2) (rs1 rs2 : Reg) (s : State) : Out :=
  s.cmd fun s =>
  s.syncInsn h (wordOf (.syncWait h cond ord rs1 rs2)) (decide (3 ≤ cond.toNat)) true rs1 (fun s name =>
    let c := h.core.val
    match (if bitAt ord 1 then s.fenceM c else (s, true)) with
    | (s, false) => .left (s.setCore c { s.core c with run := .waitSync (bitAt ord 0) })
    | (s, true) =>
      let k := s.core c
      let (d, o) := nameObj name
      .left ((s.setCore c { k with run := .waitSync (bitAt ord 0) }).addWait d
        { who := .core c, obj := o, cond := cond.toNat, val := xget k rs2 }))

/-- SYNC.ARM (R251): replaces any earlier arming of the slot. -/
def execSyncArm (h : Issue) (slot : Fin 4) (cond : BitVec 3) (rs1 rs2 : Reg) (s : State) : Out :=
  s.cmd fun s =>
  s.syncInsn h (wordOf (.syncArm h slot cond rs1 rs2)) (decide (3 ≤ cond.toNat)) true rs1 (fun s name =>
    let c := h.core.val
    let (d, o) := nameObj name
    .done ((s.dropWaits (fun w => decide (w = .arm c slot.val))).addWait d
      { who := .arm c slot.val, obj := o, cond := cond.toNat, val := xget (s.core c) rs2 }))

/-- SYNC.DISARM (R251). -/
def execSyncDisarm (h : Issue) (slot : Fin 4) (s : State) : Out :=
  s.cmd fun s =>
  s.issue h (wordOf (.syncDisarm h slot)) (fun s => .done (s.dropWaits (fun w => decide (w = .arm h.core.val slot.val))))

/-- SYNC.RD (R248). -/
def execSyncRd (h : Issue) (rd rs1 : Reg) (s : State) : Out :=
  s.cmd fun s =>
  s.syncInsn h (wordOf (.syncRd h rd rs1)) false true rs1 (fun s name =>
    let c := h.core.val
    let (d, o) := nameObj name
    .done (s.setCore c (xset (s.core c) rd (s.objVal d o))))

/-- SIGNAL_APPLY: the sync unit applies one operation to an object (R246, R247). -/
def execSignalApply (o : ObjId) (op : BitVec 3) (v : Word) (s : State) : Out :=
  s.cmd fun s =>
  if 3 ≤ op.toNat then fin s else fin (s.signal o.die.val o.obj.toNat op.toNat v)

/-- A write of SYN_VAL acts as a relaxed SET (R260). -/
def execSynValWrite (o : ObjId) (v : Word) (s : State) : Out :=
  s.cmd fun s =>
  fin (s.signal o.die.val o.obj.toNat 0 v)

end Sys2Proof.Machine
end

