-- ==== Sys2Proof/Machine/Packets.lean ====
section
/-! DEFINITION. Packets that the Harness carries out itself (R255, R310, R315 to R318): NOP, FENCE, SYNC_SIGNAL, SYNC_WAIT,
COPY, FILL, LAUNCH, and the end of a task. -/

namespace Sys2Proof.Machine

/-- NOP. -/
def execNop (p : PktRef) (s : State) : Out :=
  s.cmd fun s =>
  s.pktRow p 0x00 (fun s q k _ => s.finish q k stOK 0)

/-- FENCE (R255): completes once every earlier packet of its queue has completed and its signals have been applied. -/
def execFence (p : PktRef) (s : State) : Out :=
  s.cmd fun s =>
  s.pktRow p 0x07 (fun s q k _ => if s.quietBefore q k.pos then s.finish q k stOK 0 else s)

/-- The end of a packet whose remote requests have all been answered (Table 16.4). -/
def State.awaited (s : State) (q : QId) (p : Pkt) : State :=
  if s.outstanding (.pkt q p.pos) then s
  else s.finish q p (BitVec.ofNat 8 (p.work.getD 1 0).toNat) (p.work.getD 2 0)

/-- The failure of a sync name in W0 and a code in W2 bits 2:0 (R245, R246, R307). -/
def State.namePktBad (s : State) (p : Pkt) (local_ : Bool) : Option (Byte × Nat) :=
  let w := p.word 0
  let (d, o) := nameObj w
  if badName w ∨ (local_ ∧ s.pairRemote w) then some (stBAD_PARAM, 0)
  else if 3 ≤ field (p.word 2) 0 3 then some (stBAD_PARAM, 2)
  else if !s.pairRemote w ∧ s.syncOwner d o ≠ p.part then some (stNO_PERM, 0)
  else none

/-- A SYNC_SIGNAL inside a region whose object lies outside the region block: its signal is held with the packet's signal
pairs (R197). -/
def State.holdSignal (s : State) (q : QId) (p : Pkt) (g : SigPair) : Option State :=
  let u := s.queue q
  match u.region.filter (fun r => decide (r.startPos < p.pos) && !s.inBlock r g.word) with
  | none => none
  | some r => some (s.setQueue q { u with region := some { r with sigs := r.sigs ++ [(p.pos, g)] } })

/-- SYNC_SIGNAL: one operation on an object of this or another device (R246, R254, Table 16.4). -/
def State.syncSignal (s : State) (q : QId) (p : Pkt) : State :=
  let w := p.word 0
  let (d, o) := nameObj w
  let op := field (p.word 2) 0 3
  let g : SigPair := { word := (w &&& 0xBFFF000000000000#64) ||| place op 45 3 ||| place d 44 1 ||| place o 32 12,
                       val := p.word 1, part := p.part }
  match s.namePktBad p false with
  | some (st, i) => s.badWord q p st i
  | none =>
    match s.holdSignal q p g with
    | some s => s.finish q p stOK 0
    | none =>
      if s.pairRemote w then
        let dev := field w 48 14
        if s.noRoute dev then s.finish q p stLINK_DOWN (w64 dev)
        else (s.setPkt q (p.awaiting stOK 0)).signalRemote (.pkt q p.pos) p.part dev op d o (p.word 1)
      else (s.signal d o op (p.word 1)).finish q p stOK 0

/-- SYNC_SIGNAL. -/
def execSyncSignal (p : PktRef) (s : State) : Out :=
  s.cmd fun s =>
  s.pktRow p 0x05 (fun s q k fresh => if fresh then s.syncSignal q k else s.awaited q k)

/-- SYNC_WAIT: one wait on a local object (R250, Table 14.5). -/
def State.syncWaitPkt (s : State) (q : QId) (p : Pkt) (fresh : Bool) : State :=
  let (d, o) := nameObj (p.word 0)
  let who : Who := .pkt q p.pos 4
  match s.namePktBad p true with
  | some (st, i) => s.badWord q p st i
  | none =>
    let s := if fresh then s.addWait d { who := who, obj := o, cond := field (p.word 2) 0 3, val := p.word 1 } else s
    if s.waiting who then s else s.finish q p stOK 0

/-- SYNC_WAIT. -/
def execSyncWaitPacket (p : PktRef) (s : State) : Out :=
  s.cmd fun s =>
  s.pktRow p 0x06 (fun s q k fresh => s.syncWaitPkt q k fresh)

/-- SYNC_WAIT_TIMEOUT: a wait that is still pending after its TIMEOUT in ms ends (Table 14.5). -/
def execSyncWaitTimeout (p : PktRef) (s : State) : Out :=
  s.cmd fun s =>
  let q := p.queue
  match s.pktAt p 0x06 with
  | none => fin s
  | some k =>
    let ms := field (k.word 2) 16 16
    let who : Who := .pkt q k.pos 4
    if k.st = .begun ∧ ms ≠ 0 ∧ k.began + 25000 * ms ≤ s.now ∧ s.waiting who then
      fin ((s.dropWaits (fun w => decide (w = who))).finish q k stTIMEOUT 0)
    else fin s

/-- Where a range of a COPY lies: a local address, another device, or why it is refused (R18, R19, R26, R425). -/
def State.copyPlace (s : State) (p : Pkt) (a : Word) (n : Nat) : Except Byte Loc :=
  match s.locate a with
  | .malformed => .error stBAD_PARAM
  | .remote dev lpa => if 2 ^ 48 < lpa + n then .error stBAD_PARAM else .ok (.remote dev lpa)
  | l =>
    match s.rangeBad p.part (w64 (field a 0 48)) n true true with
    | some st => .error st
    | none => .ok l

/-- One part of a COPY's source: its offset, its bytes, the offsets of its poisoned sectors, and the address of poison that
came with an answer and is consumed when the COPY takes it. -/
structure CopyPart where
  off   : Nat
  bytes : List Byte
  bad   : List Nat := []
  ate   : Option Nat := none
  deriving DecidableEq, Repr

/-- A failed part of a COPY: the status and DETAIL of the packet. -/
structure CopyFail where
  status : Byte
  detail : Word
  deriving DecidableEq, Repr

/-- How the source of a COPY stands. -/
inductive CopyGot where
  | part (c : CopyPart)
  | fail (f : CopyFail)
  | wait
  deriving DecidableEq, Repr

/-- The status that a failed remote access gives a COPY at word `i` (Table 16.4). -/
def remoteStatus (f : ReadFail) (dev i : Nat) : CopyFail :=
  match f with
  | .refuse 2 => ⟨stBAD_PARAM, locWord i⟩
  | .refuse _ => ⟨stNO_PERM, locWord i⟩
  | .noRoute => ⟨stLINK_DOWN, w64 dev⟩
  | _ => ⟨stPARTNER, w64 dev⟩

/-- Read one part of a COPY's source (R337, R349, R400), in the window of a later port where the range has run on into it: a
poisoned part that brings no data has free bytes. -/
def State.copyRead (s : State) (q : QId) (p : Pkt) (src : Loc) (off n : Nat) : State × CopyGot :=
  let who : Agent := .pkt q p.pos
  let a := p.word 0 + w64 off
  match src with
  | .dram _ pa =>
    let (s, b, bad) := s.pktSectors q p.part (pa + off) n
    (s, .part ⟨off, b, bad.map (fun x => x - pa), none⟩)
  | .host port o =>
    match s.winRead who p.part (winPA port (o + off)) n with
    | (s, .bytes b) => (s, .part ⟨off, b, [], none⟩)
    | (s, .wait) => (s, .wait)
    | (s, .poison x) =>
      let (s, b) := s.freeBytes n
      (s, .part ⟨off, b, (x - winPA port o) :: (List.range (n / 32)).map (fun i => off + 32 * i), some x⟩)
    | (s, .fail _) => (s, .fail ⟨stMEM, a⟩)
  | .remote dev lpa =>
    match s.remoteRead who p.part dev (lpa + off) n with
    | (s, .bytes b) => (s, .part ⟨off, b, [], none⟩)
    | (s, .wait) => (s, .wait)
    | (s, .fail (.poisoned x)) =>
      let (s, b) := s.freeBytes n
      (s, .part ⟨off, b, (off + x) :: (List.range (n / 32)).map (fun i => off + 32 * i), some (globPA dev (lpa + off + x))⟩)
    | (s, .fail f) => (s, .fail (remoteStatus f dev 0))
  | _ => (s, .fail ⟨stMEM, a⟩)

/-- The parts of a COPY's source: LPDDR6 whole, a host window and another device by 4 KiB and by frame. -/
def copyParts (src : Loc) (n : Nat) : List (Nat × Nat) :=
  match src with
  | .host _ o => (cutPieces 4096 (n / 4096 + 2) o n).map (fun e => (e.1 - o, e.2))
  | .remote _ lpa => (framePieces (n / 32 + 1) lpa (n / 32)).map (fun e => (e.1 - lpa, 32 * e.2))
  | _ => [(0, n)]

/-- Bytes of a COPY whose ranges overlap: a byte whose source the same packet also writes is open (log 30). -/
def State.copyOverlap (s : State) (p : Pkt) (src dst : Loc) (n : Nat) (c : CopyPart) : State × CopyPart :=
  let lap : Bool := match src, dst with
    | .dram _ a, .dram _ b => decide (a ≠ b) && decide (a < b + n) && decide (b < a + n)
    | .host i x, .host j y =>
      let a := winPA i x
      let b := winPA j y
      decide (a ≠ b) && decide (a < b + n) && decide (b < a + n)
    | _, _ => false
  if !lap then (s, c)
  else
    let a := (p.word 0).toNat
    let b := (p.word 1).toNat
    let (s, f) := s.freeBytes c.bytes.length
    (s, { c with bytes := (c.bytes.zip f).zipIdx.map (fun e =>
      let x := field (p.word 0) 0 48 + c.off + e.2
      if field (p.word 1) 0 48 ≤ x ∧ x < field (p.word 1) 0 48 + n ∧ a ≠ b then e.1.2 else e.1.1) })

/-- Write one part of a COPY to its destination: the first failing address of a host window. A frame with a poisoned source
sector is not sent (Table 19.3). -/
def State.copyWrite (s : State) (q : QId) (p : Pkt) (dst : Loc) (c : CopyPart) : State × Option CopyFail :=
  let who : Agent := .pkt q p.pos
  match dst with
  | .dram _ pa =>
    (s.writeMark (pa + c.off) c.bytes (fun i => c.bad.any (fun x => decide (x / 32 = (c.off + i) / 32))), none)
  | .host port o =>
    match s.winSectors who p.part (winPA port (o + c.off)) c.off c.bytes c.bad with
    | (s, none) => (s, none)
    | (s, some x) => (s, some ⟨stMEM, p.word 1 + w64 (x - winPA port o)⟩)
  | .remote dev lpa =>
    let s := (framePieces (c.bytes.length / 32 + 1) (lpa + c.off) (c.bytes.length / 32)).foldl (fun s e =>
      let o := e.1 - lpa
      if c.bad.any (fun x => decide (o ≤ x) && decide (x < o + 32 * e.2)) then s
      else s.putRemote who p.part dev e.1 (p.word 1 + w64 o) ((c.bytes.drop (o - c.off)).take (32 * e.2))) s
    (s, none)
  | _ => (s, none)

/-- A COPY whose source failed leaves each sector it targets old or new (Table 14.6): the choice for each is free. -/
def State.copySome (s : State) (c : CopyPart) : State × List CopyPart :=
  ((chunks 32 (c.bytes.length + 1) c.bytes).zipIdx).foldl (fun (a : State × List CopyPart) e =>
    let (v, s) := a.1.free
    let o := c.off + 32 * e.2
    if bitAt v 0 then (s, a.2 ++ [⟨o, e.1, c.bad.filter (fun x => decide (o ≤ x) && decide (x < o + 32)), none⟩])
    else (s, a.2)) (s, [])

/-- COPY (R316, R338, R349, R400): every part of the source is asked for; when all have come the destination is written. -/
def State.copy (s : State) (q : QId) (p : Pkt) : State :=
  let n := (p.word 2).toNat
  if n = 0 then s.finish q p stOK 0
  else if (p.word 0).toNat % 32 ≠ 0 then s.badWord q p stBAD_PARAM 0
  else if (p.word 1).toNat % 32 ≠ 0 then s.badWord q p stBAD_PARAM 1
  else if n % 32 ≠ 0 then s.badWord q p stBAD_PARAM 2
  else
    match s.copyPlace p (p.word 0) n, s.copyPlace p (p.word 1) n with
    | .error st, _ => s.badWord q p st 0
    | .ok _, .error st => s.badWord q p st 1
    | .ok src, .ok dst =>
      let (s, l) := (copyParts src n).foldl (fun (a : State × List CopyGot) e =>
        let (s, g) := a.1.copyRead q p src e.1 e.2
        (s, a.2 ++ [g])) (s, [])
      let down := match dst with | .remote dev _ => if s.noRoute dev then some dev else none | _ => none
      if l.any (fun g => decide (g = .wait)) then s
      else
        let parts := l.filterMap (fun g => match g with | .part c => some c | _ => none)
        let s := parts.foldl (fun s c => match c.ate with
          | some x => s.consume 6 (qKey q) p.part q.die.val x
          | none => s) s
        let failed := l.findSome? (fun g => match g with | .fail f => some f | _ => none)
        match down with
        | some dev => s.finish q p stLINK_DOWN (w64 dev)
        | none =>
          let (s, parts) := parts.foldl (fun (a : State × List CopyPart) c =>
            let (s, c) := a.1.copyOverlap p src dst n c
            match failed with
            | none => (s, a.2 ++ [c])
            | some _ => let (s, l) := s.copySome c; (s, a.2 ++ l)) (s, [])
          let (s, wf) := parts.foldl (fun (a : State × Option CopyFail) c =>
            let (s, f) := a.1.copyWrite q p dst c
            (s, a.2 <|> f)) (s, none)
          let bad := parts.flatMap (·.bad)
          let poison : Option CopyFail :=
            if bad.isEmpty then none else some ⟨stUNCORR, p.word 0 + w64 (bad.foldl min n)⟩
          let r := (failed <|> wf <|> poison).getD ⟨stOK, 0⟩
          if s.outstanding (.pkt q p.pos) then s.setPkt q (p.awaiting r.status r.detail)
          else s.finish q p r.status r.detail

/-- COPY. -/
def execCopy (p : PktRef) (s : State) : Out :=
  s.cmd fun s =>
  s.pktRow p 0x03 (fun s q k _ => if k.work.isEmpty then s.copy q k else s.awaited q k)

/-- FILL: a 64-bit pattern, repeated (Table 14.5). -/
def State.fillPkt (s : State) (q : QId) (p : Pkt) : State :=
  let n := (p.word 1).toNat
  if n = 0 then s.finish q p stOK 0
  else if (p.word 0).toNat % 8 ≠ 0 then s.badWord q p stBAD_PARAM 0
  else if n % 8 ≠ 0 then s.badWord q p stBAD_PARAM 1
  else
    match s.rangeBad p.part (p.word 0) n true true with
    | some st => s.badWord q p st 0
    | none =>
      let b := toBytes 8 (p.word 2).toNat
      s.putResult q p (p.word 0).toNat ((List.replicate (n / 8) b).flatten) 0

/-- FILL. -/
def execFill (p : PktRef) (s : State) : Out :=
  s.cmd fun s =>
  s.pktRow p 0x04 (fun s q k _ => s.fillPkt q k)

/-- The general registers at task start: x10 to x14 from the block, x15 the rank, all others 0 (R318). -/
def startRegs (blk : List Word) (rank : Nat) : Tbl Word :=
  ttab 0 32 (fun i => if 10 ≤ i ∧ i ≤ 14 then blk.getD (i - 7) 0 else if i = 15 then w64 rank else 0)

/-- Task start on one core (R318, R285, R251). A core that HALT at F has stopped stays stopped until the steward restarts it
(R103). -/
def State.startCore (s : State) (q : QId) (p : Pkt) (blk : List Word) (e : Nat × Nat) : State :=
  let c := e.2
  let s := s.wakeCluster (c / 8)
  let s := s.dropWaits (fun w => match w with | .arm x _ => decide (x = c) | _ => false)
  let k := invalRo (invalL1 (s.core c))
  let l : Level := if field (p.word 1) 24 2 = 0 then .u else .s
  let b : Level := if saveset k then .u else l
  let regs := startRegs blk e.1
  let k := match b with
    | .u => { k with xu := regs }
    | .s => { k with xs := regs }
    | .f => { k with xf := regs }
  let run : Run := match k.run with | .halted => .halted | _ => .running
  s.setCore c { k with
    pc := blk.getD 0 0, level := l, bank := b, run := run, task := some { queue := q, pos := p.pos },
    cr := { k.cr with asctl := blk.getD 1 0 &&& ~~~(0xFFF#64), seed := blk.getD 2 0, stepno := (s.queue q).stepCtr, cflags := 0, fired := 0 },
    tc := { k.tc with trapenU := 0 },
    mem := { k.mem with miss := [], prog := 0 } }

/-- The task of a LAUNCH starts on its cores. -/
def State.launchStart (s : State) (q : QId) (p : Pkt) (blk : List Word) : State :=
  let (rung, inside) := match (s.queue q).region with
    | some g => if g.startPos < p.pos then (g.rung, true) else (0, false)
    | none => (0, false)
  let s := { s with tasks := s.tasks ++ [{ q := q, pos := p.pos, part := p.part, cores := p.cores, ended := [], rung := rung,
                                           region := inside }] }
  (p.cores.zipIdx.map (fun e => (e.2, e.1))).foldl (fun s e => s.startCore q p blk e) s

/-- LAUNCH (R317): its checks in order, then the start of the task; one that names a retired core, or one of a die
that is out of service (R341), completes with TASK_FAULT (R405). -/
def State.launch (s : State) (q : QId) (p : Pkt) : State :=
  let w := p.word 1
  let a := p.word 0
  let foreign := (List.range 16).any (fun c => bitAt w c && decide (s.owner c ≠ p.part))
  if p.cores.isEmpty then s.finish q p stOK 0
  else if 1 < field w 24 2 then s.badWord q p stBAD_PARAM 1
  else if foreign then s.badWord q p stNO_PERM 1
  else if a.toNat % 64 ≠ 0 then s.badWord q p stBAD_PARAM 0
  else
    match s.rangeBad p.part a 64 true false with
    | some st => s.badWord q p st 0
    | none =>
      match s.blkRead q p.pos p.part a.toNat 64 with
      | (s, .poison x) => s.finishMute q p stUNCORR (w64 x)
      | (s, .fail x) => s.finishMute q p stMEM (w64 x)
      | (s, .wait) => s
      | (s, .bytes b) =>
        let blk := (chunks 8 9 b).map (fun e => w64 (ofBytes e))
        if field (blk.getD 1 0) 59 5 ≠ p.part then s.finish q p stNO_PERM (locBlk 8)
        else
          match p.cores.find? (fun c => match (s.core c).run with | .wedged _ => true | _ => false) with
          | some c => s.finish q p stWEDGED (w64 c)
          | none =>
            if (blk.getD 0 0).toNat % 4 ≠ 0 then s.finish q p stBAD_PARAM (locBlk 0)
            else
              match p.cores.find? (fun c => s.clOut (c / 8)) with
              | some c => s.finish q p stTASK (w64 c)
              | none => s.launchStart q p blk

/-- LAUNCH: it begins only when its cores are free, in the order of R299; once begun it completes as its cores end. -/
def execLaunch (p : PktRef) (s : State) : Out :=
  s.cmd fun s =>
  s.pktRow p 0x01 (fun s q k fresh => if fresh then s.launch q k else s)

/-- TASK_END (R256): a core that has stopped ends its task once its queued tile instructions have completed and everything
it issued has been performed. -/
def execTaskEnd (core : CoreId) (s : State) : Out :=
  s.cmd fun s =>
  let c := core.val
  match s.endStatus c with
  | some st => if s.mayEnd c then fin (s.endCore c st) else fin s
  | none => fin s

end Sys2Proof.Machine
end

