-- ==== Sys2Proof/Machine/Streams.lean ====
section
/-! DEFINITION. STREAM packets, stream runs and Chroup instructions (R262 to R283). -/

namespace Sys2Proof.Machine

/-- Device cluster and context that a STREAM packet names (Table 14.5). -/
def streamCtx (p : Pkt) : Nat × Nat := (8 * field (p.word 0) 38 1 + field (p.word 0) 35 3, field (p.word 0) 39 5)

/-- The operation that a STREAM packet names. -/
def streamSub (p : Pkt) : Nat := field (p.word 0) 33 2

/-- The operations of STREAM. -/
def streamKnown (n : Nat) : Bool := decide (n ≤ 2)

/-- The checks of BIND and RUN (R25, R263, R265, R425): the failing status and word. -/
def State.streamBad (s : State) (p : Pkt) : Option (Byte × Nat) :=
  let (cl, n) := streamCtx p
  let w := p.word 2
  let rlog := field w 32 5
  let held (o : Nat) : Bool := decide (s.syncOwner (cl / 8) o = p.part)
  if s.owner cl ≠ p.part then some (stNO_PERM, 0)
  else if !asidOk p.part (field (p.word 0) 48 16) then some (stNO_PERM, 0)
  else if (s.ctx cl n).st ≠ .unbound ∧ (s.ctx cl n).st ≠ .faulted then some (stBAD_PARAM, 0)
  else if rlog < 4 ∨ 16 < rlog then some (stBAD_PARAM, 2)
  else if s.rangeBad p.part (p.word 1) (32 * 2 ^ rlog) true false = some stBAD_PARAM then some (stBAD_PARAM, 1)
  else if !held (field w 52 12) || !held (field w 40 12) then some (stNO_PERM, 2)
  else none

/-- Bind a context (R262, R263), its cluster awake (R369): `run` is the RUN packet that owns it. -/
def State.bindCtx (s : State) (p : Pkt) (run : Option (QId × Nat)) (bell : Nat) : State :=
  let (cl, n) := streamCtx p
  let s := s.wakeCluster cl
  let w0 := p.word 0
  let w2 := p.word 2
  let ctl : Word := place (field w0 48 16) 48 16 ||| place (field w0 47 1) 47 1 ||| place (b2n run.isSome) 46 1 |||
    place (if run.isSome then 0 else field w0 44 3) 43 3 ||| place (field w2 52 12) 31 12 |||
    place (field w2 40 12) 19 12 ||| place (field w2 32 5) 14 5 ||| 1#64
  let c : SCtx := { st := .idle, ctl := ctl, ring := p.word 1, pkt := run }
  let s := s.setCtx cl n c
  let s := s.signal (cl / 8) c.head 0 0
  s.signal (cl / 8) c.dbell 0 (w64 bell)

/-- `State.takeSub` for an operation of STREAM: the context that the packet names keeps no program of an earlier run (R266). -/
def State.streamTake (s : State) (r : PktRef) (n : Nat) : State × Option (Pkt × Bool) :=
  match s.pktAt r 0x02 with
  | none => (s.pump r.queue, none)
  | some p =>
    let (t, x) := s.takeSub r 0x02 streamSub streamKnown 0 n
    let begun := match t.pktAt r 0x02 with | some k => decide (k.st = .begun) | none => true
    if p.st = .waiting ∧ begun = true then
      let (cl, c) := streamCtx p
      (t.setCtx cl c { t.ctx cl c with lastProg := none }, x)
    else (t, x)

/-- STREAM BIND (R263). -/
def execStreamBind (p : PktRef) (s : State) : Out :=
  s.cmd fun s =>
  match s.streamTake p 0 with
  | (s, none) => fin s
  | (s, some (k, _)) =>
    match s.streamBad k with
    | some (st, i) => fin (s.badWord p.queue k st i)
    | none => fin ((s.bindCtx k none 0).finish p.queue k stOK 0)

/-- STREAM RUN (R263): it completes when POS reaches N and the context is quiet, at once for N = 0 (Table 14.5); when its
context has faulted, once what the context issued before has been performed (R255). -/
def execStreamRun (p : PktRef) (s : State) : Out :=
  s.cmd fun s =>
  match s.streamTake p 1 with
  | (s, none) => fin s
  | (s, some (k, false)) =>
    let (cl, c) := streamCtx k
    if k.work.isEmpty || s.ctxLeft cl c then fin s
    else fin (s.finish p.queue k (BitVec.ofNat 8 (k.work.getD 1 0).toNat) (k.work.getD 2 0))
  | (s, some (k, true)) =>
    match s.streamBad k with
    | some (st, i) => fin (s.badWord p.queue k st i)
    | none =>
      let n := field (k.word 2) 0 32
      if n = 0 then
        let s := s.bindCtx k (some (p.queue, k.pos)) 0
        let (cl, c) := streamCtx k
        fin ((s.setCtx cl c { s.ctx cl c with pkt := none }).finish p.queue k stOK 0)
      else fin (s.bindCtx k (some (p.queue, k.pos)) n)

/-- A context is unbound; what a RUN packet still waits for does not come (log 29). -/
def State.unbindCtx (s : State) (cl n : Nat) : State :=
  let x := s.ctx cl n
  let s := (s.dropWaits (fun w => decide (w = .ctx cl n))).endRuns cl n
  let s := s.setCtx cl n {}
  match x.pkt with
  | none => s
  | some (q, pos) =>
    match (s.queue q).pkts.find? (fun p => decide (p.pos = pos)) with
    | none => s
    | some p => s.finish q p stTASK 0

/-- STREAM UNBIND (R263): once the context is quiet; a faulted one at once. -/
def execStreamUnbind (p : PktRef) (s : State) : Out :=
  s.cmd fun s =>
  match s.streamTake p 2 with
  | (s, none) => fin s
  | (s, some (k, _)) =>
    let (cl, n) := streamCtx k
    if s.owner cl ≠ k.part then fin (s.badWord p.queue k stNO_PERM 0)
    else if (s.ctx cl n).st = .faulted ∨ s.ctxQuiet cl n then fin ((s.unbindCtx cl n).finish p.queue k stOK 0)
    else fin s

/-- DESCRIPTOR_RUN (R264 to R266): while the doorbell exceeds POS the context takes its next descriptor; when it is the last
of its burst the next burst is fetched. A fault of the ring read belongs to no run: it reports TAG 0 and PC 0, and no INT (log 69). -/
def execDescriptorRun (x : CtxId) (s : State) : Out :=
  s.cmd fun s =>
  let cl := x.cluster.val
  let n := x.ctx.val
  let c := s.ctx cl n
  if c.st ≠ .idle ∨ (s.objVal (cl / 8) c.dbell).toNat ≤ c.pos then fin s
  else
    match s.descriptor cl n c.pos with
    | (s, .error f) => fin ((s.setCtx cl n { s.ctx cl n with tag := 0, pc := 0, intr := false }).ctxFault cl n f)
    | (s, .ok d) =>
      let s := s.startRun cl n d
      if c.pos % 16 = 15 ∧ (s.ctx cl n).st = .running then fin (s.readBurst cl n (c.pos + 1)).1 else fin s

/-- RUN_COMPLETE (R264, R266, R279): every write, emit, contribution and signal of the run has been performed, detached
receivers having been served (R278). -/
def execRunComplete (x : CtxId) (s : State) : Out :=
  s.cmd fun s =>
  let cl := x.cluster.val
  let n := x.ctx.val
  let s := s.unicasts cl n
  let c := s.ctx cl n
  if c.st ≠ .running ∨ !c.ended ∨ !s.ctxDone cl n then fin s
  else if (s.stitcher cl).runs.any (fun m => decide (m.ctx = n) && !m.left && m.recvs.any (·.dropped)) then
    fin (s.ctxFault cl n ⟨9, 0, 0⟩)
  else
    let s := (s.setCtx cl n { c with st := .idle, pos := c.pos + 1 }).endRuns cl n
    let s := s.signal (cl / 8) c.head 0 (w64 (c.pos + 1))
    let s := s.ctxIrq cl n
    match c.pkt with
    | none => fin s
    | some (q, pos) =>
      match (s.queue q).pkts.find? (fun p => decide (p.pos = pos)) with
      | none => fin s
      | some p =>
        if field (p.word 2) 0 32 ≤ c.pos + 1 then
          fin ((s.setCtx cl n { s.ctx cl n with pkt := none }).finish q p stOK 0)
        else fin s

/-- Chroup NOP. -/
def execChroupNop (x : CtxId) (s : State) : Out :=
  s.cmd fun s =>
  s.chroup x 0x00 [] running (fun s cl n c _ => s.ctxNext cl n c)

/-- Chroup END: the run has no instruction left. -/
def execChEnd (x : CtxId) (s : State) : Out :=
  s.cmd fun s =>
  s.chroup x 0x01 [] running (fun s cl n c _ => s.setCtx cl n { c with ended := true })

/-- Chroup LOOP (R268). -/
def execChroupLoop (x : CtxId) (s : State) : Out :=
  s.cmd fun s =>
  s.chroup x 0x02 [(55, 3), (48, 7), (44, 1), (41, 3), (0, 32)] running (fun s cl n c w =>
    let lvl := field w 55 3
    let len := field w 48 7
    let count := if bitAt w 44 then field (c.reg (field w 41 3)) 0 32 else field w 0 32
    let stop := c.pc + len
    let inner := decide (c.depth = 0) || decide (stop ≤ (tget ({} : SLoop) c.loops (c.depth - 1)).stop)
    if 5 < lvl ∨ len = 0 ∨ 63 < len then s.ctxFault cl n ⟨1, 0, 0⟩
    else if lvl ≠ c.depth ∨ !inner ∨ c.progLen ≤ stop then s.ctxFault cl n ⟨2, 0, 0⟩
    else if count = 0 then s.setCtx cl n (c.after stop)
    else s.setCtx cl n { c with
      loops := tset {} c.loops lvl { idx := 0, count := count, start := c.pc + 1, stop := stop },
      depth := c.depth + 1, pc := c.pc + 1 })

/-- Chroup SETA (Table 12.3). -/
def execSeta (x : CtxId) (s : State) : Out :=
  s.cmd fun s =>
  s.chroup x 0x03 [(55, 3), (52, 3), (50, 2), (0, 48)] running (fun s cl n c w =>
    let d := field w 55 3
    let imm : Word := (BitVec.ofNat 48 (field w 0 48)).signExtend 64
    let a := c.reg (field w 52 3) + imm
    let put (s : State) (v : Word) : State :=
      let c := s.ctx cl n
      s.ctxNext cl n { c with a := tset 0 c.a d v }
    match field w 50 2 with
    | 0 => put s a
    | 1 => if a.toNat % 8 ≠ 0 then s.ctxFault cl n ⟨6, 0, a⟩
      else State.ctxThen cl n (s.ctxRead cl n a 8) (fun s b => put s (wordAt b 0))
    | 2 => put s imm
    | _ => s.ctxFault cl n ⟨1, 0, 0⟩)

/-- Chroup PAT (R269): base and wrap; strides and indirection are reset. -/
def execPat (x : CtxId) (s : State) : Out :=
  s.cmd fun s =>
  s.chroup x 0x04 [(56, 2), (53, 3), (0, 40)] running (fun s cl n c w =>
    if field w 0 40 % 32 ≠ 0 then s.ctxFault cl n ⟨1, 0, 0⟩
    else s.ctxNext cl n { c with pats := tset {} c.pats (field w 56 2) { base := field w 53 3, wrap := field w 0 40 } })

/-- Chroup STRD (R269). -/
def execStrd (x : CtxId) (s : State) : Out :=
  s.cmd fun s =>
  s.chroup x 0x05 [(56, 2), (53, 3), (0, 40)] running (fun s cl n c w =>
    if field w 0 40 % 32 ≠ 0 ∨ 5 < field w 53 3 then s.ctxFault cl n ⟨1, 0, 0⟩
    else s.ctxNext cl n { c with pats := tmod {} c.pats (field w 56 2) (fun t =>
      { t with stride := tset 0 t.stride (field w 53 3) (BitVec.ofNat 40 (field w 0 40)) }) })

/-- Chroup IND (R273). -/
def execInd (x : CtxId) (s : State) : Out :=
  s.cmd fun s =>
  s.chroup x 0x06 [(56, 2), (53, 3), (52, 1), (48, 4), (47, 1)] running (fun s cl n c w =>
    s.ctxNext cl n { c with pats := tmod {} c.pats (field w 56 2) (fun t =>
      { t with ind := bitAt w 47, ibase := field w 53 3, iw64 := bitAt w 52, ish := field w 48 4 }) })

/-- Chroup COPY (R270). -/
def execChroupCopy (x : CtxId) (s : State) : Out :=
  s.cmd fun s =>
  s.chroup x 0x10 [(56, 2), (54, 2), (46, 8)] running (fun s cl n _ w =>
    let sz := moveSize w
    State.ctxThen cl n (s.moveAddr cl n 0 (field w 56 2)) (fun s src =>
    State.ctxThen cl n (s.moveAddr cl n 1 (field w 54 2)) (fun s dst =>
    State.ctxTry cl n (s.ctxResolve cl n .load src sz) (fun s from_ =>
    State.ctxTry cl n (s.ctxResolve cl n .store dst sz) (fun s into =>
      match s.piecesBlocked cl n into with
      | (s, some f) => s.ctxFault cl n f
      | (s, none) =>
        State.ctxThen cl n (s.piecesRead cl n from_) (fun s b =>
          let s := (s.piecesWrite cl n into b).stcBytes cl sz
          s.ctxNext cl n (s.ctx cl n)))))))

/-- Chroup EMIT (R272): into the landing buffer of a core of the cluster. -/
def execEmit (x : CtxId) (s : State) : Out :=
  s.cmd fun s =>
  s.chroup x 0x11 [(56, 2), (54, 2), (46, 8), (43, 3)] running (fun s cl n _ w =>
    let sz := moveSize w
    let core := 8 * cl + field w 43 3
    State.ctxThen cl n (s.moveAddr cl n 0 (field w 56 2)) (fun s src =>
    State.ctxThen cl n (s.moveAddr cl n 1 (field w 54 2)) (fun s off =>
      if lbSize (s.core core) < off.toNat + sz then s.ctxFault cl n ⟨5, 1, off⟩
      else
        State.ctxThen cl n (s.ctxRead cl n src sz) (fun s b =>
          let s := (s.landPut core off.toNat b).stcBytes cl sz
          s.ctxNext cl n (s.ctx cl n)))))

/-- Chroup MCAST (R275 to R277): the first execution reads the group and takes a window, a later one delivers a buffer. -/
def execMcast (x : CtxId) (s : State) : Out :=
  s.cmd fun s =>
  s.chroup x 0x12 [(56, 2), (54, 2), (46, 8), (43, 3), (40, 3)]
    (fun c => running c || (decide (c.st = .held) && !s.waiting (.ctx x.cluster.val x.ctx.val))) (fun s cl n c w =>
    let k := s.stitcher cl
    match k.runs.find? (fun m => decide (m.ctx = n) && decide (m.pc = c.pc) && !m.left) with
    | some m => s.mcExec cl n w m
    | none =>
      if 4 ≤ k.runs.length then s.setCtx cl n { c with st := .held }
      else
        State.ctxThen cl n (s.readGroup cl n (c.reg (field w 43 3))) (fun s g =>
          let k := s.stitcher cl
          let m : McRun := { id := (k.runs.map (·.id)).foldl max 0 + 1, ctx := n, pc := c.pc, detach := g.1, recvs := g.2 }
          let s := s.setStitcher cl { k with runs := k.runs ++ [m] }
          (s.setCtx cl n { s.ctx cl n with st := .running }).mcExec cl n w m))

/-- MCAST_DETACH (R278): the detached receivers are served; after DETACH µs held, the receivers that lack the oldest buffer in
the window are detached. -/
def execMcastDetach (x : CtxId) (s : State) : Out :=
  s.cmd fun s =>
  let cl := x.cluster.val
  let n := x.ctx.val
  let s := s.unicasts cl n
  let c := s.ctx cl n
  match (s.stitcher cl).runs.find? (fun m => decide (m.ctx = n) && decide (m.pc = c.pc) && !m.left) with
  | none => fin s
  | some m =>
    match m.since with
    | none => fin s
    | some t =>
      if c.st ≠ .held ∨ s.now - t < 25 * m.detach then fin s
      else
        let old := m.next - 8
        let late (r : Recv) : Bool := !r.detached && !r.dropped && decide (r.got ≤ old)
        let seqNo := ((m.bufs.find? (fun b => decide (b.idx = old))).map (·.seqNo)).getD 0
        let out := m.recvs.zipIdx.filter (fun e => late e.1)
        let s := out.foldl (fun s e => s.mcLog 0x41 cl m e.2 e.1 seqNo []) s
        let k := s.stitcher cl
        let s := s.setStitcher cl { k with mcdetach := satAdd k.mcdetach out.length }
        let m : McRun := { m with since := none,
                                  recvs := m.recvs.map (fun r => if late r then { r with detached := true } else r) }
        fin ((s.setRun cl m).setCtx cl n { c with st := .running })

/-- Chroup RED (R271). -/
def execRed (x : CtxId) (s : State) : Out :=
  s.cmd fun s =>
  s.chroup x 0x13 [(56, 2), (54, 2), (46, 8), (38, 8), (34, 4), (31, 3)]
    (fun c => running c && c.red.isEmpty) (fun s cl n c w =>
    let sz := moveSize w
    State.ctxThen cl n (s.moveAddr cl n 0 (field w 56 2)) (fun s src =>
    State.ctxThen cl n (s.moveAddr cl n 1 (field w 54 2)) (fun s dst =>
    State.ctxTry cl n (s.ctxResolve cl n .load src sz) (fun s from_ =>
    State.ctxTry cl n (s.ctxResolve cl n .store dst sz) (fun s into =>
    State.ctxThen cl n (s.piecesRead cl n from_) (fun s b =>
      let step := BitVec.ofNat 32 (field (c.reg (field w 31 3)) 0 32)
      State.redGo cl n (redLines (s.ownerId cl) w step into b) (s.stcBytes cl sz)))))))

/-- A remote contribution that received RETRY is sent again, also while its context holds or has stopped; where no route
leads there any more it is counted as refused (R271). -/
def State.redResend (s : State) (cl n : Nat) : State :=
  let due (r : FReq) : Bool := decide (r.who = .ctx cl n) &&
    (match r.kind with | .red _ d => d | _ => false)
  match s.fab.reqs.find? (fun e => match e.2 with | some r => due r | none => false) with
  | some (t, some r) =>
    let again : FReq := { r with kind := (match r.kind with | .red k _ => .red k false | x => x), sent := s.now }
    if s.noRoute r.frame.dst then (s.dropReq t).redRefused cl else (s.addReq t again).send r.frame
  | _ => s

/-- RED_RETRY (R271): the contributions that received RETRY are sent again: a remote one that is due, and the local one in
hand of a running context. -/
def execRedRetry (x : CtxId) (s : State) : Out :=
  s.cmd fun s =>
  let cl := x.cluster.val
  let n := x.ctx.val
  let s := s.redResend cl n
  let c := s.ctx cl n
  if c.st = .running ∧ c.red ≠ [] then fin (State.redGo cl n c.red s) else fin s

/-- Chroup PREF (R282): the lines of the transfer that lie in this device's LPDDR6. -/
def execPref (x : CtxId) (s : State) : Out :=
  s.cmd fun s =>
  s.chroup x 0x14 [(56, 2), (46, 8)] running (fun s cl n _ w =>
    let sz := moveSize w
    State.ctxThen cl n (s.moveAddr cl n 0 (field w 56 2)) (fun s src =>
    State.ctxTry cl n (s.ctxResolve cl n .load src sz) (fun s l =>
      let s := l.foldl (fun s p => match p.loc with
        | .dram _ pa => (pieces (p.len / 128 + 2) pa p.len).foldl (fun s e => s.prefLine cl e.1) s
        | _ => s) s
      s.ctxNext cl n (s.ctx cl n))))

/-- The value of a Chroup WAIT or SIG: VALUE, or a register when VR = 1. -/
def SCtx.syncValue (x : SCtx) (w : Word) : Word := if bitAt w 51 then x.reg (field w 48 3) else w64 (field w 0 32)

/-- Chroup WAIT (R257, R270): the context is held until the wait is satisfied. -/
def execChroupWait (x : CtxId) (s : State) : Out :=
  s.cmd fun s =>
  s.chroup x 0x18 [(55, 3), (52, 3), (51, 1), (48, 3), (0, 32)] running (fun s cl n c w =>
    let name := c.reg (field w 55 3)
    let (d, o) := nameObj name
    if 2 < field w 52 3 then s.ctxFault cl n ⟨1, 0, 0⟩
    else if (s.nameFault (s.owner cl) true name).isSome then s.ctxFault cl n ⟨7, 0, 0⟩
    else (s.setCtx cl n { c with st := .held }).addWait d
      { who := .ctx cl n, obj := o, cond := field w 52 3, val := c.syncValue w })

/-- Chroup SIG (R257, R270): after everything that the context issued before it has been performed. -/
def execChroupSig (x : CtxId) (s : State) : Out :=
  s.cmd fun s =>
  s.chroup x 0x19 [(55, 3), (52, 3), (51, 1), (48, 3), (0, 32)] running (fun s cl n c w =>
    let name := c.reg (field w 55 3)
    let (d, o) := nameObj name
    let op := field w 52 3
    if 2 < op then s.ctxFault cl n ⟨1, 0, 0⟩
    else if (s.nameFault (s.owner cl) false name).isSome then s.ctxFault cl n ⟨7, 0, 0⟩
    else if !s.ctxDone cl n then s
    else
      let s := s.ctxNext cl n c
      if s.pairRemote name then
        let dev := field name 48 14
        if s.noRoute dev then s.rnak (cl / 8) (s.owner cl) dev 6 0
        else s.signalRemote (.ctx cl n) (s.owner cl) dev op d o (c.syncValue w)
      else s.signal d o op (c.syncValue w))

end Sys2Proof.Machine
end

