-- ==== Sys2Proof/Machine/Partitions.lean ====
section
/-! DEFINITION. Partitions and mappings (R23 to R29, R222, R298, R319, R320): PART_CREATE, PART_DESTROY, MAP, UNMAP. -/

namespace Sys2Proof.Machine

/-- Word at byte offset `o` of a parameter block. -/
def blkWord (b : List Byte) (o : Nat) : Word := w64 (ofBytes ((b.drop o).take 8))

/-- Evict a way of a die in every slice before its use changes (R222). -/
def State.clearWay (s : State) (d w : Nat) : State :=
  let s := (s.die d).slices.foldl (fun s e =>
    State.settleSlice d e.1 (fun _ => false) (fun v => decide (v = w)) fillFuel s) s
  (s.die d).slices.foldl (fun s e => e.2.ways.foldl (fun s x =>
    match x.2 with
    | some l => if x.1 % 16 = w then s.evict (128 * l.line) w else s
    | none => s) s) s

/-- Change a way's use (R222). -/
def State.setWay (s : State) (d w : Nat) (u : WayUse) : State :=
  let s := s.clearWay d w
  let k := s.die d
  s.setDie d { k with ways := tset {} k.ways w u }

/-- Give a partition `n` ways of a use on a die. Which normal ways is left open: the choice is free (log 5). -/
def State.grantWays (s : State) (d part use : Nat) : Nat → State
  | 0 => s
  | n + 1 =>
    let l := (List.range 16).filter (fun w => decide ((s.wayUse d w).use = 0))
    let (v, s) := s.free
    (s.setWay d (l.getD (v.toNat % max 1 l.length) 0) ⟨use, part⟩).grantWays d part use n

/-- Ways of a use that a die has in all. -/
def State.waysUsed (s : State) (d use : Nat) : Nat := ((List.range 16).filter (fun w => decide ((s.wayUse d w).use = use))).length

/-- The PART_CREATE block (Table 14.8). -/
structure PartBlk where
  bytes : List Byte
  deriving DecidableEq, Repr

/-- TARGET. -/
def PartBlk.target (b : PartBlk) : Nat := field (blkWord b.bytes 0) 0 5
/-- Does the block grant a cluster? -/
def PartBlk.cluster (b : PartBlk) (c : Nat) : Bool := bitAt (blkWord b.bytes 0) (8 + c)
/-- STAGES. -/
def PartBlk.stages (b : PartBlk) : Nat := field (blkWord b.bytes 0) 24 4
/-- LOCKd. -/
def PartBlk.lock (b : PartBlk) (d : Nat) : Nat := field (blkWord b.bytes 0) (32 + 8 * d) 4
/-- REDd. -/
def PartBlk.red (b : PartBlk) (d : Nat) : Nat := field (blkWord b.bytes 0) (36 + 8 * d) 3
/-- NQ. -/
def PartBlk.nq (b : PartBlk) : Nat := field (blkWord b.bytes 0x30) 0 7
/-- Bit `i` of the bit string that begins at byte offset `o`. -/
def PartBlk.bit (b : PartBlk) (o i : Nat) : Bool := bitAt (b.bytes.getD (o + i / 8) 0) (i % 8)
/-- The keys below `n` that a bit string grants. -/
def PartBlk.keys (b : PartBlk) (o n : Nat) : List Nat := (List.range n).filter (b.bit o)
/-- Word `k` of queue entry `i`. -/
def PartBlk.entry (b : PartBlk) (i k : Nat) : Word := blkWord b.bytes (0x9C0 + 32 * i + 8 * k)

/-- The granules, host granules, sync blocks and census blocks that a block grants. -/
def PartBlk.mem (b : PartBlk) : List Nat := b.keys 0x40 3072
def PartBlk.host (b : PartBlk) : List Nat := b.keys 0x1C0 16384
def PartBlk.sync (b : PartBlk) : List Nat := b.keys 0x10 128
def PartBlk.census (b : PartBlk) : List Nat := b.keys 0x20 128

/-- The queue that entry `i` names. -/
def PartBlk.queue (b : PartBlk) (i : Nat) : QId :=
  let w := b.entry i 0
  ⟨if bitAt w 6 then 1 else 0, partId b.target, ⟨field w 0 6 % 64, Nat.mod_lt _ (by omega)⟩⟩

/-- The offset of the first invalid field of the fixed part (R9, R319, R23). -/
def State.partHeadBad (s : State) (b : PartBlk) : Option Nat :=
  let w := blkWord b.bytes 0
  let t := b.target
  if w &&& 0xFFFF8080F00000E0#64 ≠ 0 then some 0
  else if 16 < t ∨ (t ≠ 0 ∧ s.exists_ t) ∨ (t ≠ 0 ∧ field w 8 16 = 0) then some 0
  else if 8 < b.stages ∨ 8 < b.lock 0 ∨ 8 < b.lock 1 ∨ 4 < b.red 0 ∨ 4 < b.red 1 then some 0
  else if blkWord b.bytes 8 &&& ~~~(0xFFFFFFFF#64) ≠ 0 then some 8
  else if blkWord b.bytes 0x30 &&& ~~~(0x7F#64) ≠ 0 ∨ 64 < b.nq then some 0x30
  else if blkWord b.bytes 0x38 ≠ 0 then some 0x38
  else if t = 0 then
    if field w 5 59 ≠ 0 then some 0
    else ((List.range 5).map (fun i => 8 * (i + 1)) ++ (List.range 304).map (fun i => 0x40 + 8 * i)).find?
      (fun o => decide (blkWord b.bytes o ≠ 0))
  else none

/-- What is wrong with the place of the packet ring (word 1) or the reply ring (word 2) of entry `i` (R26, R425). -/
def State.ringBad (s : State) (b : PartBlk) (i k : Nat) : Option Byte :=
  let w := b.entry i 0
  s.rangeBad b.target (b.entry i k) (if k = 1 then 64 * 2 ^ field w 8 5 else 32 * 2 ^ field w 16 5) true true

/-- The offset of the first invalid field of the queue entries (R302, R319, R425, Table 14.1). -/
def State.partQueueBad (s : State) (b : PartBlk) : Option Nat :=
  let t := partId b.target
  (List.range b.nq).findSome? (fun i =>
    let w := b.entry i 0
    let o := 0x9C0 + 32 * i
    let q := (b.queue i).q
    let log (lo : Nat) : Bool := decide (field w lo 5 < 4) || decide (16 < field w lo 5)
    let sv (w : Word) : Bool := bitAt w 52
    if w &&& 0xFF00000000E0E080#64 ≠ 0 ∨ log 8 ∨ log 16 ∨ (s.findQueue t q).isSome ∨
        (List.range i).any (fun j => decide ((b.queue j).q = q)) ∨
        (sv w ∧ (b.stages ≤ field w 49 3 ∨
          (List.range i).any (fun j => sv (b.entry j 0) && decide (field (b.entry j 0) 49 3 = field w 49 3)))) then some o
    else if (b.entry i 1).toNat % 4096 ≠ 0 ∨ s.ringBad b i 1 = some stBAD_PARAM then some (o + 8)
    else if (b.entry i 2).toNat % 4096 ≠ 0 ∨ s.ringBad b i 2 = some stBAD_PARAM then some (o + 16)
    else if b.entry i 3 ≠ 0 then some (o + 24)
    else none)

/-- The owners after the grants of a block. -/
def State.partGrant (s : State) (b : PartBlk) : State :=
  let t := b.target
  let give (m : Tbl Nat) (l : List Nat) : Tbl Nat := l.foldl (fun m g => tset 0 m g t) m
  let s := ((List.range 16).filter b.cluster).foldl (fun s c => s.setCluster c { s.cluster c with owner := t }) s
  { s with own := { s.own with gran := give s.own.gran b.mem, hgran := give s.own.hgran b.host,
                               sync := give s.own.sync b.sync, census := give s.own.census b.census } }

/-- The first ring or doorbell object outside the target's resources: the status and the offset (R319). `g` is the state
with the grants made. -/
def State.partRingBad (g : State) (b : PartBlk) : Option (Byte × Nat) :=
  (List.range b.nq).findSome? (fun i =>
    let w := b.entry i 0
    let o := 0x9C0 + 32 * i
    let d := field w 6 1
    if bitAt w 24 ∧ (g.syncOwner d (field w 25 12) ≠ b.target ∨ g.syncOwner d (field w 37 12) ≠ b.target) then
      some (stNO_PERM, o)
    else
      match g.ringBad b i 1, g.ringBad b i 2 with
      | some st, _ => some (st, o + 8)
      | none, some st => some (st, o + 16)
      | none, none => none)

/-- The host-window granule that holds the rings of the boot queue (R386). -/
def State.bootGranule (s : State) (k : Nat) : Bool :=
  let u := s.queue ⟨0, 0, 0⟩
  u.v && decide (u.qbase.toNat = 0x100000000000 + 2 ^ 30 * k)

/-- The offset of the 64-bit word of the first bit of a bitmap at `o` whose resource is not to be had (R316). -/
def firstTaken (o : Nat) (l : List Nat) (taken : Nat → Bool) : Option Nat := (l.find? taken).map (fun k => o + 8 * (k / 64))

/-- The offset of the first field that asks for what partition 0 does not hold or a die has not free (R27, R222). -/
def State.partShort (s : State) (b : PartBlk) : Option Nat :=
  if b.target = 0 then none
  else if (List.range 16).any (fun c => b.cluster c && (decide (s.owner c ≠ 0) || s.clOut c || (s.cluster c).test)) then some 0
  else if [0, 1].any (fun d => decide (8 < s.waysUsed d 1 + b.lock d) || decide (4 < s.waysUsed d 2 + b.red d)) then some 0
  else
    firstTaken 0x10 b.sync (fun k => decide (tget 0 s.own.sync k ≠ 0)) <|>
    firstTaken 0x20 b.census (fun k => decide (tget 0 s.own.census k ≠ 0)) <|>
    firstTaken 0x40 b.mem (fun k => decide (tget 0 s.own.gran k ≠ 0)) <|>
    firstTaken 0x1C0 b.host (fun k => decide (tget 0 s.own.hgran k ≠ 0) || s.bootGranule k)

/-- HRN_QCFG of an entry. -/
def entryCfg (w : Word) : Word :=
  place (field w 25 12) 40 12 ||| place (field w 37 12) 28 12 ||| place (field w 24 1) 16 1 ||| place 1 15 1 |||
    place (field w 16 5) 8 5 ||| place (field w 8 5) 0 5

/-- Create the queues of a block and bind its stages (R298, R303). -/
def State.partQueues (s : State) (b : PartBlk) : State :=
  (List.range b.nq).foldl (fun s i =>
    let w := b.entry i 0
    let q := b.queue i
    let s := s.setQueue q { cfg := entryCfg w, qbase := b.entry i 1, qrbase := b.entry i 2 }
    if bitAt w 52 then
      let v : Word := place 1 15 1 ||| place (field w 53 3) 12 3 ||| place q.q.val 0 6
      { s with own := { s.own with stages := tset 0 s.own.stages (8 * b.target + field w 49 3) v } }
    else s) s

/-- Make a partition (R23, R24, R222, R319). -/
def State.partMake (s : State) (b : PartBlk) : State :=
  let t := b.target
  let s := s.partGrant b
  let s := if t = 0 then s
    else
      let s := { s with own := { s.own with parts := tset false s.own.parts t true } }
      [0, 1].foldl (fun s d =>
        let s := (s.grantWays d t 1 (b.lock d)).grantWays d t 2 (b.red d)
        let k := s.die d
        s.setDie d { k with tny := { k.tny with rate := tset 0 k.tny.rate t (blkWord b.bytes 8 &&& 0xFFFFFFFF#64) } }) s
  s.partQueues b

/-- PART_CREATE with its whole block read (R319): nothing is granted when a check fails. -/
def State.partCreateWith (s : State) (q : QId) (p : Pkt) (b : PartBlk) : State :=
  match s.partHeadBad b, s.partQueueBad b with
  | some o, _ => s.finish q p stBAD_PARAM (locBlk o)
  | none, some o => s.finish q p stBAD_PARAM (locBlk o)
  | none, none =>
    match (s.partGrant b).partRingBad b, s.partShort b with
    | some (st, o), _ => s.finish q p st (locBlk o)
    | none, some o => s.finish q p stNO_RES (locBlk o)
    | none, none => (s.partMake b).finish q p stOK 0

/-- Read a parameter block of `n` bytes at W0, then go on with it (R316, R400). -/
def State.withBlock (s : State) (q : QId) (p : Pkt) (a n : Nat) (f : State → List Byte → State) : State :=
  match s.blkRead q p.pos p.part a n with
  | (s, .poison x) => s.finishMute q p stUNCORR (w64 x)
  | (s, .fail x) => s.finish q p stMEM (w64 x)
  | (s, .wait) => s
  | (s, .bytes b) => f s b

/-- PART_CREATE (R27, R319). -/
def State.partCreate (s : State) (q : QId) (p : Pkt) : State :=
  let a := p.word 0
  match s.rangeBad p.part a 0x9C0 true true with
  | some st => s.badWord q p st 0
  | none =>
    s.withBlock q p a.toNat 0x9C0 (fun s b =>
      let h : PartBlk := { bytes := b }
      if 64 < h.nq then s.finish q p stBAD_PARAM (locBlk 0x30)
      else
        match s.rangeBad p.part a (0x9C0 + 32 * h.nq) true true with
        | some st => s.badWord q p st 0
        | none =>
          s.withBlock q p (a.toNat + 0x9C0) (32 * h.nq) (fun s e => s.partCreateWith q p { bytes := b ++ e }))

/-- PART_CREATE. -/
def execPartCreate (p : PktRef) (s : State) : Out :=
  s.cmd fun s =>
  s.pktRow p 0x20 (fun s q k fresh => s.inTurn [0x20, 0x21] q k fresh (fun s k => s.partCreate q k))

/-- The packets of a partition that PART_DESTROY completes perform no signal pair (R28 step 1): those of its own queues, and
the LAUNCH, STREAM RUN, OFFLOAD and PREFETCH packets of partition 0 queues that have begun for it. -/
def State.muteSigs (s : State) (t : Nat) : State :=
  s.queues.foldl (fun s q =>
    let u := s.queue q
    s.setQueue q { u with pkts := u.pkts.map (fun p =>
      if q.part.val = t ∨ (p.part = t ∧ p.st = .begun ∧
          ([0x01, 0x14, 0x15].contains p.op || (decide (p.op = 0x02) && decide (field (p.word 0) 33 2 = 1)))) then
        { p with h1 := p.h1 &&& 0xFFFF }
      else p) }) s

/-- Complete the packets of a queue that `which` picks with TASK_FAULT and no signals. -/
def State.failPkts (s : State) (q : QId) (which : Pkt → Bool) : State :=
  ((s.queue q).pkts.filter which).foldl (fun s p => s.finishMute q p stTASK 0) s

/-- The published packets of a queue that it has not read complete with TASK_FAULT and no signals (R28 step 1); one whose slot
cannot be read has no header (log 69). Tells whether a host read is still awaited; `fuel` bounds the packets. -/
def State.failUnread (s : State) (q : QId) : Nat → State × Bool
  | 0 => (s, false)
  | fuel + 1 =>
    let n := (s.queue q).nextPos
    if s.bell q ≤ n then (s, false)
    else
      let done (s : State) (b : List Byte) : State :=
        let p := pktOf n b
        let s := s.forget (.ring q)
        (s.setQueue q { s.queue q with nextPos := n + 1 }).finishMute q { p with h1 := 0 } stTASK 0
      match s.slotRead q with
      | (s, .wait, _) => (s, true)
      | (s, .bytes b, _) => (done s b).failUnread q fuel
      | (s, .poison x, b) => (done (s.consume 7 (qKey q) q.part.val q.die.val x) b).failUnread q fuel
      | (s, .fail _, _) => (done s (toBytes 8 (n % 65536 * 65536 + q.part.val * 2 ^ 40))).failUnread q fuel

/-- Write the replies of a queue that its ring has room for; `fuel` bounds them. -/
def State.drainReplies (s : State) (q : QId) : Nat → State
  | 0 => s
  | fuel + 1 => match s.writeReply q with
    | none => s
    | some s => s.drainReplies q fuel

/-- Queues of a partition. -/
def State.queuesOf (s : State) (t : Nat) : List QId := s.queues.filter (fun q => decide (q.part.val = t) && (s.queue q).v)

/-- Is an agent one of a partition's: its cores, contexts, packets or queues? -/
def State.agentOf (s : State) (t : Nat) : Agent → Bool
  | .core c => decide (s.owner (c / 8) = t)
  | .ctx cl _ => decide (s.owner cl = t)
  | .pkt q _ => decide (q.part.val = t)
  | .ring q => decide (q.part.val = t)
  | .sync p => decide (p = t)
  | .eth _ p => decide (p = t)
  | .tny _ => false

/-- Requests and answers of a partition's agents are forgotten. -/
def State.dropAgents (s : State) (t : Nat) : State :=
  let mine : Agent → Bool := s.agentOf t
  let live : Option FReq → Bool := fun r => match r with | some r => !mine r.who | none => true
  let s : State := { s with
    fab := { s.fab with reqs := s.fab.reqs.filter (fun e => live e.2) },
    answers := s.answers.filter (fun a => !mine a.who) }
  [0, 1, 2, 3].foldl (fun s n =>
    let h := s.hport n
    s.setHport n { h with reqs := h.reqs.filter (fun e => match e.2 with | some r => !mine r.who | none => true) }) s

/-- Replace the Ethernet pairs of a partition on both ports. -/
def State.setPairs (s : State) (t : Nat) (e : EthPair) : State :=
  { s with fab := { s.fab with eth := [0, 1].foldl (fun m n => tmod ({} : EthPort) m n (fun p =>
      { p with pairs := tset {} p.pairs t e })) s.fab.eth } }

/-- Note which partition PART_DESTROY takes apart. -/
def State.setDying (s : State) (t : Option Nat) : State := { s with own := { s.own with dying := t } }

/-- Step 1 of R28: the queues stop; packets not yet started complete with TASK_FAULT; Ethernet pairs are disabled; what arrives
for the partition from now on is refused. Tells whether a packet ring in a host window has still to be read. -/
def State.destroy1 (s : State) (t : Nat) : State × Bool :=
  let s := s.muteSigs t
  let (s, waits) := (s.queuesOf t).foldl (fun (a : State × Bool) q =>
    let u := a.1.queue q
    let s := a.1.setQueue q { u with killed := true, stop := true, region := none }
    let (s, w) := (s.failPkts q (fun p => decide (p.st = .waiting))).failUnread q (2 ^ field u.cfg 0 5)
    (s, a.2 || w)) (s, false)
  ((s.setPairs t { off := true }).setDying (some t), waits)

/-- Step 2 of R28: the cores halt; running tasks end with TASK_FAULT, on each core once R256 lets the task end there. Tells
whether one has still to wait. -/
def State.destroy2 (s : State) (t : Nat) : State × Bool :=
  let mine := (List.range 128).filter (fun c => decide (s.owner (c / 8) = t))
  let s : State := { s with tasks := s.tasks.map (fun x => if x.part = t then { x with stopped := true } else x) }
  let s := mine.foldl (fun s c =>
    let s := if (s.core c).task.isNone then s else s.stopCore c
    let s := if (s.core c).task.isSome && s.mayEnd c then s.endCore c stTASK else s
    let s := s.dropWaits (fun w => match w with | .core x => decide (x = c) | .arm x _ => decide (x = c) | _ => false)
    let k := s.core c
    match k.run with
    | .wedged _ | .halted | .ending _ => s
    | _ => s.setCore c { k with run := .idle }) s
  (s, mine.any (fun c => (s.core c).task.isSome))

/-- Is a reply of a partition's queues in line behind signals of its packet that are still to be applied (R309)? -/
def State.repliesHeld (s : State) (t : Nat) : Bool :=
  (s.queuesOf t).any (fun q => (s.queue q).waitRep.any (fun r => s.sigsOut q r.pos))

/-- Step 3 of R28: contexts and transfers are aborted, groups end with RESULT 3. The rule names no other packet that has
begun (a COPY, a SYNC_WAIT): each completes here with TASK_FAULT too (DESIGN CHOICE, log 69). -/
def State.destroy3 (s : State) (t : Nat) : State :=
  let s := ((List.range 16).filter (fun c => decide (s.owner c = t))).foldl (fun s cl =>
    (List.range 32).foldl (fun s n => s.ctxAbort cl n) s) s
  let s := [0, 1].foldl (fun s d =>
    let s := ((s.die d).tny.moves.filter (fun m => decide (m.part = t))).foldl (fun s m => s.moveEnd d m stTASK 0) s
    ((s.die d).groups.filter (fun g => decide (g.part = t))).foldl (fun s g => s.endGroup d g 3) s) s
  (s.queuesOf t).foldl (fun s q => (s.failPkts q (fun _ => true)).drainReplies q 1100) s

/-- Step 4 of R28: the state of the cores that is set to device reset. -/
def wipeCore (k : Core) : Core :=
  let k := invalRo (invalL1 k)
  { k with tile := { k.tile with rows := [], side := [], cfg := [], bad := [], queue := [], latch := [] }, acc := [],
           vec := { k.vec with v := [], m := [] },
           mem := { k.mem with landing := [], lbBad := [], loads := [] } }

/-- Step 5 of R28 on one granule: L2 is invalidated, memory zeroed; soft retirements become hard (Table 15.2). -/
def State.wipeGranule (s : State) (g : Nat) : State :=
  let base := g * 2 ^ 30
  let s := s.invalRange base (2 ^ 30)
  let m := s.mem
  let s := { s with mem := { m with cells := tclear m.cells base (2 ^ 30), poison := tclear m.poison (g * 2 ^ 25) (2 ^ 25),
                                    errs := tclear m.errs (g * 2 ^ 25) (2 ^ 25) } }
  let u := homeDie base
  let b := s.injBlk u
  let s := if b.kept.isEmpty then s else s.setInj u { b with kept := b.kept.filter (fun x => decide (x / 2 ^ 25 ≠ g)) }
  ((tget [] s.mem.retired u).filter (fun r => decide (r.frame / 2 ^ 18 = g) && !r.hard)).foldl
    (fun s r => s.retire (4096 * r.frame) true) s

/-- Step 5 of R28. -/
def State.destroy5 (s : State) (t : Nat) : State :=
  let s := [0, 1].foldl (fun s d => ((s.die d).locks.filter (fun r => decide (r.part = t))).foldl
    (fun s r => s.freeLock t r.base r.len true) s) s
  let s := ((List.range 3072).filter (fun g => decide (tget 0 s.own.gran g = t))).foldl (fun s g => s.wipeGranule g) s
  [0, 1].foldl (fun s d => ((List.range 16).filter (fun w => decide ((s.wayUse d w).use ≠ 0) &&
    decide ((s.wayUse d w).part = t))).foldl (fun s w => s.setWay d w {}) s) s

/-- Clear the sync objects and census slots that a partition holds on a die. -/
def State.wipeBlocks (s : State) (t d : Nat) : State :=
  let mine (m : Tbl Nat) (b : Nat) : Bool := decide (tget 0 m (64 * d + b) = t)
  let u := (s.die d).sync
  let obj (e : Nat) : Bool := mine s.own.sync (e / 64)
  let gone := u.waits.filter (fun w => obj w.obj)
  let s := s.setSync d { u with vals := u.vals.filter (fun e => !obj e.1), arr := u.arr.filter (fun e => !obj e.1),
                                waits := u.waits.filter (fun w => !gone.contains w) }
  let k := s.die d
  s.setDie d { k with census := { slots := k.census.slots.filter (fun e => !mine s.own.census (e.1 / 16)),
                                  unenr := tset 0 k.census.unenr t 0 },
                      tny := { k.tny with rate := tset 0 k.tny.rate t 0 } }

/-- Steps 6 and 7 of R28: blocks, stages, translations and queues go; every resource returns to partition 0. -/
def State.destroy6 (s : State) (t : Nat) : State :=
  let s := [0, 1].foldl (fun s d => s.wipeBlocks t d) s
  let s := [0, 1, 2, 3].foldl (fun s n =>
    let h := s.hport n
    s.setHport n { h with wxlat := h.wxlat.foldl (fun m e =>
      if tget 0 s.own.hgran (4096 * n + e.1) = t then tset 0 m e.1 (e.2 &&& ~~~1#64) else m) h.wxlat }) s
  let s := { s with aper := tmod 0 s.aper t (fun w => w &&& ~~~1#64) }.setPairs t {}
  let s := (s.queuesOf t).foldl (fun s q => s.setQueue q {}) s
  let s := ((List.range 16).filter (fun c => decide (s.owner c = t))).foldl (fun s c =>
    s.setCluster c { s.cluster c with owner := 0 }) s
  let out (m : Tbl Nat) : Tbl Nat := m.filter (fun e => !decide (e.2 = t))
  { s with own := { gran := out s.own.gran, hgran := out s.own.hgran, sync := out s.own.sync, census := out s.own.census,
                    parts := tset false s.own.parts t false, stages := tclear s.own.stages (8 * t) 8, dying := none } }

/-- PART_DESTROY (R28). It waits for a packet ring in a host window that it has still to read, for a task that cannot end yet
(R256), and for signals behind which replies of the partition stand in line, that these can be written (DESIGN CHOICE, log 69);
issued again, it goes on. -/
def State.partDestroy (s : State) (q : QId) (p : Pkt) : State :=
  let t := field (p.word 0) 0 5
  if t = 0 ∨ 16 < t ∨ !s.exists_ t then s.badWord q p stBAD_PARAM 0
  else
    let (s, waits) := s.destroy1 t
    let (s, busy) := s.destroy2 t
    if waits || busy || s.repliesHeld t then s
    else
    let s := (s.destroy3 t).dropAgents t
    let s := ((List.range 128).filter (fun c => decide (s.owner (c / 8) = t))).foldl (fun s c =>
      s.setCore c (wipeCore (s.core c))) s
    ((s.destroy5 t).destroy6 t).finish q p stOK 0

/-- PART_DESTROY. -/
def execPartDestroy (p : PktRef) (s : State) : Out :=
  s.cmd fun s =>
  s.pktRow p 0x21 (fun s q k fresh => s.inTurn [0x20, 0x21] q k fresh (fun s k => s.partDestroy q k))

/-- FENCE.M and TLB.INV of an ASID on one core of every cluster of a partition (R320, R80); which core is left open. -/
def State.mapInv (s : State) (part asid : Nat) : State :=
  ((List.range 16).filter (fun c => decide (s.owner c = part))).foldl (fun s cl =>
    let (v, s) := s.free
    let c := 8 * cl + v.toNat % 8
    (s.drainWcb c).tlbDrop c (fun e => decide (e.asid = asid))) s

/-- MAP and UNMAP (R320): `size` is the bytes of a list entry; an UNMAP entry has no value and writes zero. -/
def State.mapPkt (s : State) (q : QId) (p : Pkt) (size : Nat) : State :=
  let a := p.word 0
  let n := field (p.word 1) 32 13
  let asid := field (p.word 1) 0 16
  if n = 0 then s.finish q p stOK 0
  else if 4096 < n then s.badWord q p stBAD_LENGTH 1
  else if asid / 2048 ≠ p.part then s.badWord q p stNO_PERM 1
  else
    match s.rangeBad p.part a (size * n) true true with
    | some st => s.badWord q p st 0
    | none =>
      s.withBlock q p a.toNat (size * n) (fun s b =>
        let l := (List.range n).map (fun i => (size * i, blkWord b (size * i),
          if size = 16 then blkWord b (size * i + 8) else 0))
        match l.findSome? (fun e => if e.2.1.toNat % 8 ≠ 0 then some (stBAD_PARAM, e.1)
            else (s.rangeBad p.part e.2.1 8 true true).map (fun st => (st, e.1))) with
        | some (st, o) => s.finish q p st (locBlk o)
        | none =>
          let (s, bad) := l.foldl (fun (r : State × Option Nat) e =>
            let (s, f) := r.1.memWr q p.pos p.part e.2.1.toNat (toBytes 8 e.2.2.toNat)
            (s, r.2.merge min f)) (s, none)
          let s := s.mapInv p.part asid
          match bad with
          | some a => s.finish q p stMEM (w64 a)
          | none => s.finish q p stOK 0)

/-- MAP. -/
def execMap (p : PktRef) (s : State) : Out :=
  s.cmd fun s =>
  s.pktRow p 0x22 (fun s q k _ => s.mapPkt q k 16)

/-- UNMAP. -/
def execUnmap (p : PktRef) (s : State) : Out :=
  s.cmd fun s =>
  s.pktRow p 0x23 (fun s q k _ => s.mapPkt q k 8)

end Sys2Proof.Machine
end

