-- ==== Sys2Proof/Machine/Steps.lean ====
section
/-! DEFINITION. STEP_BEGIN and STEP_END (R285 to R289, R34). -/

namespace Sys2Proof.Machine

/-- STEP_SKEW (R288): no signals, the queue stops, the record. -/
def State.skew (s : State) (q : QId) (p : Pkt) : State :=
  let u := s.queue q
  let s := s.setQueue q { u with stop := true, cause := 1 }
  let s := s.log 0x37 q.part.val q.die.val false
    [w64 (q.part.val * 64 + q.q.val), w64 p.op, p.word 0, u.stepCtr]
  s.finishMute q p stSKEW u.stepCtr

/-- The step opens (R287): an object that already holds its number poisons it (R203). -/
def State.openStep (s : State) (q : QId) (p : Pkt) (list : List Word) : State :=
  let w := p.word 2
  let n := p.word 0
  let u := s.queue q
  let u := { u with stepCtr := n, stepOpen := true, stepPart := p.part, pobj := BitVec.ofNat 13 (field w 0 13), plen := field w 16 7,
                    plist := list, poisoned := false, replayed := false, undeliv := 0 }
  let s := s.setQueue q u
  let (d, o) := u.poisonObj
  let y := (s.die d).sync
  let s := if tget 0 y.vals o = n then
      let cause : PCause := match tget none y.arr o with
        | some (dev, sync, v) => if v = n then .arrival dev sync else .locl
        | none => .locl
      runJobs jobFuel [.poison q cause] s
    else s
  s.finish q p stOK 0

/-- STEP_BEGIN (R286, R287). -/
def State.stepBegin (s : State) (q : QId) (p : Pkt) : State :=
  let u := s.queue q
  let n := p.word 0
  let a := p.word 1
  let w := p.word 2
  let len := field w 16 7
  if u.stepOpen then s.finish q p stBAD_PARAM locHdr
  else if n = 0 then s.badWord q p stBAD_PARAM 0
  else if 64 < len then s.badWord q p stBAD_PARAM 2
  else if a.toNat % 8 ≠ 0 then s.badWord q p stBAD_PARAM 1
  else if s.syncOwner (field w 12 1) (field w 0 12) ≠ p.part then s.badWord q p stBAD_PARAM 2
  else if s.rangeBad p.part a (8 * len) true true = some stBAD_PARAM then s.badWord q p stBAD_PARAM 1
  else if s.rangeBad p.part a (8 * len) true false ≠ none then s.badWord q p stNO_PERM 1
  else if bitAt w 24 ∧ u.stepCtr ≠ 0 then s.badWord q p stBAD_PARAM 2
  else if !bitAt w 24 ∧ n.toNat ≠ u.stepCtr.toNat + 1 then s.skew q p
  else
    match s.blkRead q p.pos p.part a.toNat (8 * len) with
    | (s, .bytes b) => s.openStep q p ((chunks 8 (len + 1) b).map (fun e => w64 (ofBytes e)))
    | (s, .poison x) => s.finishMute q p stUNCORR (w64 x)
    | (s, .fail x) => s.finishMute q p stMEM (w64 x)
    | (s, .wait) => s

/-- STEP_BEGIN. -/
def execStepBegin (p : PktRef) (s : State) : Out :=
  s.cmd fun s =>
  s.pktRow p 0x10 (fun s q k _ => s.stepBegin q k)

/-- STEP_END (R289): it has begun only once the earlier packets have completed and every poisoning SIGNAL is acknowledged
(`State.stepTurn`), and closes the queue's census slots and the step; its status tells of that step (R34). -/
def State.stepEnd (s : State) (q : QId) (p : Pkt) : State :=
  let u := s.queue q
  let n := p.word 0
  if !u.stepOpen then s.finish q p stBAD_PARAM locHdr
  else if n ≠ u.stepCtr then s.skew q p
  else
    let s := (s.allEnrolled q).foldl (fun s e => s.censusClose e.1 e.2 n) s
    let u := s.queue q
    let s := s.setQueue q { u with stepOpen := false, poisoned := false }
    if u.poisoned then s.finish q p stPOISONED (w64 u.undeliv)
    else s.finish q p (if u.replayed then stREPLAYED else stOK) 0

/-- STEP_END. -/
def execStepEnd (p : PktRef) (s : State) : Out :=
  s.cmd fun s =>
  s.pktRow p 0x11 (fun s q k _ => s.stepEnd q k)

end Sys2Proof.Machine
end

