-- ==== Sys2Proof/Machine/Lands.lean ====
section
/-! DEFINITION. The land grid (R415, Tables 20.1 and 20.2), the levels of the single-ended lands that the model holds, and how
the endpoint functions identify the device (R424). -/

namespace Sys2Proof.Machine

/-- The single-ended signals of Table 20.2. -/
inductive Signal where
  | perst (port : Nat)
  | clkreq (port : Nat)
  | wake (port : Nat)
  | fcfg (bit : Nat)
  | hmode (port : Nat)
  | dbgen
  | porst
  | pwrgd
  | thermtrip
  | alert
  | ready
  | tck
  | tms
  | tdi
  | tdo
  | trst
  | reserved
  deriving DecidableEq, Repr

/-- What a land carries: ground, a leg of a differential pair (`tx` its direction, `pos` its polarity), or a single-ended signal. -/
inductive Land where
  | vss
  | lumette (port lane : Nat) (tx pos : Bool)
  | ethernet (port lane : Nat) (tx pos : Bool)
  | host (port lane : Nat) (tx pos : Bool)
  | refclk (port : Nat) (pos : Bool)
  | unused (pos : Bool)
  | single (s : Signal)
  deriving DecidableEq, Repr

/-- The signal of a single slot (Table 20.2). -/
def singleSlot (n : Nat) : Signal :=
  if n < 12 then
    match n % 3 with
    | 0 => .perst (n / 3)
    | 1 => .clkreq (n / 3)
    | _ => .wake (n / 3)
  else if n < 42 then .fcfg (n - 12)
  else if n < 46 then .hmode (n - 42)
  else [Signal.dbgen, .porst, .pwrgd, .thermtrip, .alert, .ready, .tck, .tms, .tdi, .tdo, .trst].getD (n - 46) .reserved

/-- Pair `j` of the west band (`east` = false) or of the east band (Table 20.1). -/
def bandPair (east : Bool) (j : Nat) (pos : Bool) : Land :=
  let side := if east then 1 else 0
  if j < 128 then .lumette (4 * side + j / 32) (j % 16) (decide (j % 32 < 16)) pos
  else .ethernet side ((j - 128) % 8) (decide (j - 128 < 8)) pos

/-- Pair slot `k` of the north band (Table 20.1). -/
def northPair (k : Nat) (pos : Bool) : Land :=
  if k < 128 then .host (k / 32) (k % 16) (decide (k % 32 < 16)) pos
  else if k < 132 then .refclk (k - 128) pos
  else .unused pos

/-- The legs of a band, by the place 0 to 7 of a column from the package's edge: which pair of the row, and its polarity. -/
def bandLeg (place : Nat) : Option (Nat × Bool) :=
  if place % 3 = 2 then none else some (place / 3, decide (place % 3 = 0))

/-- The land in a row, 1 to 64, and a column, 1 to 72. The negative leg of a north pair is in the next column (DEDUCED, log 70). -/
def land (row col : Nat) : Land :=
  if 9 ≤ row ∧ row ≤ 56 ∧ (col ≤ 8 ∨ 65 ≤ col) then
    match bandLeg (if col ≤ 8 then col - 1 else 72 - col) with
    | some (i, pos) => bandPair (decide (65 ≤ col)) (3 * (row - 9) + i) pos
    | none => .vss
  else if row ≤ 6 then
    if col % 3 = 1 then .vss else northPair (24 * (row - 1) + (col - 2) / 3) (decide (col % 3 = 2))
  else if row ≤ 8 ∧ col % 2 = 1 then .single (singleSlot (36 * (row - 7) + col / 2))
  else .vss

/-- The level of a single-ended land that the model holds (R416, Table 20.2): the straps as they were sampled, PORST#, and what
the device drives. An open-drain output reads high when it is released
(DEDUCED, log 70). -/
def State.level (s : State) : Signal → Option Bool
  | .fcfg n => some (bitAt s.pins.fcfg n)
  | .hmode n => some (bitAt s.pins.hmode n)
  | .dbgen => some s.pins.dbgen
  | .porst => some (!s.pins.low)
  | .pwrgd => some s.pins.pwrgd
  | .thermtrip => some (!s.pins.trip)
  | .alert => some (!s.alertLow)
  | .ready => some s.readyPin
  | _ => none

/-- Vendor ID, Device ID and Revision ID of an endpoint function: 0 the PF, else a VF (R424). -/
def pciId (f : Nat) : BitVec 16 × BitVec 16 × BitVec 8 := (0x1F6E, if f = 0 then 0x0C03 else 0x0C04, Config.stepping)

end Sys2Proof.Machine
end

