-- ==== Sys2Proof/Machine/TestPort.lean ====
section
/-! DEFINITION. Power-up, PORST# and the test access port (R416, R419, R420, R422). -/

namespace Sys2Proof.Machine

/-- PORST (R420, R416): a pulse of at least 250 always-on ticks resets; a shorter one is ignored or taken as a full reset,
which is free (log 5). It acts while PWRGD is high. -/
def execPorst (ticks : Nat) (fcfg : BitVec 30) (hmode : BitVec 4) (dbgen : Bool) (s : State) : Out :=
  s.cmd fun s =>
  if !s.pins.pwrgd then fin s
  else if 250 ≤ ticks then fin (s.porstRise fcfg hmode dbgen)
  else
    let (v, s) := s.free
    if bitAt v 0 then fin (s.porstRise fcfg hmode dbgen) else fin s

/-- POWER_UP (R419): STW.AON starts afresh, with its timestamp and trip latch, the other domains stay off, and PWRGD goes
high; PORST# stays low until PORST. The on-package stages limit inrush until the input reaches 64 V (R417). -/
def execPowerUp (s : State) : Out :=
  s.cmd fun s =>
  if s.pins.pwrgd ∨ !s.pmem.lost then fin s
  else
    let s := s.cold
    fin { s with now := 0, svc := { s.svc with evalAt := 0 }, pwr := { State.reset.pwr with dom := offDoms }, pmem := { lost := true, inrush := true },
                 pins := { s.pins with pwrgd := true, low := true, trip := false } }

/-- IDCODE (R422). -/
def execIdcode (s : State) : Out :=
  s.cmd fun s =>
  fin (({ s with pins := { s.pins with tap := .idcode } } : State).emit
    (.tdo (place (Config.stepping.toNat % 16) 28 4 ||| place 0x0C03 12 16 ||| place 0x38F 0 12)))

/-- BYPASS (R422): the one-bit bypass register is selected; it captures 0 under IEEE 1149.1. -/
def execBypass (s : State) : Out :=
  s.cmd fun s =>
  fin (({ s with pins := { s.pins with tap := .bypass } } : State).emit (.tdo 0))

/-- The single-ended inputs that the boundary scan samples, in the order of Table 20.2 (log 33): FCFG, HMODE, DBGEN, PORST#. -/
def State.scanBits (s : State) : List Bool :=
  ((List.range 30).map Signal.fcfg ++ (List.range 4).map Signal.hmode ++ [Signal.dbgen, Signal.porst]).map
    (fun x => (s.level x).getD false)

/-- SAMPLE/PRELOAD (R422): sampling shifts the pins out; preloading sets the boundary register. -/
def execSamplePreload (preload : Option (List Bool)) (s : State) : Out :=
  s.cmd fun s =>
  let s : State := { s with pins := { s.pins with tap := .sample } }
  match preload with
  | none => fin (s.emit (.tdo (w64 (s.scanBits.foldr (fun b n => b2n b + 2 * n) 0))))
  | some l => fin { s with pins := { s.pins with bsr := l } }

/-- EXTEST (R422): the boundary register drives the pins, only while PORST# is low. -/
def execExtest (s : State) : Out :=
  s.cmd fun s =>
  let s : State := { s with pins := { s.pins with tap := .extest } }
  if s.pins.low then fin (s.emit (.drive s.pins.bsr)) else fin s

end Sys2Proof.Machine
end

