-- ==== Sys2Proof/Machine/TileMem.lean ====
section
/-! DEFINITION. Loading, storing and clearing tile registers (R139 to R148, R181). -/

namespace Sys2Proof.Machine

/-- TPROG of an instruction that stops at row `r` (Table 7.6). -/
def tprogOf (st : Bool) (t r : Nat) : Word := place 1 15 1 ||| place (b2n st) 14 1 ||| place t 10 4 ||| place r 0 6

/-- A tile instruction stops at a row (R142). -/
def stopAtRow (st : Bool) (t r : Nat) (c : Core) : Core := { c with tile := { c.tile with tprog := tprogOf st t r } }

/-- A TLD.R or TST.R completes (R143). -/
def rowsDone (c : Core) : Core := { c with tile := { c.tile with tprog := 0 } }

/-- The first row of a TLD.R or TST.R: none where TPROG is of another instruction (R143). -/
def firstRow (c : Core) (st : Bool) (t : Nat) : Option Nat :=
  let p := c.tile.tprog
  if !bitAt p 15 then some 0
  else if bitAt p 14 = st ∧ field p 10 4 = t then some (field p 0 6)
  else none

/-- The rows to move, ascending. -/
def rowsFrom (r rows : Nat) : List Nat := (List.range rows).filter (fun i => decide (r ≤ i))

/-- Alignment of a row's address (R142). -/
def Shape.rowAlign (s : Shape) : Nat := if s.fmt = .x12 then 4 else 16

/-- Pack a row of lanes into its memory form (R141, R41). -/
def packRow (s : Shape) (row : Line) : List Byte :=
  if s.fmt = .x12 then
    (List.range (4 * s.len)).flatMap (fun j => toBytes 3 (laneOf row (2 * j) / 16 + laneOf row (2 * j + 1) / 16 * 4096))
  else lineBytes row 0 (16 * s.len)

/-- Unpack a row's memory form into the bytes of its lanes. -/
def unpackRow (s : Shape) (b : List Byte) : List Byte :=
  if s.fmt = .x12 then
    (List.range (4 * s.len)).flatMap (fun j =>
      let u := ofBytes ((b.drop (3 * j)).take 3)
      toBytes 2 (u % 4096 * 16) ++ toBytes 2 (u / 4096 * 16))
  else b

/-- Write the first bytes of a row of a tile; words written whole carry good parity again (log 20). -/
def putRowBytes (c : Core) (t r : Nat) (b : List Byte) : Core :=
  { c with tile := { c.tile with rows := tmod 0 c.tile.rows (64 * t + r) (fun l => setBytes l 0 b),
                                 bad := tclear c.tile.bad (1024 * t + 16 * r) (b.length / 8) } }

/-- An instruction of Table 7.5 on tile `t`: it waits at issue while a queued instruction stands before it (R148), then `f`. -/
def State.onTile (s : State) (c t : Nat) (write : Bool) (f : Core → Shape → SysRes) : SysRes :=
  let k := s.core c
  if tileFree t write false k then f k (tshape (s.ctxOf c) k t) else .hold s

/-- TLD.R (R140 to R143). -/
def execTldR (h : Issue) (tn : BitVec 4) (rs1 rs2 : Reg) (s : State) : Out :=
  s.cmd fun s =>
  let w := wordOf (.tldR h tn rs1 rs2)
  s.issue h w (fun s =>
    let c := h.core.val
    let t := tn.toNat
    match firstRow (s.core c) false t with
    | none => .trap s (tIllegal w)
    | some r0 => s.onTile c t true fun k sh =>
      let put (l : List (Nat × List Byte)) (k : Core) : Core :=
        if l.isEmpty then k else dropLatches (l.foldl (fun k e => putRowBytes k t e.1 (unpackRow sh e.2)) k) [t]
      let rd := State.readEach c ((rowsFrom r0 sh.rows).map (fun r =>
        { idx := r, va := xget k rs1 + w64 r * xget k rs2, align := sh.rowAlign, n := sh.rowBytes })) [] s
      match rd with
      | (s, .wait) => .stay s
      | (s, .done l) => .done (s.setCore c (rowsDone (put l (s.core c))))
      | (s, .trap r e l) => .trap (s.setCore c (stopAtRow false t r (put l (s.core c)))) e)

/-- The words with bad parity of a row, among its words in use. -/
def badWords (c : Core) (t r len : Nat) : List Nat :=
  (List.range (2 * len)).filter (fun w => tget false c.tile.bad (1024 * t + 16 * r + w))

/-- Which bytes of a row's memory form come from a word with bad parity. -/
def badBytes (s : Shape) (bad : List Nat) : List Bool :=
  (List.range s.rowBytes).map (fun i =>
    if s.fmt = .x12 then bad.any (fun w => decide (i / 6 = w)) else bad.contains (i / 8))

/-- What TST.R counts of a physical row (R146, Table 9.6). -/
def rowCounts (c : Core) (t r : Nat) (s : Shape) : Counts :=
  let rs := if s.cols then (List.range s.fmt.rho).map (fun j => s.fmt.rho * r + j) else [r]
  (rs.flatMap (fun i => (List.range s.nc).map (fun q => (i, q)))).foldl (fun n e =>
    let code := codeOfLane s.fmt (tileElem c t s e.1 e.2)
    let nan := decide (s.smode ≠ 0) && decide (tileScale c t (s.scaleAt e.1 e.2) = 0xFF)
    addCounts n (countElem s.fmt (decodeElem s.fmt code) code nan)) {}

/-- The census event of a TST.R (R146). -/
def storeCensus (cfg : Word) (n : Counts) : List CoreEv :=
  if n.elems = 0 then []
  else if !bitAt cfg 32 then [.count true none n]
  else if !bitAt cfg 33 then [.count true (some (field cfg 34 10)) n]
  else []

/-- What reading a row for TST.R detects (R181). -/
def State.rowRead (s : State) (c t r : Nat) (sh : Shape) : State :=
  let k := s.marked c
  let (k', ev) := detectAll k [] ((badWords k t r sh.len).map (fun w => parityDetail true t r w))
  s.unmarked c k' ev

/-- What a row that TST.R has stored counts (R146): a row sent to another device counts once it is answered. -/
def State.rowCounted (s : State) (c t r : Nat) (sh : Shape) : State :=
  let k := s.core c
  s.coreEvents c false (storeCensus (tcfg k t) (rowCounts k t r sh))

/-- One row of a TST.R. A row with a bad word is not sent to another device: ACCESS with DETAIL 6 (R181). -/
def State.storeRow (s : State) (c t r : Nat) (sh : Shape) (va : Word) (sent : Bool) : State × Except Trap StRes :=
  match s.aim c .store false va sh.rowBytes sh.rowAlign with
  | (s, .error e) => (s, .error e)
  | (s, .ok ps) =>
    let k := s.marked c
    let bad := badWords k t r sh.len
    if !sent && !bad.isEmpty && ps.any Piece.away then (s.rowRead c t r sh, .error (tAccess va 6))
    else
      match s.storePieces c false ps (packRow sh (tileRow k t r)) (if bad.isEmpty then [] else badBytes sh bad) sent with
      | (s, .done) => ((if sent then s else s.rowRead c t r sh).rowCounted c t r sh, .ok .done)
      | (s, .wait true) => (if sent then s else s.rowRead c t r sh, .ok (.wait true))
      | (s, x) => (s, .ok x)

/-- The rows of a TST.R, from number `pos` on. -/
def State.storeRows (c t : Nat) (sh : Shape) (addr : Nat → Word) : List Nat → Nat → Bool → State → State × WrRes
  | [], _, _, s => (s, .done)
  | r :: l, pos, sent, s =>
    match s.storeRow c t r sh (addr r) sent with
    | (s, .error e) => (s, .trap r e)
    | (s, .ok .done) => State.storeRows c t sh addr l (pos + 1) false s
    | (s, .ok (.bad va d)) => (s, .trap r (tAccess va d))
    | (s, .ok (.wait x)) => (s.setStorePos c (2 * pos + b2n x), .wait)

/-- TST.R (R140 to R143, R146, R181). -/
def execTstR (h : Issue) (tn : BitVec 4) (rs1 rs2 : Reg) (s : State) : Out :=
  s.cmd fun s =>
  let w := wordOf (.tstR h tn rs1 rs2)
  s.issue h w (fun s =>
    let c := h.core.val
    let t := tn.toNat
    match firstRow (s.core c) true t with
    | none => .trap s (tIllegal w)
    | some r0 => s.onTile c t false fun k sh =>
      let addr (r : Nat) : Word := xget k rs1 + w64 r * xget k rs2
      let p := k.mem.prog
      .writes c rowsDone (stopAtRow true t)
        (State.storeRows c t sh addr ((rowsFrom r0 sh.rows).drop (p / 2)) (p / 2) (decide (p % 2 = 1)) s))

/-- Does TPROG forbid an instruction that is not row by row (R143)? -/
def rowsPending (c : Core) : Bool := bitAt c.tile.tprog 15

/-- TLD.S (R140, R144): every byte is checked before any is moved. -/
def execTldS (h : Issue) (tn : BitVec 4) (rs1 : Reg) (s : State) : Out :=
  s.cmd fun s =>
  let w := wordOf (.tldS h tn rs1)
  s.issue h w (fun s =>
    let c := h.core.val
    let t := tn.toNat
    if rowsPending (s.core c) then .trap s (tIllegal w)
    else s.onTile c t true fun k sh =>
      let n := sh.ns
      let put (l : List (Nat × List Byte)) (k : Core) : Core :=
        if n = 0 then k
        else dropLatches (l.foldl (fun k e => (e.2.zipIdx).foldl (fun k b => setTileScale k t b.2 b.1) k) k) [t]
      match s.reads c [{ idx := 0, va := xget k rs1, align := 1, n := n }] with
      | (s, .wait) => .stay s
      | (s, .done l) => .done (s.setCore c (put l (s.core c)))
      | (s, .trap _ e _) => .trap s e)

/-- TST.S (R140, R144). -/
def execTstS (h : Issue) (tn : BitVec 4) (rs1 : Reg) (s : State) : Out :=
  s.cmd fun s =>
  let w := wordOf (.tstS h tn rs1)
  s.issue h w (fun s =>
    let c := h.core.val
    let t := tn.toNat
    if rowsPending (s.core c) then .trap s (tIllegal w)
    else s.onTile c t false fun k sh =>
      let n := sh.ns
      .writes c id (fun _ k => k) (s.writes c false [fullWrite 0 (xget k rs1) 1 ((List.range n).map (tileScale k t))]))

/-- TZERO (R140): the tile's 8 KiB and its 512 side-array bytes become 0. -/
def execTzero (h : Issue) (tn : BitVec 4) (s : State) : Out :=
  s.cmd fun s =>
  let w := wordOf (.tzero h tn)
  s.issue h w (fun s =>
    let c := h.core.val
    let t := tn.toNat
    if rowsPending (s.core c) then .trap s (tIllegal w)
    else s.onTile c t true fun k _ =>
      .done (s.setCore c (dropLatches { k with tile := { k.tile with
        rows := tclear k.tile.rows (64 * t) 64, side := tclear k.tile.side (512 * t) 512,
        bad := tclear k.tile.bad (1024 * t) 1024 } } [t])))

end Sys2Proof.Machine
end

