-- ==== Sys2Proof/Machine/Traps.lean ====
section
/-! DEFINITION. Traps, gates, waiting, the watchdog and the compare timer (R81 to R104). -/

namespace Sys2Proof.Machine

/-- INTERRUPT: at an instruction boundary the core takes the trap that is due, an interrupt unless WATCHDOG or
ENGINE_PARITY comes first (R102). -/
def execInterrupt (core : CoreId) (s : State) : Out :=
  s.cmd fun s =>
  fin (s.boundary core.val)

/-- ENGINE_PARITY: a pending one is taken (R102, R182). -/
def execEngineParity (core : CoreId) (s : State) : Out :=
  s.cmd fun s =>
  if (s.core core.val).parity.isSome then fin (s.boundary core.val) else fin s

/-- WATCHDOG: at LIMIT × 1,024 ticks the count returns to 0 and WATCHDOG is raised (R104). -/
def execWatchdog (core : CoreId) (s : State) : Out :=
  s.cmd fun s =>
  let c := core.val
  let k := s.core c
  let x := s.ctxOf c
  let limit := max 1 (field k.tc.wdctl 16 16) * 1024
  if bitAt k.tc.wdctl 0 && decide (limit ≤ wdcnt x k) then
    fin ((s.setCore c { kick x k with watchdog := true }).boundary c)
  else if k.watchdog then fin (s.boundary c)
  else fin s

/-- CTCMP_MATCH: source 3 pends while CYCLE is at or above CTCMP (R101), which completes a WFE. -/
def execCtcmpMatch (core : CoreId) (s : State) : Out :=
  s.cmd fun s =>
  let c := core.val
  let k := s.core c
  if k.tc.ctcmp.toNat ≤ s.cycles c then fin (s.setCore c (wakeWfe (s.ctxOf c) k)) else fin s

/-- TRET (R87): PRIV_INSN at U. -/
def execTret (h : Issue) (s : State) : Out :=
  s.cmd fun s =>
  let w := wordOf (.tret h)
  s.issue h w (fun s =>
    let c := h.core.val
    let k := s.core c
    if k.level = .u then .trap s (tPriv w) else .left (s.setCore c (doTret k)))

/-- Argument check j of a gate descriptor: V, MODE, REG. -/
def gateCheck (d j : Nat) : Bool × Nat × Nat :=
  let x := d / 2 ^ (64 + 16 * j) % 65536
  (decide (32768 ≤ x), x / 8192 % 4, x % 32)

/-- Is a check malformed (Table 5.7)? -/
def gateCheckBad (d j : Nat) : Bool :=
  let x := d / 2 ^ (64 + 16 * j) % 65536
  let (v, m, r) := gateCheck d j
  decide (x / 32 % 256 ≠ 0) || (v && (decide (m = 0) || decide (r = 0) || decide (r = 31)))

/-- Check the leaf pages of an argument range, ascending (R98); `n` leaves may still be used. Gives the lowest failing
address and whether the leaf limit failed. -/
def State.gateLeaves (s : State) (c mode : Nat) : Nat → Nat → Nat → State × Option (Nat × Bool)
  | _, _, 0 => (s, none)
  | 0, a, _ + 1 => (s, some (a, true))
  | n + 1, a, len + 1 =>
    let l := (s.core c).level
    let va : Word := BitVec.ofNat 64 a
    let (s, r) := if bitAt (BitVec.ofNat 2 mode) 0 then s.translateAt c l .load va else (s, .ok 0)
    match r with
    | .error _ => (s, some (a, false))
    | .ok _ =>
      let (s, w) := if bitAt (BitVec.ofNat 2 mode) 1 then s.translateAt c l .store va else (s, .ok 0)
      match w with
      | .error _ => (s, some (a, false))
      | .ok _ =>
        let k := s.core c
        let asid := field k.cr.asctl 48 16
        let log := ((tlbHit k.mem.tlb asid va <|> tlbHit (s.cluster (c / 8)).tlb asid va).map (·.log)).getD 12
        let step := 2 ^ log - a % 2 ^ log
        s.gateLeaves c mode n (a + step) (len + 1 - step)

/-- The argument checks of R98, j from 0: the trap of the first that fails. A range that wraps fails at address 0, its lowest
failing address (log 24). -/
def State.gateArgs (s : State) (c d : Nat) : State × Option Trap :=
  [0, 1, 2, 3].foldl (fun (a : State × Option Trap) j =>
    match a.2 with
    | some _ => a
    | none =>
      let (v, m, r) := gateCheck d j
      let k := a.1.core c
      let base := (bget k k.bank r).toNat
      let len := (bget k k.bank (r + 1)).toNat
      if !v || decide (len = 0) then a
      else if 2 ^ 64 < base + len then (a.1, some ⟨cGATE_ARG, 0, BitVec.ofNat 32 j⟩)
      else
        match a.1.gateLeaves c m 256 base len with
        | (s, none) => (s, none)
        | (s, some (f, lim)) => (s, some ⟨cGATE_ARG, BitVec.ofNat 64 f, BitVec.ofNat 32 (j + 4 * b2n lim)⟩)) (s, none)

/-- Read descriptor n of the caller's gate table through the descriptor cache, checked under R26 (R95); none when the read
fails or finds poison (Table 19.3). -/
def State.gateDesc (s : State) (c n : Nat) : State × Option Nat :=
  let k := s.core c
  let base := if k.level = .u then field k.tc.gtbU 5 43 else field k.tc.gtbS 5 43
  match locPA (32 * (base + n)) with
  | .dram d pa =>
    if s.granOwner (.dram d pa) ≠ some (s.owner (c / 8)) then (s, none)
    else
      match s.roRead c 2 pa 32 with
      | (s, .ok b) => (s, some (ofBytes b))
      | (s, .error a) => (s.consume 1 c (s.owner (c / 8)) (c / 64) a, none)
  | _ => (s, none)

/-- GATE n (R96 to R98). -/
def bGate (c n : Nat) (s : State) : SysRes :=
  let k := s.core c
  let fault (s : State) (r : Nat) : SysRes := .trap s ⟨cGATE_FAULT, w64 n, BitVec.ofNat 32 r⟩
  let gtn := field (if k.level = .u then k.tc.gtnU else k.tc.gtnS) 0 11
  if k.level = .f then fault s 1
  else if gtn ≤ n then fault s 2
  else
    match s.gateDesc c n with
    | (s, none) => fault s 3
    | (s, some d) =>
      let tl := d / 2 ^ 192 % 4
      let l : Level := if tl = 1 then .s else .f
      if d % 2 = 0 ∨ d / 2 % 2 ^ 63 ≠ 0 ∨ [0, 1, 2, 3].any (gateCheckBad d) then fault s 4
      else if (tl ≠ 1 ∧ tl ≠ 2) ∨ l.num ≤ k.level.num then fault s 5
      else if bitAt (tregs k l).gstatus 0 then fault s 6
      else
        match s.gateArgs c d with
        | (s, some t) => .trap s t
        | (s, none) =>
          .left (s.setCore c (enterGate (s.core c) l (BitVec.ofNat 64 (d / 2 ^ 128))
            (BitVec.ofNat 64 (d / 2 ^ 194 * 4))))

/-- GATE (R97). -/
def execGate (h : Issue) (n : BitVec 10) (s : State) : Out :=
  s.cmd fun s =>
  s.issue h (wordOf (.gate h n)) (fun s => bGate h.core.val n.toNat s)

/-- GRET (R99): GATE_FAULT with DETAIL 7 at U or with GA = 0. -/
def execGret (h : Issue) (s : State) : Out :=
  s.cmd fun s =>
  s.issue h (wordOf (.gret h)) (fun s =>
    let c := h.core.val
    let k := s.core c
    if k.level = .u ∨ !bitAt (tregs k k.level).gstatus 0 then .trap s ⟨cGATE_FAULT, 0, 7⟩
    else .left (s.setCore c (doGret k)))

/-- WFE (R103): it completes at once when an event is there, else the core waits. -/
def execWfe (h : Issue) (s : State) : Out :=
  s.cmd fun s =>
  s.issue h (wordOf (.wfe h)) (fun s =>
    let c := h.core.val
    let k := s.core c
    .left (s.setCore c (wakeWfe (s.ctxOf c) { k with run := .waitEvent })))

/-- The status with which HALT ends a task at S (R103). -/
def haltStatus (l : Level) (v : Word) : Byte :=
  match l with
  | .s => if field v 0 8 = 0 then stOK else stTASK
  | _ => stOK

/-- HALT (R103): at U and S the task ends on this core (TASK_END follows, R256); at F the core stops. -/
def execHalt (h : Issue) (rs1 : Reg) (s : State) : Out :=
  s.cmd fun s =>
  s.issue h (wordOf (.halt h rs1)) (fun s =>
    let c := h.core.val
    let k := s.core c
    .left (s.setCore c { k with run := if k.level = .f then .halted else .ending (haltStatus k.level (xget k rs1)) }))

end Sys2Proof.Machine
end

