-- ==== Sys2Proof/Machine/Vector.lean ====
section
/-! DEFINITION. The vector instructions that touch no memory (R109 to R124). -/

namespace Sys2Proof.Machine

/-- VSETN (R109). -/
def execVsetn (h : Issue) (rd rs1 : Reg) (s : State) : Out :=
  s.cmd fun s =>
  s.issueCore h (wordOf (.vsetn h rd rs1)) (fun x c =>
    let n := BitVec.ofNat 64 (min (xget c rs1).toNat (vCap x c))
    ok (xset { c with vec := { c.vec with vcnt := n } } rd n))

/-- VADD to VMAXU (R115). -/
def execVaddVsubLogicShift (h : Issue) (op : VAluOp) (vd vs1 : BitVec 6) (src : VSrc) (m : VMask) (s : State) : Out :=
  s.cmd fun s =>
  let w := wordOf (.vaddVsubLogicShift h op vd vs1 src m)
  s.issueCore h w (fun x c => vInt x w (valuVal op) vd vs1 src m c)

/-- VMUL, VMULH, VMULHU (R115). -/
def execVmulVmulhVmulhu (h : Issue) (op : MulOp) (vd vs1 : BitVec 6) (src : VSrc) (m : VMask) (s : State) : Out :=
  s.cmd fun s =>
  let w := wordOf (.vmulVmulhVmulhu h op vd vs1 src m)
  s.issueCore h w (fun x c => vInt x w (vmulVal op) vd vs1 src m c)

/-- VQADD to VQSUBU (R116). -/
def execVqaddVqsub (h : Issue) (op : VQAddOp) (vd vs1 : BitVec 6) (src : VSrc) (m : VMask) (s : State) : Out :=
  s.cmd fun s =>
  let w := wordOf (.vqaddVqsub h op vd vs1 src m)
  s.issueCore h w (fun x c => vFixed x w false (vqUns op) (vqAddVal op) vd vs1 src m c)

/-- VQRMUL (R116). -/
def execVqrmul (h : Issue) (vd vs1 : BitVec 6) (src : VSrc) (m : VMask) (s : State) : Out :=
  s.cmd fun s =>
  let w := wordOf (.vqrmul h vd vs1 src m)
  s.issueCore h w (fun x c => vFixed x w false false vqrmulVal vd vs1 src m c)

/-- VQSHR, VQSHRN, VQSHL (R116). -/
def execVqshrVqshrnVqshl (h : Issue) (op : VQShOp) (vd vs1 : BitVec 6) (src : VSrc) (m : VMask) (s : State) : Out :=
  s.cmd fun s =>
  let w := wordOf (.vqshrVqshrnVqshl h op vd vs1 src m)
  s.issueCore h w (fun x c => vFixed x w (decide (op = .qshrn)) false (vqShVal op) vd vs1 src m c)

/-- VFADD, VFSUB, VFMUL (R118). -/
def execVfaddVfsubVfmul (h : Issue) (op : FArith) (st_ : Bool) (vd vs1 : BitVec 6) (src : VSrc) (m : VMask)
    (s : State) : Out :=
  s.cmd fun s =>
  let w := wordOf (.vfaddVfsubVfmul h op st_ vd vs1 src m)
  s.issueCore h w (fun x c =>
    vFloat x w false (fun f i _ a b => fRound f (vRnd c st_ i) (faVal op a b)) vd vs1 src false m c)

/-- VFMA, VFMS (R118). -/
def execVfmaVfms (h : Issue) (sub st_ : Bool) (vd vs1 : BitVec 6) (src : VSrc) (m : VMask) (s : State) : Out :=
  s.cmd fun s =>
  let w := wordOf (.vfmaVfms h sub st_ vd vs1 src m)
  s.issueCore h w (fun x c =>
    vFloat x w false (fun f i d a b =>
      let p := a.mul b
      fRound f (vRnd c st_ i) (d.add (if sub then p.negate else p))) vd vs1 src false m c)

/-- Is the unused second operand of a one-operand form out of place: a scalar form, or a nonzero vs2 (R114, Table 6.5)? -/
def unaryBad : VSrc → Bool
  | .vec v => decide (v ≠ 0)
  | .sca _ => true

/-- VFDIV, VFSQRT (R118). -/
def execVfdivVfsqrt (h : Issue) (sqrt st_ : Bool) (vd vs1 : BitVec 6) (src : VSrc) (m : VMask) (s : State) : Out :=
  s.cmd fun s =>
  let w := wordOf (.vfdivVfsqrt h sqrt st_ vd vs1 src m)
  s.issueCore h w (fun x c =>
    vFloat x w (sqrt && unaryBad src) (fun f i _ a b =>
      if sqrt then fRound f (vRnd c st_ i) (vfsqrtVal a) else vfdivVal f (vRnd c st_ i) a b) vd vs1 src sqrt m c)

/-- VFMIN, VFMAX, VFSGN (R118): S = 1 raises ILLEGAL_INSN. -/
def execVfminVfmaxVfsgn (h : Issue) (op : VFMinOp) (st_ : Bool) (vd vs1 : BitVec 6) (src : VSrc) (m : VMask)
    (s : State) : Out :=
  s.cmd fun s =>
  let w := wordOf (.vfminVfmaxVfsgn h op st_ vd vs1 src m)
  let one := decide (op = .fsgn)
  s.issueCore h w (fun x c =>
    vFloat x w (st_ || (one && unaryBad src)) (fun f _ _ a b => fRound f .even (vfMinVal op a b)) vd vs1 src one m c)

/-- VMSEQ to VMFLE (R119). -/
def execVmseqVmfleCompare (h : Issue) (op : VCmpOp) (md : BitVec 3) (vs1 vs2 : BitVec 6) (m : VMask) (s : State) : Out :=
  s.cmd fun s =>
  let w := wordOf (.vmseqVmfleCompare h op md vs1 vs2 m)
  s.issueCore h w (fun x c => bVcmp x w op md vs1 vs2 m c)

/-- VMAND, VMOR, VMXOR, VMANDN (R119). -/
def execVmandVmorVmxorVmandn (h : Issue) (op : MaskOp) (md ms1 ms2 : BitVec 3) (s : State) : Out :=
  s.cmd fun s =>
  s.issueCore h (wordOf (.vmandVmorVmxorVmandn h op md ms1 ms2))
    (fun _ c => bMaskOp md (maskVal op (tget 0 c.vec.m ms1.toNat) (tget 0 c.vec.m ms2.toNat)) c)

/-- VMSET, VMCLR (R119). -/
def execVmsetVmclr (h : Issue) (clr : Bool) (md : BitVec 3) (s : State) : Out :=
  s.cmd fun s =>
  s.issueCore h (wordOf (.vmsetVmclr h clr md)) (fun _ c => bMaskOp md (if clr then 0 else BitVec.allOnes 512) c)

/-- VMPOPC (R119). DESIGN CHOICE (log 66): with VCNT 0 it writes 0, the count of the bits 0 to VCNT − 1 that it acts on. -/
def execVmpopc (h : Issue) (rd : Reg) (ms1 : BitVec 3) (s : State) : Out :=
  s.cmd fun s =>
  s.issueCore h (wordOf (.vmpopc h rd ms1)) (fun _ c => putReg c rd (w64 (maskBits c ms1).length))

/-- VMFIRST (R119). DESIGN CHOICE (log 66): with VCNT 0 it writes −1, no bit being set among those it acts on. -/
def execVmfirst (h : Issue) (rd : Reg) (ms1 : BitVec 3) (s : State) : Out :=
  s.cmd fun s =>
  s.issueCore h (wordOf (.vmfirst h rd ms1)) (fun _ c =>
    putReg c rd (match (maskBits c ms1).head? with | some i => w64 i | none => BitVec.allOnes 64))

/-- VCVT (R121 to R123). -/
def execVcvt (h : Issue) (dst : BitVec 4) (vd vs1 vs2 : BitVec 6) (m : VMask) (s : State) : Out :=
  s.cmd fun s =>
  let w := wordOf (.vcvt h dst vd vs1 vs2 m)
  s.issueCore h w (fun x c => bVcvt x w dst vd vs1 vs2 m c)

/-- VMV (R120). -/
def execVmv (h : Issue) (vd vs1 : BitVec 6) (m : VMask) (s : State) : Out :=
  s.cmd fun s =>
  let w := wordOf (.vmv h vd vs1 m)
  s.issueCore h w (fun x c =>
    let t := vType x c
    let n := tyWidth t
    vMove w (!groupsOk [(vd.toNat, vG c), (vs1.toNat, vG c)]) vd t
      ((vActive c m).map (fun i => (i, vElem c.vec.v vs1.toNat n i))) c)

/-- VMV.VX (R120). -/
def execVmvVx (h : Issue) (vd : BitVec 6) (rs2 : Reg) (m : VMask) (s : State) : Out :=
  s.cmd fun s =>
  let w := wordOf (.vmvVx h vd rs2 m)
  s.issueCore h w (fun x c =>
    let t := vType x c
    let n := tyWidth t
    vMove w (!groupsOk [(vd.toNat, vG c)]) vd t ((vActive c m).map (fun i => (i, vSrc c (.sca rs2) n i))) c)

/-- VMV.XV (R120): it ignores the mask. -/
def execVmvXv (h : Issue) (rd : Reg) (vs1 : BitVec 6) (m : VMask) (s : State) : Out :=
  s.cmd fun s =>
  let w := wordOf (.vmvXv h rd vs1 m)
  s.issueCore h w (fun x c => bVmvXv x w rd vs1 c)

/-- VSLIDEDN (R120): vd and vs1 must not overlap. -/
def execVslidedn (h : Issue) (vd vs1 : BitVec 6) (rs2 : Reg) (m : VMask) (s : State) : Out :=
  s.cmd fun s =>
  let w := wordOf (.vslidedn h vd vs1 rs2 m)
  s.issueCore h w (fun x c =>
    let t := vType x c
    let n := tyWidth t
    let k := (xget c rs2).toNat
    vMove w (decide (vd = vs1) || !groupsOk [(vd.toNat, vG c), (vs1.toNat, vG c)]) vd t
      ((vActive c m).map (fun i => (i, if i + k < vCnt c then vElem c.vec.v vs1.toNat n (i + k) else 0))) c)

/-- VSLIDEUP (R120). -/
def execVslideup (h : Issue) (vd vs1 : BitVec 6) (rs2 : Reg) (m : VMask) (s : State) : Out :=
  s.cmd fun s =>
  let w := wordOf (.vslideup h vd vs1 rs2 m)
  s.issueCore h w (fun x c =>
    let t := vType x c
    let n := tyWidth t
    let k := (xget c rs2).toNat
    vMove w (decide (vd = vs1) || !groupsOk [(vd.toNat, vG c), (vs1.toNat, vG c)]) vd t
      (((vActive c m).filter (fun i => decide (k ≤ i))).map (fun i => (i, vElem c.vec.v vs1.toNat n (i - k)))) c)

/-- VMERGE (R120): it requires MK = 1. -/
def execVmerge (h : Issue) (vd vs1 vs2 : BitVec 6) (m : VMask) (s : State) : Out :=
  s.cmd fun s =>
  let w := wordOf (.vmerge h vd vs1 vs2 m)
  s.issueCore h w (fun x c =>
    let t := vType x c
    let n := tyWidth t
    let k := tget 0 c.vec.m m.vm.toNat
    vMove w (!m.masked || !groupsOk [(vd.toNat, vG c), (vs1.toNat, vG c), (vs2.toNat, vG c)]) vd t
      ((vActive c { m with masked := false }).map (fun i =>
        (i, vElem c.vec.v (if bitAt k i then vs1.toNat else vs2.toNat) n i))) c)

/-- VREDSUM (R120). -/
def execVredsum (h : Issue) (st_ : Bool) (vd vs1 : BitVec 6) (m : VMask) (s : State) : Out :=
  s.cmd fun s =>
  let w := wordOf (.vredsum h st_ vd vs1 m)
  s.issueCore h w (fun x c => vReduce x w false st_ List.sum sumVals vd vs1 m c)

/-- VREDMAX, VREDMIN, VREDAMAX (R120): S = 1 raises ILLEGAL_INSN. -/
def execVredmaxVredminVredamax (h : Issue) (op : VRedOp) (st_ : Bool) (vd vs1 : BitVec 6) (m : VMask)
    (s : State) : Out :=
  s.cmd fun s =>
  let w := wordOf (.vredmaxVredminVredamax h op st_ vd vs1 m)
  s.issueCore h w (fun x c => vReduce x w st_ false (redInt op) (redVal op) vd vs1 m c)

/-- Queue what a VEMIT captured; with VCNT 0 nothing is queued (R111). -/
def bEmit (r : Except Trap (Option EngOp)) (c : Core) : CoreRes :=
  match r with
  | .error t => .trap c t
  | .ok none => ok (vDone c)
  | .ok (some o) => if queueFull c then .hold else ok (vDone (enqueue o c))

/-- VEMIT (R124). -/
def execVemit (h : Issue) (vs : BitVec 6) (ta : BitVec 4) (rs1 : Reg) (s : State) : Out :=
  s.cmd fun s =>
  let w := wordOf (.vemit h vs ta rs1)
  s.issueCore h w (fun x c => bEmit (emitIssue x w c vs ta none (xget c rs1)) c)

/-- VEMIT.D (R124). -/
def execVemitD (h : Issue) (vs : BitVec 6) (ta tb : BitVec 4) (rs1 : Reg) (s : State) : Out :=
  s.cmd fun s =>
  let w := wordOf (.vemitD h vs ta tb rs1)
  s.issueCore h w (fun x c => bEmit (emitIssue x w c vs ta (some tb) (xget c rs1)) c)

end Sys2Proof.Machine
end

