-- ==== Sys2Proof/Machine/VectorMem.lean ====
section
/-! DEFINITION. Vector loads and stores, gathers and scatters (R111 to R113, R125 to R130, R400). -/

namespace Sys2Proof.Machine

/-- Elements of a unit: E2M1 and X12 move two at a time (R126). -/
def unitElems : VTy → Nat
  | .fp .e2m1 | .fp .x12 => 2
  | _ => 1

/-- Bytes of a unit. -/
def unitBytes (t : VTy) : Nat :=
  match t with
  | .fp .e2m1 => 1
  | .fp .x12 => 3
  | t => tyWidth t / 8

/-- The units that active elements touch, each by its number (R126). -/
def unitsOf (t : VTy) (act : List Nat) : List Nat := (act.map (· / unitElems t)).eraseDups

/-- Alignment that an element needs (R125): units of E2M1 and X12 need none. -/
def unitAlign (t : VTy) : Nat := if unitElems t = 2 then 1 else tyWidth t / 8

/-- Bits of an element in memory: X12 is packed (R41). -/
def memBits (t : VTy) : Nat := match t with | .fp .x12 => 12 | t => tyWidth t

/-- An element as memory holds it, from a vector element field. -/
def toMem (t : VTy) (v : Nat) : Nat := match t with | .fp f => codeOfLane f v | .int _ => v

/-- A vector element field from memory bits: X12 lanes have bits 3:0 zero (R41). -/
def ofMem (t : VTy) (v : Nat) : Nat := match t with | .fp f => laneOfCode f v | .int _ => v

/-- The elements of unit `u` that are active, with their values, from the unit's bytes. -/
def unitVals (t : VTy) (act : List Nat) (u : Nat) (b : List Byte) : List (Nat × Nat) :=
  let e := unitElems t
  ((List.range e).map (fun j => (u * e + j, ofMem t (ofBytes b / 2 ^ (memBits t * j) % 2 ^ memBits t)))).filter
    (fun p => act.contains p.1)

/-- The bytes of unit `u` as a store writes them, and the bits that its active elements cover. -/
def unitStore (c : Core) (t : VTy) (vs : Nat) (act : List Nat) (u : Nat) : List Byte × List Byte :=
  let e := unitElems t
  let on := (List.range e).filter (fun j => act.contains (u * e + j))
  let v := on.map (fun j => toMem t (vElem c.vec.v vs (tyWidth t) (u * e + j)) % 2 ^ memBits t * 2 ^ (memBits t * j))
  let m := on.map (fun j => (2 ^ memBits t - 1) * 2 ^ (memBits t * j))
  (toBytes (unitBytes t) v.sum, toBytes (unitBytes t) m.sum)

/-- A resumable instruction stops at element `i`: VSTART names it (R113). -/
def stopAtElem (i : Nat) (c : Core) : Core := { c with vec := { c.vec with vstart := BitVec.ofNat 64 i } }

/-- A vector load ends: what it read below a trap is written (R113). `vals` gives the elements of what was read at an index. -/
def SysRes.reads (c : Nat) (put : List (Nat × List Byte) → Core → Core) (stop : Nat → Core → Core) (fin : Core → Core)
    (r : State × RdRes) : SysRes :=
  match r with
  | (s, .done l) => .done (s.setCore c (fin (put l (s.core c))))
  | (s, .trap i t l) => .trap (s.setCore c (stop i (put l (s.core c)))) t
  | (s, .wait) => .stay s

/-- Write the elements that a vector load read, by the first element of each unit. -/
def putUnits (t : VTy) (vd : Nat) (act : List Nat) (l : List (Nat × List Byte)) (c : Core) : Core :=
  vWrite c vd (tyWidth t) (l.flatMap (fun e => unitVals t act (e.1 / unitElems t) e.2))

/-- A vector load or store whose unit `u` lies at `addr u` (R125, R126). -/
def State.vMove (s : State) (c : Nat) (st : Bool) (vd : BitVec 6) (m : VMask) (addr : Nat → Word) : SysRes :=
  let k := s.core c
  let t := vType (s.ctxOf c) k
  let act := vActive k m
  let us := unitsOf t act
  let e := unitElems t
  if st then
    .writes c vDone stopAtElem (s.writes c false (us.map (fun u =>
      let (b, mask) := unitStore k t vd.toNat act u
      { idx := u * e, va := addr u, align := unitAlign t, bytes := b, mask := mask })))
  else
    .reads c (putUnits t vd.toNat act) stopAtElem vDone
      (s.reads c (us.map (fun u => { idx := u * e, va := addr u, align := unitAlign t, n := unitBytes t })))

/-- VLD, VST (R125): element i at rs1 + i × w / 8, X12 packed. -/
def execVldVst (h : Issue) (st_ : Bool) (vd : BitVec 6) (rs1 : Reg) (m : VMask) (s : State) : Out :=
  s.cmd fun s =>
  let w := wordOf (.vldVst h st_ vd rs1 m)
  s.issue h w (fun s =>
    let c := h.core.val
    let k := s.core c
    if !groupsOk [(vd.toNat, vG k)] then .trap s (tIllegal w)
    else s.vMove c st_ vd m (fun u => xget k rs1 + w64 (u * unitBytes (vType (s.ctxOf c) k))))

/-- VLDS, VSTS (R125): element i at rs1 + i × rs2; E2M1 and X12 raise ILLEGAL_INSN. -/
def execVldsVsts (h : Issue) (st_ : Bool) (vd : BitVec 6) (rs1 rs2 : Reg) (m : VMask) (s : State) : Out :=
  s.cmd fun s =>
  let w := wordOf (.vldsVsts h st_ vd rs1 rs2 m)
  s.issue h w (fun s =>
    let c := h.core.val
    let k := s.core c
    if !groupsOk [(vd.toNat, vG k)] ∨ unitElems (vType (s.ctxOf c) k) = 2 then .trap s (tIllegal w)
    else s.vMove c st_ vd m (fun u => xget k rs1 + w64 u * xget k rs2))

/-- The scale bytes that VLDSC and VSTSC move, from the one of element VSTART on; none once VSTART has reached VCNT
(R125, R112; log 29). -/
def scaleUnits (c : Core) : List Nat :=
  (List.range (ceilDiv (vCnt c) 32)).filter (fun j => decide (vStart c < min (32 * j + 32) (vCnt c)))

/-- VLDSC, VSTSC (R125): the scale bytes of the group's blocks, in the low bytes of the single register vd.
They require MK = 0 and so use no mask register: vm is RsvZ (R66). -/
def execVldscVstsc (h : Issue) (st_ : Bool) (vd : BitVec 6) (rs1 : Reg) (m : VMask) (s : State) : Out :=
  s.cmd fun s =>
  let w := wordOf (.vldscVstsc h st_ vd rs1 m)
  s.issue h w (fun s =>
    let c := h.core.val
    let k := s.core c
    let us := scaleUnits k
    let addr (j : Nat) : Word := xget k rs1 + w64 j
    if m.masked ∨ m.vm ≠ 0 then .trap s (tIllegal w)
    else if st_ then
      .writes c vDone stopAtElem (s.writes c false (us.map (fun j =>
        fullWrite (32 * j) (addr j) 1 [BitVec.ofNat 8 (vElem k.vec.v vd.toNat 8 j)])))
    else
      .reads c (fun l k => vWrite k vd.toNat 8 (l.map (fun e => (e.1 / 32, ofBytes e.2)))) stopAtElem vDone
        (s.reads c (us.map (fun j => { idx := 32 * j, va := addr j, align := 1, n := 1 }))))

/-- DETAIL of GATHER_FAULT (Table 6.9). -/
def gatherDetail (st : Bool) (sub kind i : Nat) : BitVec 32 :=
  BitVec.ofNat 32 (b2n st * 2 ^ 16 + sub * 2 ^ 13 + kind * 2 ^ 10 + i)

/-- The trap of an Awl's access as GATHER_FAULT (R129): register space and the core-local window are reserved ranges to an
Awl (R17, R20). ADDR is the element address. -/
def gatherTrap (st : Bool) (i : Nat) (va : Word) (t : Trap) : Trap :=
  let d := t.detail.toNat
  if t.code = cMISALIGNED then ⟨cGATHER_FAULT, va, gatherDetail st 0 3 i⟩
  else if t.code = cACCESS then ⟨cGATHER_FAULT, va, gatherDetail st (if d = 3 then 1 else d) 2 i⟩
  else ⟨cGATHER_FAULT, va, gatherDetail st d 1 i⟩

/-- Pieces that an Awl can reach (R17, R20). -/
def awlReach (ps : List Piece) : Bool := ps.all (fun p => match p.loc with | .locl _ | .reg _ _ => false | _ => true)

/-- Alignment, translation and checks of an element of a gather or scatter. -/
def State.awlAim (s : State) (c : Nat) (kind : AccKind) (va : Word) (n : Nat) : State × Except Trap (List Piece) :=
  match s.aim c kind false va n n with
  | (s, .ok ps) => (s, if awlReach ps then .ok ps else .error (tAccess va 1))
  | x => x

/-- Gather elements in order: index and address of each. -/
def State.gatherRun (c n : Nat) : List (Nat × Word) → List (Nat × List Byte) → State → State × RdRes
  | [], acc, s => (s, .done acc)
  | (i, va) :: l, acc, s =>
    match s.awlAim c .load va n with
    | (s, .error t) => (s, .trap i (gatherTrap false i va t) acc)
    | (s, .ok ps) =>
      match State.loadPieces c .l2 3 ps s with
      | (s, .ok b) => State.gatherRun c n l (acc ++ [(i, b)]) s
      | (s, .bad _ d) => (s, .trap i (gatherTrap false i va (tAccess va d)) acc)
      | (s, .wait) => (s, .wait)

/-- Scatter elements in order from number `pos` on (R128, R130): index, address and bytes of each. -/
def State.scatterRun (c : Nat) : List (Nat × Word × List Byte) → Nat → Bool → State → State × WrRes
  | [], _, _, s => (s, .done)
  | (i, va, b) :: l, pos, sent, s =>
    match s.awlAim c .store va b.length with
    | (s, .error t) => (s, .trap i (gatherTrap true i va t))
    | (s, .ok ps) =>
      match s.storePieces c true ps b [] sent with
      | (s, .done) => State.scatterRun c l (pos + 1) false s
      | (s, .bad _ d) => (s, .trap i (gatherTrap true i va (tAccess va d)))
      | (s, .wait x) => (s.setStorePos c (2 * pos + b2n x), .wait)

/-- The Awl that serves a core counts the elements it took, the distinct lines, the fault (R127, Table 12.6; log 29). -/
def State.awlDone (s : State) (c : Nat) (els : List Word) (faults : Nat) : State :=
  s.awlCount (c / 64) (4 * (c / 8 % 8) + c % 4) els.length (els.map (fun a => a.toNat / 128)).eraseDups.length faults

/-- Elements up to and with element `i`. -/
def upTo (l : List (Nat × Word)) (i : Nat) : List Word := (l.filter (fun e => decide (e.1 ≤ i))).map (·.2)

/-- What VGATHER and VSCATTER check, and the addresses of the active elements (R127): none for ILLEGAL_INSN. -/
def gatherPlan (x : Ctx) (k : Core) (vd vs2 : BitVec 6) (rs1 : Reg) (m : VMask) (iw sh : BitVec 2) : Option (List (Nat × Word)) :=
  let t := vType x k
  let w := tyWidth t
  let xw := if iw = 0 then 32 else 64
  match vDerived (vG k) xw w with
  | none => none
  | some dg =>
    if 2 ≤ iw.toNat ∨ unitElems t = 2 ∨ !groupsOk [(vd.toNat, vG k), (vs2.toNat, dg)] then none
    else
      some ((vActive k m).map (fun i =>
        let v := vElem k.vec.v vs2.toNat xw i
        let ix : Word := if iw = 0 then (BitVec.ofNat 32 v).signExtend 64 else BitVec.ofNat 64 v
        (i, xget k rs1 + (ix <<< sh.toNat))))

/-- VGATHER (R127 to R129). -/
def execVgather (h : Issue) (vd vs2 : BitVec 6) (rs1 : Reg) (m : VMask) (iw sh : BitVec 2) (s : State) : Out :=
  s.cmd fun s =>
  let w := wordOf (.vgather h vd vs2 rs1 m iw sh)
  s.issue h w (fun s =>
    let c := h.core.val
    let k := s.core c
    let x := s.ctxOf c
    let wd := tyWidth (vType x k)
    match gatherPlan x k vd vs2 rs1 m iw sh with
    | none => .trap s (tIllegal w)
    | some l =>
      let put (l : List (Nat × List Byte)) (k : Core) : Core := vWrite k vd.toNat wd (l.map (fun e => (e.1, ofBytes e.2)))
      match State.gatherRun c (wd / 8) l [] (s.drainWcb c) with
      | (s, .wait) => .stay s
      | (s, .done r) => .reads c put stopAtElem vDone (s.awlDone c (l.map (·.2)) 0, .done r)
      | (s, .trap i t r) => .reads c put stopAtElem vDone (s.awlDone c (upTo l i) 1, .trap i t r))

/-- VSCATTER (R127 to R130). -/
def execVscatter (h : Issue) (vs3 vs2 : BitVec 6) (rs1 : Reg) (m : VMask) (iw sh : BitVec 2) (s : State) : Out :=
  s.cmd fun s =>
  let w := wordOf (.vscatter h vs3 vs2 rs1 m iw sh)
  s.issue h w (fun s =>
    let c := h.core.val
    let k := s.core c
    let x := s.ctxOf c
    let wd := tyWidth (vType x k)
    match gatherPlan x k vs3 vs2 rs1 m iw sh with
    | none => .trap s (tIllegal w)
    | some l =>
      let jobs := l.map (fun e => (e.1, e.2, toBytes (wd / 8) (vElem k.vec.v vs3.toNat wd e.1)))
      let p := k.mem.prog
      match State.scatterRun c (jobs.drop (p / 2)) (p / 2) (decide (p % 2 = 1)) (s.drainWcb c) with
      | (s, .wait) => .stay s
      | (s, .done) => .writes c vDone stopAtElem (s.awlDone c (l.map (·.2)) 0, .done)
      | (s, .trap i t) => .writes c vDone stopAtElem (s.awlDone c (upTo l i) 1, .trap i t))

end Sys2Proof.Machine
end

