-- ==== Sys2Proof/Machine/Dispatch.lean ====
section
/-! DEFINITION. One arm per command: its meaning. -/

namespace Sys2Proof.Machine

def exec (i : Instr) (s : State) : Host.Outcome State Fault Refusal :=
  match i with
  | .addSubLogicShift h op rd rs1 rs2 => Sys2Proof.Machine.execAddSubLogicShift h op rd rs1 rs2 s
  | .sltSltu h uns rd rs1 rs2 => Sys2Proof.Machine.execSltSltu h uns rd rs1 rs2 s
  | .minMax h op rd rs1 rs2 => Sys2Proof.Machine.execMinMax h op rd rs1 rs2 s
  | .addoSubo h sub rd rs1 rs2 => Sys2Proof.Machine.execAddoSubo h sub rd rs1 rs2 s
  | .clzCtzPopc h op rd rs1 => Sys2Proof.Machine.execClzCtzPopc h op rd rs1 s
  | .sextWZextW h zero rd rs1 => Sys2Proof.Machine.execSextWZextW h zero rd rs1 s
  | .addiAndiOriXoriSlti h op rd rs1 imm => Sys2Proof.Machine.execAddiAndiOriXoriSlti h op rd rs1 imm s
  | .shi h kind amount rd rs1 => Sys2Proof.Machine.execShi h kind amount rd rs1 s
  | .lsi h rd rs1 imm => Sys2Proof.Machine.execLsi h rd rs1 imm s
  | .mulMulhMulhu h op rd rs1 rs2 => Sys2Proof.Machine.execMulMulhMulhu h op rd rs1 rs2 s
  | .mulo h rd rs1 rs2 => Sys2Proof.Machine.execMulo h rd rs1 rs2 s
  | .divDivuRemRemu h op rd rs1 rs2 => Sys2Proof.Machine.execDivDivuRemRemu h op rd rs1 rs2 s
  | .load h size rd rs1 off => Sys2Proof.Machine.execLoad h size rd rs1 off s
  | .ldk h rd rs1 off => Sys2Proof.Machine.execLdk h rd rs1 off s
  | .store h size rs2 rs1 off => Sys2Proof.Machine.execStore h size rs2 rs1 off s
  | .wcbIdleDrain core line => Sys2Proof.Machine.execWcbIdleDrain core line s
  | .branch h cond rs1 rs2 woff => Sys2Proof.Machine.execBranch h cond rs1 rs2 woff s
  | .jal h rd woff => Sys2Proof.Machine.execJal h rd woff s
  | .jalr h rd rs1 imm => Sys2Proof.Machine.execJalr h rd rs1 imm s
  | .loop h level rs1 lenM1 => Sys2Proof.Machine.execLoop h level rs1 lenM1 s
  | .loopX h level => Sys2Proof.Machine.execLoopX h level s
  | .crget h rd creg => Sys2Proof.Machine.execCrget h rd creg s
  | .crput h creg rs1 => Sys2Proof.Machine.execCrput h creg rs1 s
  | .crswap h rd creg rs1 => Sys2Proof.Machine.execCrswap h rd creg rs1 s
  | .crbset h rd creg rs1 => Sys2Proof.Machine.execCrbset h rd creg rs1 s
  | .crbclr h rd creg rs1 => Sys2Proof.Machine.execCrbclr h rd creg rs1 s
  | .lbcfgWrite h a => Sys2Proof.Machine.execLbcfgWrite h a s
  | .coreCfgWrite h a => Sys2Proof.Machine.execCoreCfgWrite h a s
  | .tlbInvPage h rs1 rs2 => Sys2Proof.Machine.execTlbInvPage h rs1 rs2 s
  | .tlbInvAsid h rs1 rs2 => Sys2Proof.Machine.execTlbInvAsid h rs1 rs2 s
  | .tlbInvAll h rs1 rs2 => Sys2Proof.Machine.execTlbInvAll h rs1 rs2 s
  | .faddFsubFmul h fp16 op rd rs1 rs2 => Sys2Proof.Machine.execFaddFsubFmul h fp16 op rd rs1 rs2 s
  | .fminFmax h fp16 max rd rs1 rs2 => Sys2Proof.Machine.execFminFmax h fp16 max rd rs1 rs2 s
  | .fma h fp16 rd rs1 rs2 => Sys2Proof.Machine.execFma h fp16 rd rs1 rs2 s
  | .fcmp h fp16 op rd rs1 rs2 => Sys2Proof.Machine.execFcmp h fp16 op rd rs1 rs2 s
  | .fcvtF h fp16 rd rs1 => Sys2Proof.Machine.execFcvtF h fp16 rd rs1 s
  | .fcvtFi h fp16 rd rs1 => Sys2Proof.Machine.execFcvtFi h fp16 rd rs1 s
  | .fcvtIf h fp16 rd rs1 => Sys2Proof.Machine.execFcvtIf h fp16 rd rs1 s
  | .fdiv h fp16 rd rs1 rs2 => Sys2Proof.Machine.execFdiv h fp16 rd rs1 rs2 s
  | .fsqrt h fp16 rd rs1 => Sys2Proof.Machine.execFsqrt h fp16 rd rs1 s
  | .interrupt core => Sys2Proof.Machine.execInterrupt core s
  | .tret h => Sys2Proof.Machine.execTret h s
  | .gate h n => Sys2Proof.Machine.execGate h n s
  | .gret h => Sys2Proof.Machine.execGret h s
  | .wfe h => Sys2Proof.Machine.execWfe h s
  | .halt h rs1 => Sys2Proof.Machine.execHalt h rs1 s
  | .watchdog core => Sys2Proof.Machine.execWatchdog core s
  | .wdkickWrite h a => Sys2Proof.Machine.execWdkickWrite h a s
  | .ctcmpMatch core => Sys2Proof.Machine.execCtcmpMatch core s
  | .ctcmpWrite h a => Sys2Proof.Machine.execCtcmpWrite h a s
  | .vsetn h rd rs1 => Sys2Proof.Machine.execVsetn h rd rs1 s
  | .vshapeWrite h a => Sys2Proof.Machine.execVshapeWrite h a s
  | .vaddVsubLogicShift h op vd vs1 src m => Sys2Proof.Machine.execVaddVsubLogicShift h op vd vs1 src m s
  | .vmulVmulhVmulhu h op vd vs1 src m => Sys2Proof.Machine.execVmulVmulhVmulhu h op vd vs1 src m s
  | .vqaddVqsub h op vd vs1 src m => Sys2Proof.Machine.execVqaddVqsub h op vd vs1 src m s
  | .vqrmul h vd vs1 src m => Sys2Proof.Machine.execVqrmul h vd vs1 src m s
  | .vqshrVqshrnVqshl h op vd vs1 src m => Sys2Proof.Machine.execVqshrVqshrnVqshl h op vd vs1 src m s
  | .vfaddVfsubVfmul h op st_ vd vs1 src m => Sys2Proof.Machine.execVfaddVfsubVfmul h op st_ vd vs1 src m s
  | .vfmaVfms h sub st_ vd vs1 src m => Sys2Proof.Machine.execVfmaVfms h sub st_ vd vs1 src m s
  | .vfdivVfsqrt h sqrt st_ vd vs1 src m => Sys2Proof.Machine.execVfdivVfsqrt h sqrt st_ vd vs1 src m s
  | .vfminVfmaxVfsgn h op st_ vd vs1 src m => Sys2Proof.Machine.execVfminVfmaxVfsgn h op st_ vd vs1 src m s
  | .vmseqVmfleCompare h op md vs1 vs2 m => Sys2Proof.Machine.execVmseqVmfleCompare h op md vs1 vs2 m s
  | .vmandVmorVmxorVmandn h op md ms1 ms2 => Sys2Proof.Machine.execVmandVmorVmxorVmandn h op md ms1 ms2 s
  | .vmsetVmclr h clr md => Sys2Proof.Machine.execVmsetVmclr h clr md s
  | .vmpopc h rd ms1 => Sys2Proof.Machine.execVmpopc h rd ms1 s
  | .vmfirst h rd ms1 => Sys2Proof.Machine.execVmfirst h rd ms1 s
  | .vcvt h dst vd vs1 vs2 m => Sys2Proof.Machine.execVcvt h dst vd vs1 vs2 m s
  | .vmv h vd vs1 m => Sys2Proof.Machine.execVmv h vd vs1 m s
  | .vmvVx h vd rs2 m => Sys2Proof.Machine.execVmvVx h vd rs2 m s
  | .vmvXv h rd vs1 m => Sys2Proof.Machine.execVmvXv h rd vs1 m s
  | .vslidedn h vd vs1 rs2 m => Sys2Proof.Machine.execVslidedn h vd vs1 rs2 m s
  | .vslideup h vd vs1 rs2 m => Sys2Proof.Machine.execVslideup h vd vs1 rs2 m s
  | .vmerge h vd vs1 vs2 m => Sys2Proof.Machine.execVmerge h vd vs1 vs2 m s
  | .vredsum h st_ vd vs1 m => Sys2Proof.Machine.execVredsum h st_ vd vs1 m s
  | .vredmaxVredminVredamax h op st_ vd vs1 m => Sys2Proof.Machine.execVredmaxVredminVredamax h op st_ vd vs1 m s
  | .vldVst h st vd rs1 m => Sys2Proof.Machine.execVldVst h st vd rs1 m s
  | .vldsVsts h st vd rs1 rs2 m => Sys2Proof.Machine.execVldsVsts h st vd rs1 rs2 m s
  | .vldscVstsc h st vd rs1 m => Sys2Proof.Machine.execVldscVstsc h st vd rs1 m s
  | .vemit h vs ta rs1 => Sys2Proof.Machine.execVemit h vs ta rs1 s
  | .vemitD h vs ta tb rs1 => Sys2Proof.Machine.execVemitD h vs ta tb rs1 s
  | .vgather h vd vs2 rs1 m iw sh => Sys2Proof.Machine.execVgather h vd vs2 rs1 m iw sh s
  | .vscatter h vs3 vs2 rs1 m iw sh => Sys2Proof.Machine.execVscatter h vs3 vs2 rs1 m iw sh s
  | .tldR h tn rs1 rs2 => Sys2Proof.Machine.execTldR h tn rs1 rs2 s
  | .tstR h tn rs1 rs2 => Sys2Proof.Machine.execTstR h tn rs1 rs2 s
  | .tldS h tn rs1 => Sys2Proof.Machine.execTldS h tn rs1 s
  | .tstS h tn rs1 => Sys2Proof.Machine.execTstS h tn rs1 s
  | .tzero h tn => Sys2Proof.Machine.execTzero h tn s
  | .tcfgWrite h n a => Sys2Proof.Machine.execTcfgWrite h n a s
  | .kStep core => Sys2Proof.Machine.execKStep core s
  | .opa h acc ta da tb db rs1 => Sys2Proof.Machine.execOpa h acc ta da tb db rs1 s
  | .opaP h hp st_ ts ds tx ty dxy rs1 => Sys2Proof.Machine.execOpaP h hp st_ ts ds tx ty dxy rs1 s
  | .opaQ h ta0 ta1 da tb0 tb1 db rs1 => Sys2Proof.Machine.execOpaQ h ta0 ta1 da tb0 tb1 db rs1 s
  | .opaW h acc tb db vs vsc rs1 => Sys2Proof.Machine.execOpaW h acc tb db vs vsc rs1 s
  | .accClr h acc wide => Sys2Proof.Machine.execAccClr h acc wide s
  | .accRd h acc td rs1 => Sys2Proof.Machine.execAccRd h acc td rs1 s
  | .accRdD h acc td te rs1 rs2 => Sys2Proof.Machine.execAccRdD h acc td te rs1 rs2 s
  | .accWr h acc ta rs1 => Sys2Proof.Machine.execAccWr h acc ta rs1 s
  | .accEmulMul h acc ta rs1 => Sys2Proof.Machine.execAccEmulMul h acc ta rs1 s
  | .accEmulAdd h acc ta rs1 => Sys2Proof.Machine.execAccEmulAdd h acc ta rs1 s
  | .accEmulMulB h acc ta rs1 => Sys2Proof.Machine.execAccEmulMulB h acc ta rs1 s
  | .accEmulAddB h acc ta rs1 => Sys2Proof.Machine.execAccEmulAddB h acc ta rs1 s
  | .accGets h acc rd sel => Sys2Proof.Machine.execAccGets h acc rd sel s
  | .accPuts h acc rs1 sel => Sys2Proof.Machine.execAccPuts h acc rs1 sel s
  | .opaMpIlo h acc ta da tb db rs1 => Sys2Proof.Machine.execOpaMpIlo h acc ta da tb db rs1 s
  | .opaMpIhi h acc ta da tb db rs1 => Sys2Proof.Machine.execOpaMpIhi h acc ta da tb db rs1 s
  | .opaMpCre h acc ta da tb db rs1 => Sys2Proof.Machine.execOpaMpCre h acc ta da tb db rs1 s
  | .opaMpCim h acc ta da tb db rs1 => Sys2Proof.Machine.execOpaMpCim h acc ta da tb db rs1 s
  | .engineParity core => Sys2Proof.Machine.execEngineParity core s
  | .harnessReport core acc mark => Sys2Proof.Machine.execHarnessReport core acc mark s
  | .censusCount die slot part queue n => Sys2Proof.Machine.execCensusCount die slot part queue n s
  | .censusCfg p => Sys2Proof.Machine.execCensusCfg p s
  | .censusRead p => Sys2Proof.Machine.execCensusRead p s
  | .layerBegin p => Sys2Proof.Machine.execLayerBegin p s
  | .layerCommit p => Sys2Proof.Machine.execLayerCommit p s
  | .acknowledgedSignal src part o v tag => Sys2Proof.Machine.execAcknowledgedSignal src part o v tag s
  | .l1Fill core line => Sys2Proof.Machine.execL1Fill core line s
  | .l2Access pa req => Sys2Proof.Machine.execL2Access pa req s
  | .l2Fill pa => Sys2Proof.Machine.execL2Fill pa s
  | .controlCacheAccess die side pa => Sys2Proof.Machine.execControlCacheAccess die side pa s
  | .flush p => Sys2Proof.Machine.execFlush p s
  | .inval p => Sys2Proof.Machine.execInval p s
  | .flushInval p => Sys2Proof.Machine.execFlushInval p s
  | .dead p => Sys2Proof.Machine.execDead p s
  | .lock p => Sys2Proof.Machine.execLock p s
  | .unlock p => Sys2Proof.Machine.execUnlock p s
  | .unlockDiscard p => Sys2Proof.Machine.execUnlockDiscard p s
  | .groupOpen p => Sys2Proof.Machine.execGroupOpen p s
  | .groupAbort p => Sys2Proof.Machine.execGroupAbort p s
  | .contribution c => Sys2Proof.Machine.execContribution c s
  | .groupTimeout die part g => Sys2Proof.Machine.execGroupTimeout die part g s
  | .fenceM h => Sys2Proof.Machine.execFenceM h s
  | .fenceMInv h => Sys2Proof.Machine.execFenceMInv h s
  | .fenceT h => Sys2Proof.Machine.execFenceT h s
  | .fenceS h => Sys2Proof.Machine.execFenceS h s
  | .fenceI h => Sys2Proof.Machine.execFenceI h s
  | .syncSig h op ord rs1 rs2 => Sys2Proof.Machine.execSyncSig h op ord rs1 rs2 s
  | .syncWait h cond ord rs1 rs2 => Sys2Proof.Machine.execSyncWait h cond ord rs1 rs2 s
  | .syncArm h slot cond rs1 rs2 => Sys2Proof.Machine.execSyncArm h slot cond rs1 rs2 s
  | .syncDisarm h slot => Sys2Proof.Machine.execSyncDisarm h slot s
  | .syncRd h rd rs1 => Sys2Proof.Machine.execSyncRd h rd rs1 s
  | .signalApply o op v => Sys2Proof.Machine.execSignalApply o op v s
  | .synValWrite o v => Sys2Proof.Machine.execSynValWrite o v s
  | .streamBind p => Sys2Proof.Machine.execStreamBind p s
  | .streamRun p => Sys2Proof.Machine.execStreamRun p s
  | .streamUnbind p => Sys2Proof.Machine.execStreamUnbind p s
  | .descriptorRun x => Sys2Proof.Machine.execDescriptorRun x s
  | .runComplete x => Sys2Proof.Machine.execRunComplete x s
  | .chroupNop x => Sys2Proof.Machine.execChroupNop x s
  | .chEnd x => Sys2Proof.Machine.execChEnd x s
  | .chroupLoop x => Sys2Proof.Machine.execChroupLoop x s
  | .seta x => Sys2Proof.Machine.execSeta x s
  | .pat x => Sys2Proof.Machine.execPat x s
  | .strd x => Sys2Proof.Machine.execStrd x s
  | .ind x => Sys2Proof.Machine.execInd x s
  | .chroupCopy x => Sys2Proof.Machine.execChroupCopy x s
  | .emit x => Sys2Proof.Machine.execEmit x s
  | .mcast x => Sys2Proof.Machine.execMcast x s
  | .mcastDetach x => Sys2Proof.Machine.execMcastDetach x s
  | .red x => Sys2Proof.Machine.execRed x s
  | .redRetry x => Sys2Proof.Machine.execRedRetry x s
  | .pref x => Sys2Proof.Machine.execPref x s
  | .chroupWait x => Sys2Proof.Machine.execChroupWait x s
  | .chroupSig x => Sys2Proof.Machine.execChroupSig x s
  | .tanneryTransfer die => Sys2Proof.Machine.execTanneryTransfer die s
  | .offload p => Sys2Proof.Machine.execOffload p s
  | .prefetch p => Sys2Proof.Machine.execPrefetch p s
  | .stepBegin p => Sys2Proof.Machine.execStepBegin p s
  | .stepEnd p => Sys2Proof.Machine.execStepEnd p s
  | .hrnQtailWrite q v => Sys2Proof.Machine.execHrnQtailWrite q v s
  | .hrnQrdoneWrite q v => Sys2Proof.Machine.execHrnQrdoneWrite q v s
  | .hrnQresumeWrite q v => Sys2Proof.Machine.execHrnQresumeWrite q v s
  | .packetRead q => Sys2Proof.Machine.execPacketRead q s
  | .replyWrite q => Sys2Proof.Machine.execReplyWrite q s
  | .nop p => Sys2Proof.Machine.execNop p s
  | .launch p => Sys2Proof.Machine.execLaunch p s
  | .taskEnd core => Sys2Proof.Machine.execTaskEnd core s
  | .copy p => Sys2Proof.Machine.execCopy p s
  | .fill p => Sys2Proof.Machine.execFill p s
  | .syncSignal p => Sys2Proof.Machine.execSyncSignal p s
  | .syncWaitPacket p => Sys2Proof.Machine.execSyncWaitPacket p s
  | .syncWaitTimeout p => Sys2Proof.Machine.execSyncWaitTimeout p s
  | .fence p => Sys2Proof.Machine.execFence p s
  | .partCreate p => Sys2Proof.Machine.execPartCreate p s
  | .partDestroy p => Sys2Proof.Machine.execPartDestroy p s
  | .map p => Sys2Proof.Machine.execMap p s
  | .unmap p => Sys2Proof.Machine.execUnmap p s
  | .linkQuery p => Sys2Proof.Machine.execLinkQuery p s
  | .linkCtrlDown p => Sys2Proof.Machine.execLinkCtrlDown p s
  | .linkCtrlUp p => Sys2Proof.Machine.execLinkCtrlUp p s
  | .linkCtrlRetrain p => Sys2Proof.Machine.execLinkCtrlRetrain p s
  | .linkCtrlHalf p => Sys2Proof.Machine.execLinkCtrlHalf p s
  | .linkCtrlFull p => Sys2Proof.Machine.execLinkCtrlFull p s
  | .linkCtrlTimeout p => Sys2Proof.Machine.execLinkCtrlTimeout p s
  | .powerSet p => Sys2Proof.Machine.execPowerSet p s
  | .health p => Sys2Proof.Machine.execHealth p s
  | .logRead p => Sys2Proof.Machine.execLogRead p s
  | .calRead p => Sys2Proof.Machine.execCalRead p s
  | .calWrite p => Sys2Proof.Machine.execCalWrite p s
  | .attest p => Sys2Proof.Machine.execAttest p s
  | .fwUpdate p => Sys2Proof.Machine.execFwUpdate p s
  | .inject p => Sys2Proof.Machine.execInject p s
  | .hostApertureAccess port f off a => Sys2Proof.Machine.execHostApertureAccess port f off a s
  | .hostQueuePageAccess port f off a => Sys2Proof.Machine.execHostQueuePageAccess port f off a s
  | .hostWindowAccess part pa a => Sys2Proof.Machine.execHostWindowAccess part pa a s
  | .hostCompletion port tag r => Sys2Proof.Machine.execHostCompletion port tag r s
  | .hostCompletionTimeout port tag => Sys2Proof.Machine.execHostCompletionTimeout port tag s
  | .inboundHostWrite port f lpa bytes ep => Sys2Proof.Machine.execInboundHostWrite port f lpa bytes ep s
  | .msiWrite port addr => Sys2Proof.Machine.execMsiWrite port addr s
  | .secRecovWrite v => Sys2Proof.Machine.execSecRecovWrite v s
  | .patrolScrub die ch sub => Sys2Proof.Machine.execPatrolScrub die ch sub s
  | .refresh die ch sub bank => Sys2Proof.Machine.execRefresh die ch sub bank s
  | .selfRefreshEntry die ch => Sys2Proof.Machine.execSelfRefreshEntry die ch s
  | .selfRefreshExit die ch => Sys2Proof.Machine.execSelfRefreshExit die ch s
  | .frameReceive port f crcOk fec => Sys2Proof.Machine.execFrameReceive port f crcOk fec s
  | .put f => Sys2Proof.Machine.execPut f s
  | .get f => Sys2Proof.Machine.execGet f s
  | .getr f => Sys2Proof.Machine.execGetr f s
  | .reduce f => Sys2Proof.Machine.execReduce f s
  | .signal f => Sys2Proof.Machine.execSignal f s
  | .mcastFrame f => Sys2Proof.Machine.execMcastFrame f s
  | .resp f => Sys2Proof.Machine.execResp f s
  | .fabE2eTimeout tag => Sys2Proof.Machine.execFabE2eTimeout tag s
  | .psnSignalResend tag => Sys2Proof.Machine.execPsnSignalResend tag s
  | .nak port seq => Sys2Proof.Machine.execNak port seq s
  | .credit port vc n => Sys2Proof.Machine.execCredit port vc n s
  | .hello port payload => Sys2Proof.Machine.execHello port payload s
  | .helloSend port => Sys2Proof.Machine.execHelloSend port s
  | .helloTimeout port => Sys2Proof.Machine.execHelloTimeout port s
  | .trainingAttempt port lanes => Sys2Proof.Machine.execTrainingAttempt port lanes s
  | .fecLock port => Sys2Proof.Machine.execFecLock port s
  | .lossOfLock port => Sys2Proof.Machine.execLossOfLock port s
  | .lsa port payload => Sys2Proof.Machine.execLsa port payload s
  | .routeUpdate org => Sys2Proof.Machine.execRouteUpdate org s
  | .ethernetTransmit eth part => Sys2Proof.Machine.execEthernetTransmit eth part s
  | .ethernetReceive eth frame fcs => Sys2Proof.Machine.execEthernetReceive eth frame fcs s
  | .inputSample mv ma => Sys2Proof.Machine.execInputSample mv ma s
  | .powerLoss => Sys2Proof.Machine.execPowerLoss s
  | .fastCurrentLimitEnd => Sys2Proof.Machine.execFastCurrentLimitEnd s
  | .clusterOff cluster => Sys2Proof.Machine.execClusterOff cluster s
  | .l2HalfOff die half => Sys2Proof.Machine.execL2HalfOff die half s
  | .domainWake domain => Sys2Proof.Machine.execDomainWake domain s
  | .dvfsChange => Sys2Proof.Machine.execDvfsChange s
  | .capEvaluation tick => Sys2Proof.Machine.execCapEvaluation tick s
  | .sensorRead temps lpddrC => Sys2Proof.Machine.execSensorRead temps lpddrC s
  | .thermalStep => Sys2Proof.Machine.execThermalStep s
  | .porst ticks fcfg hmode dbgen => Sys2Proof.Machine.execPorst ticks fcfg hmode dbgen s
  | .romBoot => Sys2Proof.Machine.execRomBoot s
  | .firmwareBoot => Sys2Proof.Machine.execFirmwareBoot s
  | .ready => Sys2Proof.Machine.execReady s
  | .leafReserve => Sys2Proof.Machine.execLeafReserve s
  | .logRecord type part src payload => Sys2Proof.Machine.execLogRecord type part src payload s
  | .logFlush => Sys2Proof.Machine.execLogFlush s
  | .injGoWrite unit v => Sys2Proof.Machine.execInjGoWrite unit v s
  | .knownAnswerTest core d => Sys2Proof.Machine.execKnownAnswerTest core d s
  | .retirementCommit => Sys2Proof.Machine.execRetirementCommit s
  | .healthEvaluation => Sys2Proof.Machine.execHealthEvaluation s
  | .dbgReset core => Sys2Proof.Machine.execDbgReset core s
  | .dbgRestart core => Sys2Proof.Machine.execDbgRestart core s
  | .dbgreq core => Sys2Proof.Machine.execDbgreq core s
  | .regacc addr write => Sys2Proof.Machine.execRegacc addr write s
  | .idcode => Sys2Proof.Machine.execIdcode s
  | .bypass => Sys2Proof.Machine.execBypass s
  | .samplePreload preload => Sys2Proof.Machine.execSamplePreload preload s
  | .extest => Sys2Proof.Machine.execExtest s
  | .registerWrite addr bytes v => Sys2Proof.Machine.execRegisterWrite addr bytes v s
  | .powerUp => Sys2Proof.Machine.execPowerUp s
  | .hostLinkUp port widthLog rate cxl => Sys2Proof.Machine.execHostLinkUp port widthLog rate cxl s
  | .hostLinkDown port => Sys2Proof.Machine.execHostLinkDown port s
  | .ethernetLinkChange eth rate => Sys2Proof.Machine.execEthernetLinkChange eth rate s
  | .bottomTreeBuilt => Sys2Proof.Machine.execBottomTreeBuilt s

end Sys2Proof.Machine
end

