-- ==== Sys2Proof/Machine/DecodeWord.lean ====
section
/-! DEFINITION. The core instruction that a 32-bit word holds, from the encoding tables of 04, 05, 06, 07, 08 and 11: the
other way of Machine/Encode.lean. A word that no table assigns is an unassigned operation (R66); the bits of a word that its
format marks RsvZ are the `rsvz` of the command (R9). -/

namespace Sys2Proof.Machine

/-- A field of `n` bits of an instruction word. -/
def cut (w : BitVec 32) (lo n : Nat) : BitVec n := w.extractLsb' lo n

/-- A field as a number. -/
def cutN (w : BitVec 32) (lo n : Nat) : Nat := (cut w lo n).toNat

/-- A one-bit field. -/
def cutB (w : BitVec 32) (lo : Nat) : Bool := w.getLsbD lo

/-- A direction bit. -/
def cutDir (w : BitVec 32) (lo : Nat) : Dir := if cutB w lo then .col else .row

/-- A register number field. -/
def cutR (w : BitVec 32) (lo : Nat) : Reg := cut w lo 5

/-- An accumulator or arm-slot field. -/
def cut4 (w : BitVec 32) (lo : Nat) : Fin 4 := ⟨cutN w lo 2, (cut w lo 2).isLt⟩

/-- A loop-level or half-pair field. -/
def cut2 (w : BitVec 32) (lo : Nat) : Fin 2 := ⟨cutN w lo 1, (cut w lo 1).isLt⟩

/-- The vm and MK fields (Table 6.4). -/
def cutMask (w : BitVec 32) : VMask := ⟨cut w 5 3, cutB w 4⟩

/-- The second operand of formats VV and VX. -/
def cutSrc (w : BitVec 32) (sca : Bool) : VSrc := if sca then .sca (cutR w 8) else .vec (cut w 8 6)

/-- A word that no table assigns. -/
def decBad (h : Issue) (w : BitVec 32) : Instr := .addSubLogicShift h (.unassigned w) 0 0 0

/-- Major 0x00 (Table 4.3). -/
def dec00 (h : Issue) (w : BitVec 32) : Instr :=
  let rd := cutR w 21
  let a := cutR w 16
  let b := cutR w 11
  match cutN w 0 11 with
  | 0x0 => .addSubLogicShift h .add rd a b
  | 0x1 => .addSubLogicShift h .sub rd a b
  | 0x2 => .addSubLogicShift h .and rd a b
  | 0x3 => .addSubLogicShift h .or rd a b
  | 0x4 => .addSubLogicShift h .xor rd a b
  | 0x5 => .addSubLogicShift h .sll rd a b
  | 0x6 => .addSubLogicShift h .srl rd a b
  | 0x7 => .addSubLogicShift h .sra rd a b
  | 0x8 => .sltSltu h false rd a b
  | 0x9 => .sltSltu h true rd a b
  | 0xA => .addoSubo h false rd a b
  | 0xB => .addoSubo h true rd a b
  | 0xC => .minMax h .min rd a b
  | 0xD => .minMax h .max rd a b
  | 0xE => .minMax h .minu rd a b
  | 0xF => .minMax h .maxu rd a b
  | 0x10 => .clzCtzPopc h .clz rd a
  | 0x11 => .clzCtzPopc h .ctz rd a
  | 0x12 => .clzCtzPopc h .popc rd a
  | 0x13 => .sextWZextW h false rd a
  | 0x14 => .sextWZextW h true rd a
  | _ => decBad h w

/-- Major 0x01 (Table 4.4). -/
def dec01 (h : Issue) (w : BitVec 32) : Instr :=
  let rd := cutR w 21
  let a := cutR w 16
  let b := cutR w 11
  match cutN w 0 11 with
  | 0 => .mulMulhMulhu h .mul rd a b
  | 1 => .mulMulhMulhu h .mulh rd a b
  | 2 => .mulMulhMulhu h .mulhu rd a b
  | 3 => .mulo h rd a b
  | 4 => .divDivuRemRemu h .div rd a b
  | 5 => .divDivuRemRemu h .divu rd a b
  | 6 => .divDivuRemRemu h .rem rd a b
  | 7 => .divDivuRemRemu h .remu rd a b
  | _ => decBad h w

/-- Major 0x0A (Table 4.5). -/
def decLoad (h : Issue) (w : BitVec 32) : Instr :=
  let rd := cutR w 21
  let a := cutR w 16
  let off := cut w 0 13
  match cutN w 13 3 with
  | 0 => .load h .lb rd a off
  | 1 => .load h .lbu rd a off
  | 2 => .load h .lh rd a off
  | 3 => .load h .lhu rd a off
  | 4 => .load h .lw rd a off
  | 5 => .load h .lwu rd a off
  | 6 => .load h .ld rd a off
  | _ => .ldk h rd a off

/-- The op of a control-register write. -/
def crOpOf (n : Nat) : CrOp :=
  match n with
  | 1 => .put
  | 2 => .swap
  | 3 => .bset
  | _ => .bclr

/-- A control-register write: the registers that have rows of their own, then the rest (Tables 4.8, 4.9). -/
def decCrWrite (h : Issue) (w : BitVec 32) (op : CrOp) : Instr :=
  let rd : Reg := if op = .put then 0 else cutR w 21
  let rs := cutR w 16
  let creg := cut w 0 12
  let a : CrArgs := ⟨op, rd, rs⟩
  if creg = 0x070 then .lbcfgWrite h a
  else if creg = 0x200 then .coreCfgWrite h a
  else if creg = 0x141 then .wdkickWrite h a
  else if creg = 0x13D then .ctcmpWrite h a
  else if creg = 0x020 then .vshapeWrite h a
  else if cut w 4 8 = 0x03 then .tcfgWrite h (cut w 0 4) a
  else
    match op with
    | .put => .crput h creg rs
    | .swap => .crswap h rd creg rs
    | .bset => .crbset h rd creg rs
    | .bclr => .crbclr h rd creg rs

/-- Major 0x10 (Table 4.8). -/
def dec10 (h : Issue) (w : BitVec 32) : Instr :=
  match cutN w 12 4 with
  | 0 => .crget h (cutR w 21) (cut w 0 12)
  | 1 => decCrWrite h w .put
  | 2 => decCrWrite h w .swap
  | 3 => decCrWrite h w .bset
  | 4 => decCrWrite h w .bclr
  | _ => decBad h w

/-- Majors 0x18 to 0x1C (Table 4.7): bit 10 selects FP16. -/
def decFloat (h : Issue) (w : BitVec 32) (m : Nat) : Instr :=
  let p := cutB w 10
  let rd := cutR w 21
  let a := cutR w 16
  let b := cutR w 11
  match m, cutN w 0 10 with
  | 0x18, 0 => .faddFsubFmul h p .fadd rd a b
  | 0x18, 1 => .faddFsubFmul h p .fsub rd a b
  | 0x18, 2 => .faddFsubFmul h p .fmul rd a b
  | 0x18, 3 => .fminFmax h p false rd a b
  | 0x18, 4 => .fminFmax h p true rd a b
  | 0x19, 0 => .fma h p rd a b
  | 0x1A, 0 => .fcmp h p .eq rd a b
  | 0x1A, 1 => .fcmp h p .lt rd a b
  | 0x1A, 2 => .fcmp h p .le rd a b
  | 0x1B, 0 => .fcvtF h p rd a
  | 0x1B, 1 => .fcvtFi h p rd a
  | 0x1B, 2 => .fcvtIf h p rd a
  | 0x1C, 0 => .fdiv h p rd a b
  | 0x1C, 1 => .fsqrt h p rd a
  | _, _ => decBad h w

/-- Majors 0x21 and 0x22: integer, group or scalar second operand. -/
def decVInt (h : Issue) (w : BitVec 32) (sca : Bool) : Instr :=
  let vd := cut w 20 6
  let a := cut w 14 6
  let s := cutSrc w sca
  let m := cutMask w
  match cutN w 0 4 with
  | 0x0 => .vaddVsubLogicShift h .add vd a s m
  | 0x1 => .vaddVsubLogicShift h .sub vd a s m
  | 0x2 => .vaddVsubLogicShift h .and vd a s m
  | 0x3 => .vaddVsubLogicShift h .or vd a s m
  | 0x4 => .vaddVsubLogicShift h .xor vd a s m
  | 0x5 => .vaddVsubLogicShift h .sll vd a s m
  | 0x6 => .vaddVsubLogicShift h .srl vd a s m
  | 0x7 => .vaddVsubLogicShift h .sra vd a s m
  | 0x8 => .vaddVsubLogicShift h .min vd a s m
  | 0x9 => .vaddVsubLogicShift h .max vd a s m
  | 0xA => .vaddVsubLogicShift h .minu vd a s m
  | 0xB => .vaddVsubLogicShift h .maxu vd a s m
  | 0xC => .vmulVmulhVmulhu h .mul vd a s m
  | 0xD => .vmulVmulhVmulhu h .mulh vd a s m
  | 0xE => .vmulVmulhVmulhu h .mulhu vd a s m
  | _ => decBad h w

/-- Major 0x23: fixed point; bit 3 selects a scalar second operand. -/
def decVFix (h : Issue) (w : BitVec 32) : Instr :=
  let vd := cut w 20 6
  let a := cut w 14 6
  let s := cutSrc w (cutB w 3)
  let m := cutMask w
  match cutN w 0 3 with
  | 0 => .vqaddVqsub h .qadd vd a s m
  | 1 => .vqaddVqsub h .qaddu vd a s m
  | 2 => .vqaddVqsub h .qsub vd a s m
  | 3 => .vqaddVqsub h .qsubu vd a s m
  | 4 => .vqrmul h vd a s m
  | 5 => .vqshrVqshrnVqshl h .qshr vd a s m
  | 6 => .vqshrVqshrnVqshl h .qshrn vd a s m
  | _ => .vqshrVqshrnVqshl h .qshl vd a s m

/-- Majors 0x24 and 0x25: floating point; bit 3 is S. -/
def decVFloat (h : Issue) (w : BitVec 32) (sca : Bool) : Instr :=
  let vd := cut w 20 6
  let a := cut w 14 6
  let s := cutSrc w sca
  let m := cutMask w
  let st := cutB w 3
  match cutN w 0 3 with
  | 0 => .vfaddVfsubVfmul h .fadd st vd a s m
  | 1 => .vfaddVfsubVfmul h .fsub st vd a s m
  | 2 => .vfaddVfsubVfmul h .fmul st vd a s m
  | 3 => .vfdivVfsqrt h false st vd a s m
  | 4 => .vfminVfmaxVfsgn h .fmin st vd a s m
  | 5 => .vfminVfmaxVfsgn h .fmax st vd a s m
  | 6 => if sca then decBad h w else .vfdivVfsqrt h true st vd a (.vec 0) m
  | _ => if sca then decBad h w else .vfminVfmaxVfsgn h .fsgn st vd a (.vec 0) m

/-- Major 0x27: compares. -/
def decVCmp (h : Issue) (w : BitVec 32) : Instr :=
  let op (o : VCmpOp) : Instr := .vmseqVmfleCompare h o (cut w 20 3) (cut w 14 6) (cut w 8 6) (cutMask w)
  match cutN w 0 4 with
  | 0 => op .seq
  | 1 => op .sne
  | 2 => op .slt
  | 3 => op .sle
  | 4 => op .sltu
  | 5 => op .sleu
  | 8 => op .feq
  | 9 => op .flt
  | 10 => op .fle
  | _ => decBad h w

/-- Major 0x28: masks. -/
def decVMsk (h : Issue) (w : BitVec 32) : Instr :=
  let md := cut w 18 3
  let a := cut w 15 3
  let b := cut w 12 3
  match cutN w 0 4 with
  | 0 => .vmandVmorVmxorVmandn h .and md a b
  | 1 => .vmandVmorVmxorVmandn h .or md a b
  | 2 => .vmandVmorVmxorVmandn h .xor md a b
  | 3 => .vmandVmorVmxorVmandn h .andn md a b
  | 4 => .vmsetVmclr h false md
  | 5 => .vmsetVmclr h true md
  | 6 => .vmpopc h (cutR w 21) a
  | 7 => .vmfirst h (cutR w 21) a
  | _ => decBad h w

/-- Major 0x2A: moves. -/
def decVMov (h : Issue) (w : BitVec 32) : Instr :=
  let vd := cut w 20 6
  let a := cut w 14 6
  let r := cutR w 8
  let m := cutMask w
  match cutN w 0 4 with
  | 0 => .vmv h vd a m
  | 1 => .vmvVx h vd r m
  | 2 => .vmvXv h r a m
  | 3 => .vslidedn h vd a r m
  | 4 => .vslideup h vd a r m
  | 5 => .vmerge h vd a (cut w 8 6) m
  | _ => decBad h w

/-- Major 0x2B: reductions; bit 3 is S. -/
def decVRed (h : Issue) (w : BitVec 32) : Instr :=
  let vd := cut w 20 6
  let a := cut w 14 6
  let m := cutMask w
  let st := cutB w 3
  match cutN w 0 3 with
  | 0 => .vredsum h st vd a m
  | 1 => .vredmaxVredminVredamax h .max st vd a m
  | 2 => .vredmaxVredminVredamax h .min st vd a m
  | 3 => .vredmaxVredminVredamax h .amax st vd a m
  | _ => decBad h w

/-- Majors 0x2C and 0x2D: vector memory. -/
def decVMem (h : Issue) (w : BitVec 32) (strided : Bool) : Instr :=
  let vd := cut w 20 6
  let a := cutR w 15
  let m := cutMask w
  match strided, cutN w 0 4 with
  | false, 0 => .vldVst h false vd a m
  | false, 1 => .vldVst h true vd a m
  | false, 2 => .vldscVstsc h false vd a m
  | false, 3 => .vldscVstsc h true vd a m
  | true, 0 => .vldsVsts h false vd a (cutR w 10) m
  | true, 1 => .vldsVsts h true vd a (cutR w 10) m
  | _, _ => decBad h w

/-- Major 0x30: tile memory. -/
def decTile (h : Issue) (w : BitVec 32) : Instr :=
  let t := cut w 22 4
  let a := cutR w 17
  match cutN w 0 4 with
  | 0 => .tldR h t a (cutR w 12)
  | 1 => .tstR h t a (cutR w 12)
  | 2 => .tldS h t a
  | 3 => .tstS h t a
  | 4 => .tzero h t
  | _ => decBad h w

/-- Major 0x36: accumulators from tiles. -/
def decAcc (h : Issue) (w : BitVec 32) : Instr :=
  let a := cut4 w 24
  let t := cut w 20 4
  let r := cutR w 15
  match cutN w 0 3 with
  | 0 => .accWr h a t r
  | 1 => .accEmulMul h a t r
  | 2 => .accEmulAdd h a t r
  | 3 => .accEmulMulB h a t r
  | 4 => .accEmulAddB h a t r
  | _ => decBad h w

/-- Major 0x37: accumulator state and OPA.MP. -/
def decAccMp (h : Issue) (w : BitVec 32) : Instr :=
  let a := cut4 w 24
  let ta := cut w 12 4
  let da := cutDir w 11
  let tb := cut w 7 4
  let db := cutDir w 6
  let r := cutR w 16
  match cutN w 21 3 with
  | 0 => .accClr h a (cutB w 0)
  | 1 => .accGets h a r (cutB w 0)
  | 2 => .accPuts h a r (cutB w 0)
  | 3 =>
    match cutN w 4 2 with
    | 0 => .opaMpIlo h a ta da tb db r
    | 1 => .opaMpIhi h a ta da tb db r
    | 2 => .opaMpCre h a ta da tb db r
    | _ => .opaMpCim h a ta da tb db r
  | _ => decBad h w

/-- Major 0x3A: sync objects. -/
def decSync (h : Issue) (w : BitVec 32) : Instr :=
  let a := cutR w 16
  let b := cutR w 11
  let o := cut w 8 3
  match cutN w 0 4 with
  | 0 => .syncSig h o (cut w 6 2) a b
  | 1 => .syncWait h o (cut w 6 2) a b
  | 2 => .syncArm h (cut4 w 21) o a b
  | 3 => .syncDisarm h (cut4 w 21)
  | 4 => .syncRd h (cutR w 21) a
  | _ => decBad h w

/-- Majors 0x3B to 0x3E: fences, gates, trap return, waiting. -/
def decSys (h : Issue) (w : BitVec 32) (m : Nat) : Instr :=
  match m, cutN w 0 4 with
  | 0x3B, 0 => if cutB w 4 then .fenceMInv h else .fenceM h
  | 0x3B, 1 => .fenceT h
  | 0x3B, 2 => .fenceS h
  | 0x3B, 3 => .fenceI h
  | 0x3C, _ => .gate h (cut w 16 10)
  | 0x3D, 0 => .gret h
  | 0x3D, 1 => .tret h
  | 0x3E, 0 => .wfe h
  | 0x3E, 1 => .halt h (cutR w 16)
  | _, _ => decBad h w

/-- The instruction that a word holds, its RsvZ bits aside. -/
def decFields (h : Issue) (w : BitVec 32) : Instr :=
  let rd := cutR w 21
  let a := cutR w 16
  let b := cutR w 11
  let imm := cut w 0 16
  match cutN w 26 6 with
  | 0x00 => dec00 h w
  | 0x01 => dec01 h w
  | 0x02 => .addiAndiOriXoriSlti h .addi rd a imm
  | 0x03 => .addiAndiOriXoriSlti h .andi rd a imm
  | 0x04 => .addiAndiOriXoriSlti h .ori rd a imm
  | 0x05 => .addiAndiOriXoriSlti h .xori rd a imm
  | 0x06 => .shi h (cut w 6 2) (cut w 0 6) rd a
  | 0x07 => .lsi h rd a imm
  | 0x08 => .addiAndiOriXoriSlti h .slti rd a imm
  | 0x09 => .addiAndiOriXoriSlti h .sltiu rd a imm
  | 0x0A => decLoad h w
  | 0x0B => .store h (cut w 13 3) rd a (cut w 0 13)
  | 0x0C => .branch h (cut w 13 3) rd a (cut w 0 13)
  | 0x0D => .jal h rd (cut w 0 21)
  | 0x0E => .jalr h rd a imm
  | 0x0F => if cutB w 24 then .loopX h (cut2 w 25) else .loop h (cut2 w 25) a (cut w 0 10)
  | 0x10 => dec10 h w
  | 0x12 =>
    match cutN w 0 11 with
    | 0 => .tlbInvPage h a b
    | 1 => .tlbInvAsid h a b
    | 2 => .tlbInvAll h a b
    | _ => decBad h w
  | 0x18 => decFloat h w 0x18
  | 0x19 => decFloat h w 0x19
  | 0x1A => decFloat h w 0x1A
  | 0x1B => decFloat h w 0x1B
  | 0x1C => decFloat h w 0x1C
  | 0x20 => if cutN w 0 4 = 0 then .vsetn h rd a else decBad h w
  | 0x21 => decVInt h w false
  | 0x22 => decVInt h w true
  | 0x23 => decVFix h w
  | 0x24 => decVFloat h w false
  | 0x25 => decVFloat h w true
  | 0x26 => .vfmaVfms h (cutB w 0) (cutB w 3) (cut w 20 6) (cut w 14 6) (cutSrc w (cutB w 1)) (cutMask w)
  | 0x27 => decVCmp h w
  | 0x28 => decVMsk h w
  | 0x29 => .vcvt h (cut w 0 4) (cut w 20 6) (cut w 14 6) (cut w 8 6) (cutMask w)
  | 0x2A => decVMov h w
  | 0x2B => decVRed h w
  | 0x2C => decVMem h w false
  | 0x2D => decVMem h w true
  | 0x2E => if cutB w 0 then .vemitD h (cut w 20 6) (cut w 16 4) (cut w 12 4) (cutR w 7)
    else .vemit h (cut w 20 6) (cut w 16 4) (cutR w 7)
  | 0x30 => decTile h w
  | 0x31 => .opa h (cut4 w 24) (cut w 20 4) (cutDir w 19) (cut w 15 4) (cutDir w 14) (cutR w 9)
  | 0x32 => .opaP h (cut2 w 25) (cutB w 24) (cut w 20 4) (cutDir w 19) (cut w 15 4) (cut w 11 4) (cutDir w 10) (cutR w 5)
  | 0x33 => .opaQ h (cut w 22 4) (cut w 18 4) (cutDir w 17) (cut w 13 4) (cut w 9 4) (cutDir w 8) (cutR w 3)
  | 0x34 => .opaW h (cut4 w 24) (cut w 20 4) (cutDir w 19) (cut w 13 6) (cut w 7 6) (cutR w 2)
  | 0x35 => if cutB w 0 then .accRdD h (cut4 w 24) (cut w 20 4) (cut w 16 4) (cutR w 11) (cutR w 6)
    else .accRd h (cut4 w 24) (cut w 20 4) (cutR w 11)
  | 0x36 => decAcc h w
  | 0x37 => decAccMp h w
  | 0x38 => .vgather h (cut w 20 6) (cut w 14 6) (cutR w 9) (cutMask w) (cut w 2 2) (cut w 0 2)
  | 0x39 => .vscatter h (cut w 20 6) (cut w 14 6) (cutR w 9) (cutMask w) (cut w 2 2) (cut w 0 2)
  | 0x3A => decSync h w
  | 0x3B => decSys h w 0x3B
  | 0x3C => decSys h w 0x3C
  | 0x3D => decSys h w 0x3D
  | 0x3E => decSys h w 0x3E
  | _ => decBad h w

/-- The command that issues word `w` on core `c`: the bits of the word that its fields do not account for are RsvZ bits. -/
def decodeWord (c : CoreId) (w : BitVec 32) : Instr :=
  decFields { core := c, rsvz := w ^^^ wordOf (decFields { core := c } w) } w

end Sys2Proof.Machine
end

