-- ==== Sys2Proof/WellFormed.lean ====
section
/-! DEFINITION. Well-formed commands: a core instruction is one that some word spells, an event one that can reach the
block. -/

namespace Sys2Proof

/-- The issue part of a core instruction; none for other commands. -/
def Instr.issue : Instr → Option Issue
  | .addSubLogicShift h .. | .sltSltu h .. | .minMax h .. | .addoSubo h .. | .clzCtzPopc h .. | .sextWZextW h ..
  | .addiAndiOriXoriSlti h .. | .shi h .. | .lsi h .. | .mulMulhMulhu h .. | .mulo h .. | .divDivuRemRemu h ..
  | .load h .. | .ldk h .. | .store h .. | .branch h .. | .jal h .. | .jalr h .. | .loop h .. | .loopX h ..
  | .crget h .. | .crput h .. | .crswap h .. | .crbset h .. | .crbclr h .. | .lbcfgWrite h .. | .coreCfgWrite h ..
  | .tlbInvPage h .. | .tlbInvAsid h .. | .tlbInvAll h .. | .faddFsubFmul h .. | .fminFmax h .. | .fma h .. | .fcmp h ..
  | .fcvtF h .. | .fcvtFi h .. | .fcvtIf h .. | .fdiv h .. | .fsqrt h .. | .tret h | .gate h .. | .gret h | .wfe h
  | .halt h .. | .wdkickWrite h .. | .ctcmpWrite h .. | .vsetn h .. | .vshapeWrite h .. | .vaddVsubLogicShift h ..
  | .vmulVmulhVmulhu h .. | .vqaddVqsub h .. | .vqrmul h .. | .vqshrVqshrnVqshl h .. | .vfaddVfsubVfmul h ..
  | .vfmaVfms h .. | .vfdivVfsqrt h .. | .vfminVfmaxVfsgn h .. | .vmseqVmfleCompare h .. | .vmandVmorVmxorVmandn h ..
  | .vmsetVmclr h .. | .vmpopc h .. | .vmfirst h .. | .vcvt h .. | .vmv h .. | .vmvVx h .. | .vmvXv h .. | .vslidedn h ..
  | .vslideup h .. | .vmerge h .. | .vredsum h .. | .vredmaxVredminVredamax h .. | .vldVst h .. | .vldsVsts h ..
  | .vldscVstsc h .. | .vemit h .. | .vemitD h .. | .vgather h .. | .vscatter h .. | .tldR h .. | .tstR h .. | .tldS h ..
  | .tstS h .. | .tzero h .. | .tcfgWrite h .. | .opa h .. | .opaP h .. | .opaQ h .. | .opaW h .. | .accClr h ..
  | .accRd h .. | .accRdD h .. | .accWr h .. | .accEmulMul h .. | .accEmulAdd h .. | .accEmulMulB h .. | .accEmulAddB h ..
  | .accGets h .. | .accPuts h .. | .opaMpIlo h .. | .opaMpIhi h .. | .opaMpCre h .. | .opaMpCim h .. | .fenceM h
  | .fenceMInv h | .fenceT h | .fenceS h | .fenceI h | .syncSig h .. | .syncWait h .. | .syncArm h .. | .syncDisarm h ..
  | .syncRd h .. => some h
  | _ => none

/-- The rd field of a control-register write: RsvZ in a CRPUT (R74). -/
def crMask (a : CrArgs) : BitVec 32 := if a.op = .put then 0x03E00000 else 0

/-- The rs2 field of formats VV and VX leaves bit 13 RsvZ when it names a scalar register. -/
def srcMask (s : VSrc) : BitVec 32 := if Machine.isSca s then 0x00002000 else 0

/-- The bits of a core instruction's word that its format marks RsvZ (Table 4.1, Tables 6.4 and 6.5, and the encoding tables
of 07, 08 and 11). -/
def Instr.rsvzMask : Instr → BitVec 32
  | .clzCtzPopc .. | .sextWZextW .. | .fcvtF .. | .fcvtFi .. | .fcvtIf .. | .fsqrt .. => 0x0000F800
  | .shi .. => 0x0000FF00
  | .loop .. => 0x00E0FC00
  | .loopX .. => 0x00FFFFFF
  | .crget .. => 0x001F0000
  | .crput .. => 0x03E00000
  | .lbcfgWrite _ a | .coreCfgWrite _ a | .wdkickWrite _ a | .ctcmpWrite _ a | .vshapeWrite _ a | .tcfgWrite _ _ a => crMask a
  | .tlbInvPage .. | .tlbInvAsid .. | .tlbInvAll .. => 0x03E00000
  | .gate .. => 0x0000FFFF
  | .gret _ | .tret _ | .wfe _ => 0x03FFFFF0
  | .halt .. => 0x03E0FFF0
  | .fenceM _ | .fenceMInv _ => 0x03FFFFE0
  | .fenceT _ | .fenceS _ | .fenceI _ => 0x03FFFFF0
  | .vsetn .. => 0x0000FFF0
  | .vaddVsubLogicShift _ _ _ _ s _ | .vmulVmulhVmulhu _ _ _ _ s _ | .vqaddVqsub _ _ _ _ s _ | .vqrmul _ _ _ s _
  | .vqshrVqshrnVqshl _ _ _ _ s _ | .vfaddVfsubVfmul _ _ _ _ _ s _ => srcMask s
  | .vfmaVfms _ _ _ _ _ s _ => srcMask s ||| 4
  | .vfdivVfsqrt _ sq _ _ _ s _ => if sq then 0x00003F00 else srcMask s
  | .vfminVfmaxVfsgn _ op _ _ _ s _ => if op = .fsgn then 0x00003F00 else srcMask s
  | .vmseqVmfleCompare .. => 0x03800000
  | .vmandVmorVmxorVmandn .. => 0x03E00FF0
  | .vmsetVmclr .. => 0x03E3FFF0
  | .vmpopc .. | .vmfirst .. => 0x001C7FF0
  | .vmv .. => 0x00003F00
  | .vmvVx .. => 0x000FE000
  | .vmvXv .. => 0x03F02000
  | .vslidedn .. | .vslideup .. => 0x00002000
  | .vredsum .. | .vredmaxVredminVredamax .. => 0x00003F00
  | .vldVst .. | .vldscVstsc .. => 0x00007F00
  | .vldsVsts .. => 0x00000300
  | .vemit .. => 0x0000F07E
  | .vemitD .. => 0x0000007E
  | .vgather .. | .vscatter .. => 0x00000100
  | .tldR .. | .tstR .. => 0x00000FF0
  | .tldS .. | .tstS .. => 0x0001FFF0
  | .tzero .. => 0x003FFFF0
  | .opa .. => 0x000001FF
  | .opaP .. => 0x0000001F
  | .opaQ .. => 0x00000007
  | .opaW .. => 0x00000003
  | .accRd .. => 0x000F07FE
  | .accRdD .. => 0x0000003E
  | .accWr .. | .accEmulMul .. | .accEmulAdd .. | .accEmulMulB .. | .accEmulAddB .. => 0x00007FF8
  | .accClr .. => 0x001FFFFE
  | .accGets .. | .accPuts .. => 0x0000FFFE
  | .opaMpIlo .. | .opaMpIhi .. | .opaMpCre .. | .opaMpCim .. => 0x0000000F
  | .syncSig .. | .syncWait .. => 0x03E00030
  | .syncArm .. => 0x038000F0
  | .syncDisarm .. => 0x039FFFF0
  | .syncRd .. => 0x0000FFF0
  | _ => 0

/-- RsvZ bits stand where the format has them, and nowhere else. -/
def rsvzFits (i : Instr) : Bool :=
  match i.issue with
  | none => true
  | some h => decide (h.rsvz &&& ~~~i.rsvzMask = 0)

/-- A CRPUT has no rd (R74). -/
def crFits (a : CrArgs) : Bool := !decide (a.op = .put) || decide (a.rd = 0)

/-- Control registers that have rows of their own: LBCFG, CORE_CFG, WDKICK, CTCMP, VSHAPE, TCFG0 to TCFG15. -/
def ownRow (creg : BitVec 12) : Bool :=
  [0x070#12, 0x200#12, 0x141#12, 0x13D#12, 0x020#12].contains creg || decide (creg.toNat / 16 = 3)

/-- The form of a frame: its payload is LEN sectors, at most 16 (Table 16.1). -/
def frameFits (f : Frame) : Bool :=
  decide (f.payload.length = f.h0.toNat / 16 % 32) && decide (f.payload.length ≤ 16)

/-- A host access carries 1 to 4,096 bytes read, 1 to 512 written (Table 15.4). -/
def hostFits : HostAcc → Bool
  | .read n => decide (1 ≤ n) && decide (n ≤ 4096)
  | .write b _ => decide (1 ≤ b.length) && decide (b.length ≤ 512)

/-- Is an address in the LPDDR6 of the device (Table 1.4)? -/
def inDram (pa : BitVec 48) : Bool := decide (pa.toNat < 0x30000000000)

/-- The operands of a command that its row and the spec allow. -/
def operandsFit : Instr → Bool
  | .addSubLogicShift h (.unassigned w) rd rs1 rs2 =>
    decide (h.rsvz = 0) && decide (rd = 0) && decide (rs1 = 0) && decide (rs2 = 0) &&
      decide (Machine.decFields {core := 0} w = Machine.decBad {core := 0} w)
  | .crput _ creg _ | .crswap _ _ creg _ | .crbset _ _ creg _ | .crbclr _ _ creg _ => !ownRow creg
  | .lbcfgWrite _ a | .coreCfgWrite _ a | .wdkickWrite _ a | .ctcmpWrite _ a | .vshapeWrite _ a | .tcfgWrite _ _ a => crFits a
  | .vfdivVfsqrt _ sq _ _ _ s _ => !sq || decide (s = .vec 0)
  | .vfminVfmaxVfsgn _ op _ _ _ s _ => !decide (op = .fsgn) || decide (s = .vec 0)
  | .wcbIdleDrain _ line | .l1Fill _ line => decide (line.toNat < 0x600000000)
  | .l2Access pa _ | .l2Fill pa | .controlCacheAccess _ _ pa => inDram pa
  | .contribution c => inDram c.line && decide (c.line.toNat % 128 = 0)
  | .hostApertureAccess _ _ _ a | .hostQueuePageAccess _ _ _ a => hostFits a
  | .hostWindowAccess _ pa a => hostFits a && decide (0x100000000000 ≤ pa.toNat) && decide (pa.toNat < 0x200000000000)
  | .inboundHostWrite _ _ _ b _ => decide (1 ≤ b.length) && decide (b.length ≤ 512)
  | .frameReceive _ f _ _ | .put f | .get f | .getr f | .reduce f | .signal f | .mcastFrame f | .resp f => frameFits f
  | .ethernetReceive _ f _ => !f.isEmpty
  | .sensorRead t _ => decide (t.length = 42)
  | .logRecord _ part _ l => (decide (part.toNat ≤ 16) || decide (part = 31)) && decide (l.length ≤ 5)
  | .injGoWrite u _ => !decide (u = 3)
  | .registerWrite _ n _ => decide (n = 1) || decide (n = 2) || decide (n = 4) || decide (n = 8)
  | .samplePreload (some l) => decide (l.length = 36)
  | .hostLinkUp _ w r _ => decide (w.toNat ≤ 4) && decide (r.toNat ≤ 5)
  | _ => true

/-- The well-formed commands. -/
def Instr.wf (i : Instr) : Bool := rsvzFits i && operandsFit i

end Sys2Proof
end

