-- ==== Sys2Proof/Safety.lean ====
section
/-! DEFINITION. The terms in which claims are stated: when a core executes an instruction normally, and what "only this
changed" means. -/

namespace Sys2Proof.Machine

/-- Main memory is in its canonical form: addresses strictly rising, no byte listed that reads as an unwritten one (log 2). -/
def State.memWf (s : State) : Bool := twf 0 s.mem.cells

/-- A core executes the instruction it issues: its cluster is on, nothing holds its issue, no load or access of an earlier
instruction is under way, no asynchronous trap is due (R102), and the fetch at its PC passes its checks (R77, R209, R26) and
finds its line in the instruction cache, the last one that the core used, so that it changes nothing (R208, R80). -/
def State.ready (s : State) (c : Nat) : Bool :=
  s.canIssue c && (s.core c).mem.miss.isEmpty && (s.core c).mem.loads.isEmpty && !s.midAccess c &&
    (asyncTrap (s.ctxOf c) (s.core c)).isNone && decide (s.fetch c = (s, none))

/-- Core `c` of `t` is `k`, and `t` is otherwise `s`: every other core, every byte of memory, every queue, register and flag
of every other unit is as before. -/
def State.onlyCore (s t : State) (c : Nat) (k : Core) : Prop :=
  t.core c = k ∧ (∀ n, n ≠ c → t.core n = s.core n) ∧ { t with cores := s.cores } = s

/-- `k'` is core `k` with `v` in integer register `rd` of the bank in use: x0 takes nothing, every other register of every
bank keeps its value, and the core is otherwise `k` (R64, R83). -/
def Core.wroteReg (k k' : Core) (rd : Reg) (v : Word) : Prop :=
  (∀ b n, bget k' b n = if b = k.bank ∧ n = rd.toNat ∧ n ≠ 0 then v else bget k b n) ∧
    { k' with xu := k.xu, xs := k.xs, xf := k.xf } = k

/-- `k'` is core `k` moved past the instruction at its PC: to PC + 4, or as R73 says where the instruction ends a loop body;
the core is otherwise `k`. -/
def Core.passed (k k' : Core) : Prop :=
  let a := k.pc
  let inner := decide (k.lp.lc1 ≠ 0 ∧ a = k.lp.le1)
  let again := inner && decide (k.lp.lc1 ≠ 1)
  let outer := !again && decide (k.lp.lc0 ≠ 0 ∧ a = k.lp.le0)
  k'.pc = (if again then k.lp.ls1 else if outer && decide (k.lp.lc0 ≠ 1) then k.lp.ls0 else a + 4) ∧
    k'.lp = { k.lp with
      lc1 := if inner then k.lp.lc1 - 1 else k.lp.lc1
      lc0 := if outer then k.lp.lc0 - 1 else k.lp.lc0 } ∧
    { k' with pc := k.pc, lp := k.lp } = k

/-- The instruction of core `c` completed without transferring control, leaving its core as `k` but for the PC and the loop
counts, and nothing else changed. -/
def State.completes (s t : State) (c : Nat) (k : Core) : Prop :=
  ∃ k', k.passed k' ∧ s.onlyCore t c k'

/-- The instruction of core `c` wrote `v` to `rd`, completed, and changed nothing else. -/
def State.writesReg (s t : State) (c : Nat) (rd : Reg) (v : Word) : Prop :=
  ∃ k, (s.core c).wroteReg k rd v ∧ s.completes t c k

/-- The instruction of core `c` transferred control to `pc`, leaving its core otherwise as `k`, and nothing else changed. -/
def State.jumps (s t : State) (c : Nat) (k : Core) (pc : Word) : Prop := s.onlyCore t c { k with pc := pc }

/-- The level that a synchronous trap goes to (R82): S, or F where bit `code` of ROUTE says so; F from F. -/
def Core.target (k : Core) (code : Byte) : Level :=
  if k.level = .f ∨ code = cDOUBLE_FAULT ∨ bitAt k.tc.route code.toNat then .f else .s

/-- `k'` is core `k` after trap entry to level `l` with EPC `epc` (R83, R84, R89): what it saves, where it goes, which bank it
uses; what an injection had made pending is so no longer (R403); the core is otherwise `k`. -/
def Core.enters (k k' : Core) (l : Level) (epc : Word) (t : Trap) : Prop :=
  let r := tregs k l
  let r' := tregs k' l
  let exch := saveset k || decide (k.bank = l)
  (k'.level = l ∧ k'.pc = r.vec ∧ k'.run = .running) ∧
  (r'.epc = epc ∧ r'.cause.toNat = t.detail.toNat * 2 ^ 32 + t.code.toNat ∧ r'.addr = t.addr) ∧
  (stPLVL r' = k.level ∧ stPIE r' = stIE r ∧ stIE r' = false ∧ stIH r' = true ∧ stPBANK r' = k.bank ∧ stXSP r' = exch ∧
    r'.status &&& 0xFFFFFFFFFFFFF078#64 = 0) ∧
  (r'.vstart = k.vec.vstart ∧ r'.tprog = k.tile.tprog ∧
    r'.loop.toNat = field k.lp.lc1 0 32 * 2 ^ 32 + field k.lp.lc0 0 32) ∧
  (k'.vec = { k.vec with vstart := 0 } ∧ k'.tile = { k.tile with tprog := 0 } ∧
    k'.lp = { k.lp with lc0 := 0, lc1 := 0 }) ∧
  (k'.bank = (if exch then k.bank else l) ∧ r'.sp = (if exch then bget k k.bank 2 else r.sp) ∧
    (∀ b n, bget k' b n = if exch = true ∧ b = k.bank ∧ n = 2 then r.sp else bget k b n)) ∧
  ({ r' with epc := r.epc, cause := r.cause, addr := r.addr, status := r.status, vstart := r.vstart, tprog := r.tprog,
             loop := r.loop, sp := r.sp } = r) ∧
  (match l with | .f => k'.ts = k.ts | _ => k'.tf = k.tf) ∧
  (k'.injSync = false ∧ k'.injAsync = k.injAsync.filter (fun x => !decide (x = t.code))) ∧
  { k' with level := k.level, pc := k.pc, run := k.run, ts := k.ts, tf := k.tf, vec := k.vec, tile := k.tile, lp := k.lp,
            bank := k.bank, xu := k.xu, xs := k.xs, xf := k.xf, injSync := k.injSync, injAsync := k.injAsync } = k

/-- The instruction of core `c` raised trap `t'`: the core entered the handler of the trap's target level with EPC the
instruction's address, and nothing else changed. -/
def State.traps (s t : State) (c : Nat) (t' : Trap) : Prop :=
  let k := s.core c
  ∃ k', k.enters k' (k.target t'.code) k.pc t' ∧ s.onlyCore t c k'

/-- The handler of the level that cause `code` goes to is not running: a trap is entered without escalation (R91). -/
def State.canTrap (s : State) (c : Nat) (code : Byte) : Bool :=
  !stIH (tregs (s.core c) ((s.core c).target code))

/-- The value that CRGET gives for the identification, scalar and vector registers of Tables 4.8 and 6.2, with the lowest
level that may read each. -/
def State.crBasic (s : State) (c : Nat) : List (BitVec 12 × Level × Word) :=
  let k := s.core c
  [(0x000, .u, BitVec.ofNat 64 (s.cycles c)),
   (0x001, .u, BitVec.ofNat 64 (s.devid * 2 ^ 48 + k.cr.engmask.toNat * 2 ^ 32 + s.owner (c / 8) % 32 * 2 ^ 16 + c % 128)),
   (0x002, .u, BitVec.ofNat 64 (0x0C03 * 2 ^ 16 + Config.stepping.toNat * 2 ^ 8 + Config.minor.toNat)),
   (0x003, .u, k.cr.stepno), (0x004, .u, k.cr.seed), (0x010, .u, k.cr.srtag), (0x011, .u, k.cr.srbase),
   (0x012, .u, k.cr.srstride), (0x013, .u, k.cr.skcfg), (0x014, .u, k.cr.cflags.setWidth 64),
   (0x020, .u, k.vec.vshape), (0x021, .u, k.vec.vcnt), (0x022, .u, k.vec.vstart), (0x023, .u, k.vec.vxrm),
   (0x024, .u, k.vec.vcens), (0x040, .u, k.tile.tprog)]

/-- The same for the loop registers, ASCTL, LBCFG, TRAPEN, the vectors, the gate tables and the routing. -/
def Core.crControl (k : Core) : List (BitVec 12 × Level × Word) :=
  [(0x050, .u, k.lp.lc0), (0x051, .u, k.lp.ls0), (0x052, .u, k.lp.le0), (0x053, .u, k.lp.lc1), (0x054, .u, k.lp.ls1),
   (0x055, .u, k.lp.le1), (0x060, .s, k.cr.asctl), (0x070, .u, k.cr.lbcfg),
   (0x100, .u, match k.level with | .u => k.tc.trapenU | .s => k.tc.trapenS | .f => k.tc.trapenF),
   (0x101, .s, k.ts.vec), (0x102, .f, k.tf.vec), (0x130, .s, k.tc.gtbU), (0x131, .s, k.tc.gtnU),
   (0x132, .s, k.tc.gtbS), (0x133, .s, k.tc.gtnS), (0x138, .f, k.tc.route), (0x139, .s, k.tc.iroute)]

/-- The same for the trap and gate registers of S (Table 5.2); PBANK reads 0 under SAVESET. -/
def Core.crTrapS (k : Core) : List (BitVec 12 × Level × Word) :=
  let status : Word := if saveset k then k.ts.status &&& ~~~0x600#64 else k.ts.status
  [(0x110, .s, k.ts.epc), (0x111, .s, status), (0x112, .s, k.ts.cause), (0x113, .s, k.ts.addr),
   (0x114, .s, k.ts.sp), (0x115, .s, k.ts.vstart), (0x116, .s, k.ts.tprog), (0x117, .s, k.ts.loop),
   (0x118, .s, k.ts.gpc), (0x119, .s, k.ts.gstatus), (0x11A, .s, k.ts.gsp), (0x11B, .s, k.ts.gloop)]

/-- The same for the trap and gate registers of F. -/
def Core.crTrapF (k : Core) : List (BitVec 12 × Level × Word) :=
  let status : Word := if saveset k then k.tf.status &&& ~~~0x600#64 else k.tf.status
  [(0x120, .f, k.tf.epc), (0x121, .f, status), (0x122, .f, k.tf.cause), (0x123, .f, k.tf.addr),
   (0x124, .f, k.tf.sp), (0x125, .f, k.tf.vstart), (0x126, .f, k.tf.tprog), (0x127, .f, k.tf.loop),
   (0x128, .f, k.tf.gpc), (0x129, .f, k.tf.gstatus), (0x12A, .f, k.tf.gsp), (0x12B, .f, k.tf.gloop)]

/-- The same for the interrupt, timer and watchdog registers and CORE_CFG. -/
def State.crEvents (s : State) (c : Nat) : List (BitVec 12 × Level × Word) :=
  let k := s.core c
  let ticks : Int := if bitAt k.tc.wdctl 0 then s.now - k.tc.wdBase else k.tc.wdBase
  [(0x13A, .s, (k.tc.ip &&& 0x36).setWidth 64 ||| (if k.tc.hrnReq then 1 else 0) |||
     (if k.tc.ctcmp.toNat ≤ s.cycles c then 8 else 0)),
   (0x13B, .s, k.tc.imaskS), (0x13C, .f, k.tc.imaskF), (0x13D, .s, k.tc.ctcmp), (0x140, .s, k.tc.wdctl),
   (0x142, .s, BitVec.ofNat 64 (ticks.toNat % 2 ^ 32)), (0x200, .f, k.cr.coreCfg)]

/-- The registers that every level may write, with their value and the core after a write of `v`: RW fields take it, RsvZ bits
stay clear (R4; Tables 3.3, 4.16, 6.3, 7.1). -/
def Core.crPlainU (k : Core) : List (BitVec 12 × Word × (Word → Core)) :=
  [(0x010, k.cr.srtag, fun v => { k with cr := { k.cr with srtag := v &&& 0xFFFFFFFF } }),
   (0x011, k.cr.srbase, fun v => { k with cr := { k.cr with srbase := v &&& 0xFFFFFFFFFFFF } }),
   (0x012, k.cr.srstride, fun v => { k with cr := { k.cr with srstride := v &&& 0xFFFFFFFF } }),
   (0x013, k.cr.skcfg, fun v => { k with cr := { k.cr with skcfg := v &&& 0xFF1F1F1F } }),
   (0x022, k.vec.vstart, fun v => { k with vec := { k.vec with vstart := v &&& 0x3FF } }),
   (0x023, k.vec.vxrm, fun v => { k with vec := { k.vec with vxrm := v &&& 3 } }),
   (0x024, k.vec.vcens, fun v => { k with vec := { k.vec with vcens := v &&& 0x83FF } }),
   (0x040, k.tile.tprog, fun v => { k with tile := { k.tile with tprog := v &&& 0xFC3F } }),
   (0x050, k.lp.lc0, fun v => { k with lp := { k.lp with lc0 := v &&& 0xFFFFFFFF } }),
   (0x051, k.lp.ls0, fun v => { k with lp := { k.lp with ls0 := v &&& ~~~3 } }),
   (0x052, k.lp.le0, fun v => { k with lp := { k.lp with le0 := v &&& ~~~3 } }),
   (0x053, k.lp.lc1, fun v => { k with lp := { k.lp with lc1 := v &&& 0xFFFFFFFF } }),
   (0x054, k.lp.ls1, fun v => { k with lp := { k.lp with ls1 := v &&& ~~~3 } }),
   (0x055, k.lp.le1, fun v => { k with lp := { k.lp with le1 := v &&& ~~~3 } })]

/-- The same for the registers that S and F may write (Tables 5.1, 5.2). -/
def Core.crPlainS (k : Core) : List (BitVec 12 × Word × (Word → Core)) :=
  [(0x101, k.ts.vec, fun v => { k with ts := { k.ts with vec := v &&& ~~~3 } }),
   (0x110, k.ts.epc, fun v => { k with ts := { k.ts with epc := v &&& ~~~3 } }),
   (0x112, k.ts.cause, fun v => { k with ts := { k.ts with cause := v &&& 0xFFFFFFFF000000FF } }),
   (0x113, k.ts.addr, fun v => { k with ts := { k.ts with addr := v } }),
   (0x114, k.ts.sp, fun v => { k with ts := { k.ts with sp := v } }),
   (0x115, k.ts.vstart, fun v => { k with ts := { k.ts with vstart := v } }),
   (0x116, k.ts.tprog, fun v => { k with ts := { k.ts with tprog := v } }),
   (0x117, k.ts.loop, fun v => { k with ts := { k.ts with loop := v } }),
   (0x118, k.ts.gpc, fun v => { k with ts := { k.ts with gpc := v &&& ~~~3 } }),
   (0x119, k.ts.gstatus, fun v => { k with ts := { k.ts with gstatus := v &&& 0xD } }),
   (0x11A, k.ts.gsp, fun v => { k with ts := { k.ts with gsp := v } }),
   (0x11B, k.ts.gloop, fun v => { k with ts := { k.ts with gloop := v } }),
   (0x130, k.tc.gtbU, fun v => { k with tc := { k.tc with gtbU := v &&& 0xFFFFFFFFFFE0 } }),
   (0x131, k.tc.gtnU, fun v => { k with tc := { k.tc with gtnU := v &&& 0x7FF } }),
   (0x13B, k.tc.imaskS, fun v => { k with tc := { k.tc with imaskS := v &&& 0x3F } })]

/-- The same for the registers that only F may write (Tables 5.1, 5.2). -/
def Core.crPlainF (k : Core) : List (BitVec 12 × Word × (Word → Core)) :=
  [(0x102, k.tf.vec, fun v => { k with tf := { k.tf with vec := v &&& ~~~3 } }),
   (0x120, k.tf.epc, fun v => { k with tf := { k.tf with epc := v &&& ~~~3 } }),
   (0x122, k.tf.cause, fun v => { k with tf := { k.tf with cause := v &&& 0xFFFFFFFF000000FF } }),
   (0x123, k.tf.addr, fun v => { k with tf := { k.tf with addr := v } }),
   (0x124, k.tf.sp, fun v => { k with tf := { k.tf with sp := v } }),
   (0x125, k.tf.vstart, fun v => { k with tf := { k.tf with vstart := v } }),
   (0x126, k.tf.tprog, fun v => { k with tf := { k.tf with tprog := v } }),
   (0x127, k.tf.loop, fun v => { k with tf := { k.tf with loop := v } }),
   (0x128, k.tf.gpc, fun v => { k with tf := { k.tf with gpc := v &&& ~~~3 } }),
   (0x129, k.tf.gstatus, fun v => { k with tf := { k.tf with gstatus := v &&& 0xD } }),
   (0x12A, k.tf.gsp, fun v => { k with tf := { k.tf with gsp := v } }),
   (0x12B, k.tf.gloop, fun v => { k with tf := { k.tf with gloop := v } }),
   (0x132, k.tc.gtbS, fun v => { k with tc := { k.tc with gtbS := v &&& 0xFFFFFFFFFFE0 } }),
   (0x133, k.tc.gtnS, fun v => { k with tc := { k.tc with gtnS := v &&& 0x7FF } }),
   (0x138, k.tc.route, fun v => { k with tc := { k.tc with route := v } }),
   (0x139, k.tc.iroute, fun v => { k with tc := { k.tc with iroute := v &&& 0x3F } }),
   (0x13C, k.tc.imaskF, fun v => { k with tc := { k.tc with imaskF := v &&& 0x3F } })]

/-- The value that a control-register write gives a register that held `old`, with `v` in rs1 (Table 4.9). -/
def newCrValue (a : CrArgs) (old v : Word) : Word :=
  match a.op with
  | .put | .swap => v
  | .bset => old ||| v
  | .bclr => old &&& ~~~v

/-- `k'` is core `k` with element `i` of the group at `vd` (width `w`, `n` elements) replaced by `f i` where `p i`: every other
element, every register outside the group and the rest of the core are as before (R106, R111). -/
def Core.wroteElems (k k' : Core) (vd w n : Nat) (p : Nat → Bool) (f : Nat → Nat) : Prop :=
  (∀ i, i < n → vElem k'.vec.v vd w i = if p i = true then f i else vElem k.vec.v vd w i) ∧
    (∀ r, r < vd ∨ vd + (n * w + 127) / 128 ≤ r → tget 0 k'.vec.v r = tget 0 k.vec.v r) ∧
    { k' with vec := { k'.vec with v := k.vec.v } } = k

/-- `k` with VSTART `i`. -/
def Core.atElem (k : Core) (i : Nat) : Core := { k with vec := { k.vec with vstart := BitVec.ofNat 64 i } }

/-- `k` with the CFLAGS bits that `b` selects set as well (QSAT 3, SOVF 2, NF 1, OVF 0). -/
def Core.flag (k : Core) (qsat nf ovf : Bool) : Core :=
  { k with cr := { k.cr with cflags := k.cr.cflags ||| BitVec.ofBool qsat ++ 0#1 ++ BitVec.ofBool nf ++ BitVec.ofBool ovf } }

/-- Element `i` is active (R111). -/
def Core.active (k : Core) (m : VMask) (i : Nat) : Bool :=
  decide (i < vCnt k) && decide (vStart k ≤ i) && (!m.masked || (tget 0 k.vec.m m.vm.toNat).getLsbD i)

/-- The groups of size G that an instruction names start at multiples of G (R106). -/
def Core.aligned (k : Core) (l : List (BitVec 6)) : Prop := ∀ v ∈ l, v.toNat % vG k = 0

/-- The vector registers that a second operand names. -/
def srcRegs : VSrc → List (BitVec 6)
  | .vec v => [v]
  | .sca _ => []

/-- `t` follows `s` with nothing of core `c`'s instruction left to wait for: no answer is kept for it, no store of it stands
half done, and the queue of commands is as it was. -/
def State.calm (s t : State) (c : Nat) : Prop := t.midAccess c = false ∧ t.pending = s.pending

/-- The bytes and signedness of a scalar load (Table 4.5). -/
def loadForms : List (LoadSize × Nat × Bool) :=
  [(.lb, 1, true), (.lbu, 1, false), (.lh, 2, true), (.lhu, 2, false), (.lw, 4, true), (.lwu, 4, false), (.ld, 8, false)]

/-- Little-endian bytes sign-extended or zero-extended to 64 bits (R3, Table 4.5). -/
def extend (n : Nat) (signed : Bool) (b : List Byte) : Word :=
  if signed then BitVec.ofInt 64 ((ofBytes b : Int).bmod (2 ^ (8 * n))) else BitVec.ofNat 64 (ofBytes b)

/-- Core `c` traps as `State.traps` says, from a core that its instruction has left as `k`. -/
def State.trapsFrom (s t : State) (c : Nat) (k : Core) (t' : Trap) : Prop :=
  ∃ k', k.enters k' (k.target t'.code) k.pc t' ∧ s.onlyCore t c k'

/-- Command `i` answers a next state: `t`, with the queue of commands as it was. -/
def State.gives (s : State) (i : Instr) (t : State) : Prop := exec i s = .next { t with pending := s.pending }

/-- Packet `p` stands in the queue that a row names and its turn has come: it carries the row's opcode, it may start (R309,
R299, R281, R289), the rotation among the queues of its die lets it (R314), and no rule that holds for every opcode (R194,
R205, R29) completes it first. -/
def State.turn (s : State) (r : PktRef) (op : Nat) (p : Pkt) : Prop :=
  let u := s.queue r.queue
  (p ∈ u.pkts ∧ p.pos = r.pos.toNat ∧ p.op = op) ∧
    (∀ x ∈ u.pkts, x.asked = true ∧ (x.pos = p.pos → x = p)) ∧
    (s.mayStart r.queue p = true ∧ s.inRotation r.queue = true) ∧
    (∀ g, u.region = some g → p.pos ≤ g.startPos ∨ ((op = 0x13 ∨ p.pos ≠ g.startPos + g.len) ∧ regionRefused op = false)) ∧
    (bitAt p.h0 8 = true → op ≠ 0x13 → op ≠ 0x11 → u.poisoned = false) ∧ (opPart0 op = true → p.part = 0)

/-- A packet as it stands once begun. -/
def Pkt.begins (p : Pkt) (s : State) : Pkt := { p with st := .begun, began := s.now }

/-- `s` with packet `p` of queue `q` begun: the queue's turn in the rotation is taken (R314). -/
def State.begun (s : State) (q : QId) (p : Pkt) : State := (s.served q).setPkt q (p.begins s)

/-- Row `i`, naming packet `p` of queue `q`, leaves `t` (the packet begun and its effect performed) with the packet complete:
its status, its DETAIL, its signals and its reply (R309, R311). -/
def State.ends (s : State) (i : Instr) (q : QId) (p : Pkt) (t : State) (st : Byte) (d : Word) : Prop :=
  s.gives i (t.finish q (p.begins s) st d)

end Sys2Proof.Machine
end

