-- ==== Sys2Proof/Certificates/Slice0/Obligations.lean ====
section
/-! DEFINITION. The statements for the provers. Each is about one step or one command; a statement about an instruction
supposes `State.ready` of its core: nothing holds its issue, no trap is due, and its fetch passes. -/

open Sys2Proof Sys2Proof.Machine

/-! ## The machine -/

/-- A step takes the command at the front of the queue and runs exactly it, on the state with the rest of the queue. -/
def Obligations.StepRunsFrontCommand : Prop :=
  ∀ (s : State) (i : Instr) (rest : List Instr),
    step { s with pending := i :: rest } = exec i { s with pending := rest }

/-- Log 1: the block's queue of commands is the model's own. Every step takes at most the front command out of it, puts none in,
and keeps the others in their order, so a queue of well-formed commands stays one; on an empty queue an always-on tick of
25 MHz passes, in which the core clock of each compute die that has a cluster on advances by its cycles at the point in force
(R64, R371), and, with no injection armed that fires as time passes (R401) and no retrain past its 100 ms (R345), nothing else
happens than the notes of what is idle and the counting of full queues and limited cycles. -/
def Obligations.StepsTakeCommandsInOrder : Prop :=
  ∀ (s : State),
    let still := (∀ u, s.armedAt u 0x0A = none ∧ s.armedAt u 0x0D = none) ∧
      ∀ n t, (s.fport n).left = some t → s.now + 1 ≤ t + 2500000
    (∀ t, step s = .next t →
      t.pending = s.pending.tail ∧ ((∀ i ∈ s.pending, i.wf = true) → ∀ i ∈ t.pending, i.wf = true)) ∧
    (s.pending = [] → ∃ t, step s = .next t ∧ t.now = s.now + 1 ∧ (s.pmem.lost = true → t = { s with now := s.now + 1 }) ∧
      (s.pmem.lost = false → still → ∀ d, d < 2 →
        let rate := match s.pwr.eff with | 0 => 440 | 1 => 352 | 2 => 264 | _ => 220
        (t.die d).cyc = (s.die d).cyc +
          (if ∃ c, c < 8 ∧ s.dom (clDom (8 * d + c)) = .on then (s.now + 1) * rate / 10 - s.now * rate / 10 else 0) ∧
        ((∀ e ∈ (s.die d).slices, e.2.queue.length < 256) → { t.die d with cyc := (s.die d).cyc } = s.die d)) ∧
      (still →
        t.pwr = { s.pwr with ilimCyc := t.pwr.ilimCyc } ∧
        t.pmem = { s.pmem with clIdle := t.pmem.clIdle, l2Idle := t.pmem.l2Idle } ∧
        { t with now := s.now, dies := s.dies, pwr := s.pwr, pmem := s.pmem } = s))

/-- R101, R105, R132, R160, R246, R377 and the reset columns of Tables 5.9, 10.7, 15.3, 15.7, 16.5, 16.6 and 17.5: what reset leaves
where the spec gives a value; two values here are the model's choice: that every domain is ON (log 15), and what unwritten memory
reads (log 2). Every core is at level F with IROUTE 0x30, CTCMP all ones and no engine retired; every vector
and mask register, tile register, side array, accumulator and object holds zero; every memory byte of the model reads as
it does unwritten and the memory has its canonical form; ports are DISABLED; the point is 1.1 GHz with ILIM 44 A. -/
def Obligations.ResetLeavesTheStatedValues : Prop :=
  let s := State.reset
  (∀ c, let k := s.core c
    k.level = .f ∧ k.tc.iroute = 0x30 ∧ k.tc.route = 0 ∧ k.tc.imaskS = 0 ∧ k.tc.imaskF = 0 ∧ k.tc.ctcmp = BitVec.allOnes 64 ∧
    k.cr.engmask = 0xF ∧ k.cr.skcfg = 0x7F0C0301 ∧ k.cr.lbcfg = 1 ∧ k.lp.lc0 = 0 ∧ k.lp.lc1 = 0 ∧ k.vec.vcnt = 0 ∧ k.vec.vstart = 0 ∧
    (∀ r, tget 0 k.vec.v r = 0) ∧ (∀ m, tget 0 k.vec.m m = 0) ∧ (∀ r, tget 0 k.tile.rows r = 0) ∧ (∀ b, tget 0 k.tile.side b = 0) ∧
    (∀ a, let acc := tget {} k.acc a
      (∀ q, tget 0 acc.cells q = 0) ∧ acc.wide = false ∧ acc.ovf = false ∧ acc.nf = false ∧ acc.pe = false ∧ acc.kcount = 0 ∧ acc.atag = 0) ∧
    (∀ n, tcfg k n = 0x901FF) ∧ k.tile.queue = [] ∧ k.mem.wcb = [] ∧ k.mem.tlb = [] ∧ k.task = none ∧ s.cycles c = 0) ∧
  (∀ d o, s.objVal d o = 0) ∧ (∀ d n, (s.slice d n).lim = 16 ∧ (s.slice d n).hitN = 0 ∧ (s.slice d n).ways = []) ∧
  (∀ q : QId, (s.queue q).v = false ∧ (s.queue q).pkts = []) ∧
  (∀ c, (s.cluster c).retired = false ∧ s.owner c = 0) ∧
  (s.mem.cells = [] ∧ s.mem.poison = [] ∧ ∀ n, (s.chan n).scrub = 24 ∧ (s.chan n).sref = 100 ∧ (s.chan n).erase = 0 ∧ (s.chan n).ce = 0) ∧
  (∀ n, (s.hport n).link = 0 ∧ (s.hport n).wxlat = [] ∧ (s.hport n).cto = 0 ∧ (s.hport n).urca = 0) ∧
  (∀ n, (s.fport n).st = .disabled ∧ (s.fport n).crcerr = 0) ∧ s.fab.e2e = 10 ∧ (∀ d, s.noRoute d = true) ∧
  (s.pwr.eff = 0 ∧ s.pwr.req = 0 ∧ s.pwr.ilim = 44 ∧ s.pwr.cap = 2800 ∧ s.pwr.tcrit = 110 ∧ s.pwr.tthrot = 100 ∧ ∀ n, s.dom n = .on) ∧
  s.sec.st = .rom ∧ (∀ n, tget (0 : BitVec 256) s.sec.meas n = 0) ∧ s.pending = []

/-- R3, R12 and log 2: main memory, as every command leaves it, is in the one canonical form of its bytes: addresses strictly rising,
no byte listed that reads as an unwritten one; so equal memories are equal data. -/
def Obligations.MemoryKeepsItsCanonicalForm : Prop :=
  ∀ (s t : State), s.memWf = true → step s = .next t → t.memWf = true

/-! ## Words of core instructions (04 to 11) -/

/-- Chapters 4 to 11, the encoding tables: for every well-formed core instruction, decoding the word that the encoder gives it, with
its RsvZ bits, on the core that it names gives it back: no operand and no bit of an encoding is dropped. -/
def Obligations.DecodeInvertsEncode : Prop :=
  ∀ (i : Instr) (h : Issue), i.issue = some h → i.wf = true → decodeWord h.core (wordOf i ||| h.rsvz) = i

/-- The same chapters: every word of 32 bits on a core is a well-formed instruction of that core, and encodes again as itself. -/
def Obligations.EveryWordIsOneInstruction : Prop :=
  ∀ (c : CoreId) (w : BitVec 32), let i := decodeWord c w
    i.wf = true ∧ ∃ h, i.issue = some h ∧ h.core = c ∧ wordOf i ||| h.rsvz = w

/-! ## Integer instructions (R64, R67, R68) -/

/-- R67 and R64: each integer instruction of Table 4.4 that can raise no trap completes, writes rd with the result that the
table gives, and changes nothing else; x0 takes nothing. Shift amounts of registers are bits 5:0.
R68: where no trap is allowed or none is due, ADDO, SUBO and MULO write the wrapped result; DIV and REM round toward
zero; a zero divisor gives all ones and rs1; −2^63 / −1 gives −2^63 with remainder 0. -/
def Obligations.IntegerInstructionsWriteTheirResult : Prop :=
  (∀ (s : State) (h : Issue) (rd rs1 rs2 : Reg) (imm : BitVec 16) (n : BitVec 6),
     s.ready h.core.val = true → h.rsvz = 0 →
     let c := h.core.val
     let a := xget (s.core c) rs1
     let b := xget (s.core c) rs2
     let i : Int := imm.toInt
     let sh := b.toNat % 64
     (∀ p ∈ [(AluOp.add, BitVec.ofInt 64 (a.toInt + b.toInt)), (.sub, BitVec.ofInt 64 (a.toInt - b.toInt)),
         (.and, a &&& b), (.or, a ||| b), (.xor, a ^^^ b), (.sll, BitVec.ofNat 64 (a.toNat * 2 ^ sh)),
         (.srl, BitVec.ofNat 64 (a.toNat / 2 ^ sh)), (.sra, BitVec.ofInt 64 (a.toInt / 2 ^ sh))],
       ∃ t, exec (.addSubLogicShift h p.1 rd rs1 rs2) s = .next t ∧ s.writesReg t c rd p.2) ∧
     (∃ t, exec (.sltSltu h false rd rs1 rs2) s = .next t ∧
       s.writesReg t c rd (if a.toInt < b.toInt then 1 else 0)) ∧
     (∃ t, exec (.sltSltu h true rd rs1 rs2) s = .next t ∧
       s.writesReg t c rd (if a.toNat < b.toNat then 1 else 0)) ∧
     (∀ p ∈ [(MinMaxOp.min, BitVec.ofInt 64 (min a.toInt b.toInt)), (.max, BitVec.ofInt 64 (max a.toInt b.toInt)),
         (.minu, BitVec.ofNat 64 (min a.toNat b.toNat)), (.maxu, BitVec.ofNat 64 (max a.toNat b.toNat))],
       ∃ t, exec (.minMax h p.1 rd rs1 rs2) s = .next t ∧ s.writesReg t c rd p.2) ∧
     (∃ t z, exec (.clzCtzPopc h .clz rd rs1) s = .next t ∧ s.writesReg t c rd (BitVec.ofNat 64 z) ∧ z ≤ 64 ∧
       a.toNat < 2 ^ (64 - z) ∧ (z < 64 → 2 ^ (63 - z) ≤ a.toNat)) ∧
     (∃ t z, exec (.clzCtzPopc h .ctz rd rs1) s = .next t ∧ s.writesReg t c rd (BitVec.ofNat 64 z) ∧ z ≤ 64 ∧
       2 ^ z ∣ a.toNat ∧ (z < 64 → ¬ 2 ^ (z + 1) ∣ a.toNat) ∧ (z = 64 → a = 0)) ∧
     (∃ t, exec (.clzCtzPopc h .popc rd rs1) s = .next t ∧
       s.writesReg t c rd (BitVec.ofNat 64 ((Finset.range 64).filter (fun j => a.getLsbD j = true)).card)) ∧
     (∃ t, exec (.sextWZextW h false rd rs1) s = .next t ∧ s.writesReg t c rd (BitVec.ofInt 64 (a.toInt.bmod (2 ^ 32)))) ∧
     (∃ t, exec (.sextWZextW h true rd rs1) s = .next t ∧ s.writesReg t c rd (BitVec.ofNat 64 (a.toNat % 2 ^ 32))) ∧
     (∀ p ∈ [(ImmOp.addi, BitVec.ofInt 64 (a.toInt + i)), (.andi, a &&& BitVec.ofInt 64 i),
         (.ori, a ||| BitVec.ofInt 64 i), (.xori, a ^^^ BitVec.ofInt 64 i), (.slti, if a.toInt < i then 1 else 0),
         (.sltiu, if a.toNat < (BitVec.ofInt 64 i).toNat then 1 else 0)],
       ∃ t, exec (.addiAndiOriXoriSlti h p.1 rd rs1 imm) s = .next t ∧ s.writesReg t c rd p.2) ∧
     (∀ p ∈ [(0#2, BitVec.ofNat 64 (a.toNat * 2 ^ n.toNat)), (1, BitVec.ofNat 64 (a.toNat / 2 ^ n.toNat)),
         (2, BitVec.ofInt 64 (a.toInt / 2 ^ n.toNat))],
       ∃ t, exec (.shi h p.1 n rd rs1) s = .next t ∧ s.writesReg t c rd p.2) ∧
     (∃ t, exec (.lsi h rd rs1 imm) s = .next t ∧
       s.writesReg t c rd (BitVec.ofNat 64 (a.toNat * 2 ^ 16 + imm.toNat))) ∧
     (∀ p ∈ [(MulOp.mul, BitVec.ofInt 64 (a.toInt * b.toInt)), (.mulh, BitVec.ofInt 64 (a.toInt * b.toInt / 2 ^ 64)),
         (.mulhu, BitVec.ofNat 64 (a.toNat * b.toNat / 2 ^ 64))],
       ∃ t, exec (.mulMulhMulhu h p.1 rd rs1 rs2) s = .next t ∧ s.writesReg t c rd p.2)) ∧
  (∀ (s : State) (h : Issue) (rd rs1 rs2 : Reg),
     s.ready h.core.val = true → h.rsvz = 0 →
     let c := h.core.val
     let k := s.core c
     let a := xget k rs1
     let b := xget k rs2
     let inRange := fun (x : Int) => -(2 ^ 63) ≤ x ∧ x < 2 ^ 63
     (∀ p ∈ [(false, a.toInt + b.toInt), (true, a.toInt - b.toInt)], (inRange p.2 ∨ enabled k 1 = false) →
       ∃ t, exec (.addoSubo h p.1 rd rs1 rs2) s = .next t ∧ s.writesReg t c rd (BitVec.ofInt 64 p.2)) ∧
     ((inRange (a.toInt * b.toInt) ∨ enabled k 1 = false) →
       ∃ t, exec (.mulo h rd rs1 rs2) s = .next t ∧ s.writesReg t c rd (BitVec.ofInt 64 (a.toInt * b.toInt))) ∧
     (b ≠ 0 → (inRange (a.toInt.tdiv b.toInt) ∨ enabled k 1 = false) →
       ∃ t, exec (.divDivuRemRemu h .div rd rs1 rs2) s = .next t ∧
         s.writesReg t c rd (BitVec.ofInt 64 (a.toInt.tdiv b.toInt))) ∧
     (b ≠ 0 → ∀ p ∈ [(DivOp.divu, BitVec.ofNat 64 (a.toNat / b.toNat)), (.rem, BitVec.ofInt 64 (a.toInt.tmod b.toInt)),
         (.remu, BitVec.ofNat 64 (a.toNat % b.toNat))],
       ∃ t, exec (.divDivuRemRemu h p.1 rd rs1 rs2) s = .next t ∧ s.writesReg t c rd p.2) ∧
     (b = 0 → enabled k 0 = false → ∀ p ∈ [(DivOp.div, BitVec.allOnes 64), (.divu, BitVec.allOnes 64), (.rem, a), (.remu, a)],
       ∃ t, exec (.divDivuRemRemu h p.1 rd rs1 rs2) s = .next t ∧ s.writesReg t c rd p.2))

/-- R67 to R70, R73 and R66: where the spec names a trap, the instruction raises it and writes nothing: INT_OVERFLOW and
DIV_ZERO where the enables of the level allow them, MISALIGNED with the target of a JALR, ILLEGAL_INSN with the word of an
unassigned operation, kind or condition and of a LOOP on an armed level. -/
def Obligations.ScalarInstructionsRaiseTheirTraps : Prop :=
  ∀ (s : State) (h : Issue) (rd rs1 rs2 : Reg), s.ready h.core.val = true → h.rsvz = 0 →
    let c := h.core.val
    let k := s.core c
    let a := xget k rs1
    let b := xget k rs2
    let out := fun (x : Int) => x < -(2 ^ 63) ∨ 2 ^ 63 ≤ x
    (s.canTrap c 0x09 = true → enabled k 1 = true →
      (∀ p ∈ [(false, a.toInt + b.toInt), (true, a.toInt - b.toInt)], out p.2 →
        ∃ t, exec (.addoSubo h p.1 rd rs1 rs2) s = .next t ∧ s.traps t c ⟨0x09, 0, 0⟩) ∧
      (out (a.toInt * b.toInt) → ∃ t, exec (.mulo h rd rs1 rs2) s = .next t ∧ s.traps t c ⟨0x09, 0, 0⟩) ∧
      (a.toInt = -(2 ^ 63) → b.toInt = -1 →
        ∃ t, exec (.divDivuRemRemu h .div rd rs1 rs2) s = .next t ∧ s.traps t c ⟨0x09, 0, 0⟩)) ∧
    (s.canTrap c 0x08 = true → enabled k 0 = true → b = 0 → ∀ op : DivOp,
      ∃ t, exec (.divDivuRemRemu h op rd rs1 rs2) s = .next t ∧ s.traps t c ⟨0x08, 0, 0⟩) ∧
    (s.canTrap c 0x03 = true → ∀ imm : BitVec 16, (a.toInt + imm.toInt) % 4 ≠ 0 →
      ∃ t, exec (.jalr h rd rs1 imm) s = .next t ∧ s.traps t c ⟨0x03, BitVec.ofInt 64 (a.toInt + imm.toInt), 0⟩) ∧
    (s.canTrap c 0x01 = true →
      (∀ w : BitVec 32, ∃ t, exec (.addSubLogicShift h (.unassigned w) rd rs1 rs2) s = .next t ∧
        s.traps t c ⟨0x01, w.setWidth 64, 0⟩) ∧
      (∀ n : BitVec 6, ∃ t, exec (.shi h 3 n rd rs1) s = .next t ∧
        s.traps t c ⟨0x01, (wordOf (.shi h 3 n rd rs1)).setWidth 64, 0⟩) ∧
      (∀ (cond : BitVec 3) (woff : BitVec 13), 6 ≤ cond.toNat →
        ∃ t, exec (.branch h cond rs1 rs2 woff) s = .next t ∧
          s.traps t c ⟨0x01, (wordOf (.branch h cond rs1 rs2 woff)).setWidth 64, 0⟩) ∧
      (∀ (l : Fin 2) (len : BitVec 10), (if l = 0 then k.lp.lc0 else k.lp.lc1) ≠ 0 →
        ∃ t, exec (.loop h l rs1 len) s = .next t ∧
          s.traps t c ⟨0x01, (wordOf (.loop h l rs1 len)).setWidth 64, 0⟩))

/-! ## Every core instruction (R66, R102, R91) -/

/-- R66: a core instruction with a nonzero RsvZ field raises ILLEGAL_INSN before it has any effect; the trap records the word
as it was fetched, RsvZ bits included.
R102, R82, R83, R91: at the boundary before any core instruction a core that may issue takes the asynchronous trap that is due and
executes nothing of the instruction: WATCHDOG first, then ENGINE_PARITY, then the lowest-numbered takeable interrupt, each at
the level the spec names and with EPC the instruction's address; loads in flight that have their data write it first. That an
interrupt waits while the handler of its level runs, from a lower level too, is the model's choice (log 57).
R77, R209: the fetch goes next: a trap that it finds is raised in the instruction's place; one that passes leaves the state,
its caches filled, in which the instruction is executed. -/
def Obligations.BoundaryChecksGoFirst : Prop :=
  (∀ (i : Instr) (h : Issue) (s : State), i.issue = some h → s.ready h.core.val = true → h.rsvz ≠ 0 →
     s.canTrap h.core.val 0x01 = true →
     ∃ t, exec i s = .next t ∧ s.traps t h.core.val ⟨0x01, (wordOf i ||| h.rsvz).setWidth 64, 0⟩) ∧
  (∀ (i : Instr) (h : Issue) (s : State), i.issue = some h →
     let c := h.core.val
     let k := s.core c
     let ip := ipOf (s.ctxOf c) k
     let lvl := fun n => if bitAt k.tc.iroute n then Level.f else Level.s
     let takes := fun n => bitAt ip n && bitAt (if bitAt k.tc.iroute n then k.tc.imaskF else k.tc.imaskS) n &&
       (decide (k.level.num < (lvl n).num) || (decide (k.level = lvl n) && stIE (tregs k (lvl n)))) &&
       !stIH (tregs k (lvl n))
     s.canIssue c = true → k.run = .running → k.mem.miss = [] → s.midAccess c = false → s.waiting (.core c) = false →
     (∀ s1, (s.takeAsync c).isSome = true → s.settle c = (s1, false) → exec i s = exec i s1) ∧
     (k.mem.loads = [] →
     (k.watchdog = true → ∀ l, l = (if k.level = .f ∨ bitAt k.tc.wdctl 1 = true then Level.f else .s) →
       stIH (tregs k l) = false →
       ∃ t k', exec i s = .next t ∧ s.onlyCore t c k' ∧ { k with watchdog := false }.enters k' l k.pc ⟨0x21, 0, 0⟩) ∧
     (k.watchdog = false → ∀ d, k.parity = some d → stIH (tregs k (k.target 0x0F)) = false →
       ∃ t k', exec i s = .next t ∧ s.onlyCore t c k' ∧
         { k with parity := none }.enters k' (k.target 0x0F) k.pc ⟨0x0F, 0, d⟩) ∧
     (k.watchdog = false → k.parity = none → ∀ n, n < 6 → takes n = true → (∀ m, m < n → takes m = false) →
       ∃ t k', exec i s = .next t ∧ s.onlyCore t c k' ∧ k.enters k' (lvl n) k.pc ⟨0x20, 0, BitVec.ofNat 32 n⟩))) ∧
  (∀ (i : Instr) (h : Issue) (s s' : State), i.issue = some h →
     let c := h.core.val
     s.canIssue c = true → (s.core c).mem.miss = [] → (s.core c).mem.loads = [] → asyncTrap (s.ctxOf c) (s.core c) = none →
     s'.pending = s.pending →
     (s.fetch c = (s', none) → s'.ready c = true → exec i s = exec i s') ∧
     (∀ t', s.fetch c = (s', some t') → s'.canTrap c t'.code = true →
       ∃ t, exec i s = .next t ∧ s'.traps t c t'))

/-- A core that waits, has halted, is wedged or idle, or whose cluster is off executes nothing: the command leaves the
whole state as it is (R92, R103, R368; what such a command does is the model's choice, log 11). -/
def Obligations.HeldCoreExecutesNothing : Prop :=
  ∀ (i : Instr) (h : Issue) (s : State), i.issue = some h → s.canIssue h.core.val = false → exec i s = .next s

/-! ## Control transfer and loops (R69, R70, R73) -/

/-- R70 and Table 4.6: a branch whose condition holds goes to its address plus 4 × woff13, one whose condition does not hold
completes; JAL and JALR write the address of the next instruction to rd and go to their target. Nothing else changes.
R73: LOOP on a level that is not armed sets LS, LE and LC of that level and completes, or goes past the body when the count
is zero; LOOP.X disarms its level. The other level's registers, and everything else, stay. -/
def Obligations.BranchesAndLoopsTransferControl : Prop :=
  (∀ (s : State) (h : Issue) (rd rs1 rs2 : Reg), s.ready h.core.val = true → h.rsvz = 0 →
     let c := h.core.val
     let k := s.core c
     let a := xget k rs1
     let b := xget k rs2
     (∀ woff : BitVec 13, ∀ p ∈ [(0#3, a = b), (1, a ≠ b), (2, a.toInt < b.toInt), (3, b.toInt ≤ a.toInt),
         (4, a.toNat < b.toNat), (5, b.toNat ≤ a.toNat)],
       ∃ t, exec (.branch h p.1 rs1 rs2 woff) s = .next t ∧
         (p.2 → s.jumps t c k (k.pc + BitVec.ofInt 64 (4 * woff.toInt))) ∧ (¬ p.2 → s.completes t c k)) ∧
     (∀ woff : BitVec 21, ∃ t k', exec (.jal h rd woff) s = .next t ∧ k.wroteReg k' rd (k.pc + 4) ∧
       s.jumps t c k' (k.pc + BitVec.ofInt 64 (4 * woff.toInt))) ∧
     (∀ imm : BitVec 16, (a.toInt + imm.toInt) % 4 = 0 →
       ∃ t k', exec (.jalr h rd rs1 imm) s = .next t ∧ k.wroteReg k' rd (k.pc + 4) ∧
         s.jumps t c k' (BitVec.ofInt 64 (a.toInt + imm.toInt)))) ∧
  (∀ (s : State) (h : Issue) (rs1 : Reg) (lenM1 : BitVec 10), s.ready h.core.val = true → h.rsvz = 0 →
     let c := h.core.val
     let k := s.core c
     let n : Word := BitVec.ofNat 64 ((xget k rs1).toNat % 2 ^ 32)
     let le : Word := k.pc + BitVec.ofNat 64 (4 * (lenM1.toNat + 1))
     let k0 : Core := { k with lp := { k.lp with lc0 := n, ls0 := k.pc + 4, le0 := le } }
     let k1 : Core := { k with lp := { k.lp with lc1 := n, ls1 := k.pc + 4, le1 := le } }
     (k.lp.lc0 = 0 → ∃ t, exec (.loop h 0 rs1 lenM1) s = .next t ∧
       (n ≠ 0 → s.completes t c k0) ∧ (n = 0 → s.jumps t c k0 (le + 4))) ∧
     (k.lp.lc1 = 0 → ∃ t, exec (.loop h 1 rs1 lenM1) s = .next t ∧
       (n ≠ 0 → s.completes t c k1) ∧ (n = 0 → s.jumps t c k1 (le + 4))) ∧
     (∃ t, exec (.loopX h 0) s = .next t ∧ s.completes t c { k with lp := { k.lp with lc0 := 0 } }) ∧
     (∃ t, exec (.loopX h 1) s = .next t ∧ s.completes t c { k with lp := { k.lp with lc1 := 0 } }))

/-! ## Scalar floating point (R65, R72, Table 4.7) -/

/-- R65, R72: each scalar floating-point instruction rounds its exact result once to nearest-even and writes it to bits 15:0
of rd, zero above; a NaN, 0 / 0 and the root of a negative nonzero value give the canonical NaN; a result that saturates sets
SOVF when FP_OVERFLOW is not enabled. Comparisons and the conversion to an integer write all 64 bits. Nothing else changes. That a zero quotient is +0 where the spec gives no sign is
the model's choice (log 66).
R72: with the enables set, a result above the largest finite value raises FP_OVERFLOW and FDIV of a finite nonzero value
by zero raises DIV_ZERO, and nothing is written; without DZ the division saturates to the largest finite value of the
quotient's sign and sets SOVF. -/
def Obligations.ScalarFloatResultsAndTraps : Prop :=
  (∀ (s : State) (h : Issue) (fp16 : Bool) (rd rs1 rs2 : Reg), s.ready h.core.val = true → h.rsvz = 0 →
     let c := h.core.val
     let k := s.core c
     let f : Fmt := if fp16 then .fp16 else .bf16
     let g : Fmt := if fp16 then .bf16 else .fp16
     let val := fun (f : Fmt) (r : Reg) => decodeElem f ((xget k r).toNat % 65536)
     let a := val f rs1
     let b := val f rs2
     let rounds := fun (i : Instr) (v : Val) => ∀ code sat, roundTo f .even v = (code, sat) →
       (sat = false ∨ enabled k 3 = false) →
       ∃ t k', exec i s = .next t ∧
         { k with cr := { k.cr with cflags := if sat then k.cr.cflags ||| 4 else k.cr.cflags } }.wroteReg k' rd
           (BitVec.ofNat 64 code) ∧ s.completes t c k'
     rounds (.faddFsubFmul h fp16 .fadd rd rs1 rs2) (a.add b) ∧
     rounds (.faddFsubFmul h fp16 .fsub rd rs1 rs2) (a.add b.negate) ∧
     rounds (.faddFsubFmul h fp16 .fmul rd rs1 rs2) (a.mul b) ∧
     rounds (.fma h fp16 rd rs1 rs2) ((val f rd).add (a.mul b)) ∧
     rounds (.fcvtF h fp16 rd rs1) (val g rs1) ∧
     rounds (.fcvtFi h fp16 rd rs1) (.num (decide ((xget k rs1).toInt < 0)) (xget k rs1).toInt.natAbs 0) ∧
     rounds (.fsqrt h fp16 rd rs1) a.sqrt ∧
     (¬(a.isNum = true ∧ a.isZero = false ∧ b.isZero = true) → rounds (.fdiv h fp16 rd rs1 rs2) (a.div b)) ∧
     (∀ mx : Bool, (a.isNum = false ∨ b.isNum = false) → rounds (.fminFmax h fp16 mx rd rs1 rs2) .nan) ∧
     (a.isNum = true → b.isNum = true →
       (a.lt b = true ∨ (a.eqv b = true ∧ a.neg? = true ∧ b.neg? = false) →
         rounds (.fminFmax h fp16 false rd rs1 rs2) a ∧ rounds (.fminFmax h fp16 true rd rs1 rs2) b) ∧
       (b.lt a = true ∨ (a.eqv b = true ∧ b.neg? = true ∧ a.neg? = false) →
         rounds (.fminFmax h fp16 false rd rs1 rs2) b ∧ rounds (.fminFmax h fp16 true rd rs1 rs2) a) ∧
       (a.eqv b = true ∧ a.neg? = b.neg? →
         rounds (.fminFmax h fp16 false rd rs1 rs2) b ∧ rounds (.fminFmax h fp16 true rd rs1 rs2) a)) ∧
     (∀ p ∈ [(FCmpOp.eq, a.eqv b), (.lt, a.lt b), (.le, a.lt b || a.eqv b)],
       ∃ t, exec (.fcmp h fp16 p.1 rd rs1 rs2) s = .next t ∧
         s.writesReg t c rd (if a.isNum && b.isNum && p.2 then 1 else 0)) ∧
     (∃ t v, exec (.fcvtIf h fp16 rd rs1) s = .next t ∧ s.writesReg t c rd (BitVec.ofInt 64 v) ∧
       -(2 ^ 63) ≤ v ∧ v < 2 ^ 63 ∧ (a = .nan → v = 0) ∧
       ∀ neg m e, a = .num neg m e →
         let q : Int := if 0 ≤ e then m * 2 ^ e.toNat else m / 2 ^ (-e).toNat
         let x : Int := if neg then -q else q
         v = max (-(2 ^ 63)) (min (2 ^ 63 - 1) x))) ∧
  (∀ (s : State) (h : Issue) (fp16 : Bool) (rd rs1 rs2 : Reg), s.ready h.core.val = true → h.rsvz = 0 →
     let c := h.core.val
     let k := s.core c
     let f : Fmt := if fp16 then .fp16 else .bf16
     let g : Fmt := if fp16 then .bf16 else .fp16
     let a := decodeElem f ((xget k rs1).toNat % 65536)
     let b := decodeElem f ((xget k rs2).toNat % 65536)
     (enabled k 3 = true → s.canTrap c 0x0A = true →
       (∀ p ∈ ([(.faddFsubFmul h fp16 .fadd rd rs1 rs2, a.add b), (.faddFsubFmul h fp16 .fsub rd rs1 rs2, a.add b.negate),
           (.faddFsubFmul h fp16 .fmul rd rs1 rs2, a.mul b),
           (.fma h fp16 rd rs1 rs2, (decodeElem f ((xget k rd).toNat % 65536)).add (a.mul b)),
           (.fcvtF h fp16 rd rs1, decodeElem g ((xget k rs1).toNat % 65536)),
           (.fcvtFi h fp16 rd rs1, .num (decide ((xget k rs1).toInt < 0)) (xget k rs1).toInt.natAbs 0)] : List (Instr × Val)),
         (roundTo f .even p.2).2 = true → ∃ t, exec p.1 s = .next t ∧ s.traps t c ⟨0x0A, 0, 0⟩) ∧
       (b.isZero = false → (roundTo f .even (a.div b)).2 = true →
         ∃ t, exec (.fdiv h fp16 rd rs1 rs2) s = .next t ∧ s.traps t c ⟨0x0A, 0, 0⟩)) ∧
     (a.isNum = true → a.isZero = false → b.isZero = true →
       (enabled k 0 = true → s.canTrap c 0x08 = true →
         ∃ t, exec (.fdiv h fp16 rd rs1 rs2) s = .next t ∧ s.traps t c ⟨0x08, 0, 1⟩) ∧
       (enabled k 0 = false →
         ∃ t k', exec (.fdiv h fp16 rd rs1 rs2) s = .next t ∧
           { k with cr := { k.cr with cflags := k.cr.cflags ||| 4 } }.wroteReg k' rd
             (BitVec.ofNat 64 ((if fp16 then 0x7BFF else 0x7F7F) + (if a.neg? = b.neg? then 0 else 0x8000))) ∧
           s.completes t c k')))

/-! ## Control registers (R74, R85, R86, R88, R101, R104, R108, R109) and translation buffers (R80) -/

/-- R74, R85, R88, R101, R108: CRGET writes to rd the value of the register that creg names, for every register and level that
the maps of Tables 4.8, 5.1 and 6.2 allow, and changes nothing else. ELROWS and ELCOLS of TCFGn aside, which are computed, the
value is what was written.
R74, R85, R88, R104, R108 and the register tables: CRPUT, CRSWAP, CRBSET and CRBCLR, where the level may write, give a
register's RW fields the new value, keep its RsvZ bits clear, write the old value to rd (all but CRPUT), and change nothing
else: ASCTL where the partition holds the ASID, the STATUS registers where PLVL and PBANK name levels that they may, WDCTL with
WDCNT as it was, the window to the registers of the bank that PBANK names. The bits that CRPUT or CRSWAP writes to a W1C field
are cleared. A write of CFLAGS while conversions are queued waits, the state left as it is for the same command sent again: the
model's choice (logs 57, 67). LBCFG, CORE_CFG, WDKICK, CTCMP, VSHAPE and TCFGn have a statement of their own. -/
def Obligations.ControlRegistersReadAndWrite : Prop :=
  (∀ (s : State) (h : Issue) (rd : Reg), s.ready h.core.val = true → h.rsvz = 0 →
     let c := h.core.val
     let k := s.core c
     let bank : Level := if saveset k then .u else stPBANK (tregs k k.level)
     (∀ l ∈ [s.crBasic c, k.crControl, k.crTrapS, k.crTrapF, s.crEvents c], ∀ p ∈ l,
       p.2.1.num ≤ k.level.num →
       ∃ t, exec (.crget h rd p.1) s = .next t ∧ s.writesReg t c rd p.2.2) ∧
     (∀ n : Fin 16, ∃ t v, exec (.crget h rd (BitVec.ofNat 12 (0x030 + n.val))) s = .next t ∧ s.writesReg t c rd v ∧
       v &&& 0x3FFFFFFFFFFF#64 = tcfg k n.val &&& 0x3FFFFFFFFFFF#64) ∧
     (∃ t v, exec (.crget h rd 0x080) s = .next t ∧ s.writesReg t c rd v ∧ v &&& 0xFFFFFFFFFFFFFF0F#64 = k.cr.fired.setWidth 64) ∧
     (∀ n : Fin 32, k.level ≠ .u → ∃ t, exec (.crget h rd (BitVec.ofNat 12 (0x1E0 + n.val))) s = .next t ∧
       s.writesReg t c rd (bget k bank n.val))) ∧
  (∀ (s : State) (h : Issue) (rd rs1 : Reg), s.ready h.core.val = true → h.rsvz = 0 →
     let c := h.core.val
     let k := s.core c
     let a := xget k rs1
     let puts := fun (n : BitVec 12) (old : Word) (upd : Word → Core) =>
       (∃ t, exec (.crput h n rs1) s = .next t ∧ s.completes t c (upd a)) ∧
       (∃ t k', exec (.crswap h rd n rs1) s = .next t ∧ (upd a).wroteReg k' rd old ∧ s.completes t c k')
     let sets := fun (n : BitVec 12) (old : Word) (upd : Word → Core) =>
       ∃ t k', exec (.crbset h rd n rs1) s = .next t ∧ (upd (old ||| a)).wroteReg k' rd old ∧ s.completes t c k'
     let clears := fun (n : BitVec 12) (old : Word) (upd : Word → Core) =>
       ∃ t k', exec (.crbclr h rd n rs1) s = .next t ∧ (upd (old &&& ~~~a)).wroteReg k' rd old ∧ s.completes t c k'
     let writesIf := fun (n : BitVec 12) (old : Word) (ok : Word → Prop) (upd : Word → Core) =>
       (ok a → puts n old upd) ∧ (ok (old ||| a) → sets n old upd) ∧ (ok (old &&& ~~~a) → clears n old upd)
     let writes := fun (n : BitVec 12) (old : Word) (upd : Word → Core) => writesIf n old (fun _ => True) upd
     let status := fun (r : TrapRegs) => if saveset k then r.status &&& ~~~0x600#64 else r.status
     let count := wdcnt (s.ctxOf c) k
     (k.level ≠ .u → writesIf 0x060 k.cr.asctl (fun v => field v 48 16 / 2048 = s.owner (c / 8))
       (fun v => { k with cr := { k.cr with asctl := v &&& ~~~0xFFF } })) ∧
     (k.level ≠ .u → writesIf 0x111 (status k.ts) (fun v => field v 7 2 < 2 ∧ field v 9 2 < 2)
       (fun v => { k with ts := { k.ts with status := v &&& 0xF87 } })) ∧
     (k.level = .f → writesIf 0x121 (status k.tf) (fun v => field v 7 2 < 3 ∧ field v 9 2 < 3)
       (fun v => { k with tf := { k.tf with status := v &&& 0xF87 } })) ∧
     (k.level ≠ .u → writesIf 0x140 k.tc.wdctl (fun v => k.level = .s → bitAt v 1 = bitAt k.tc.wdctl 1)
       (fun v => { k with tc := { k.tc with
         wdctl := v &&& 0xFFFF0003, wdBase := if bitAt v 0 then (s.now : Int) - count else count } })) ∧
     (k.level ≠ .u → ∀ n : Fin 32,
       let bank : Level := if saveset k then .u else stPBANK (tregs k k.level)
       writes (BitVec.ofNat 12 (0x1E0 + n.val)) (bget k bank n.val) (fun v => bset k bank n.val v)) ∧
     (∀ p ∈ k.crPlainU,
       writes p.1 p.2.1 p.2.2) ∧
     (k.level ≠ .u → ∀ p ∈ k.crPlainS,
       writes p.1 p.2.1 p.2.2) ∧
     (k.level = .f → ∀ p ∈ k.crPlainF,
       writes p.1 p.2.1 p.2.2) ∧
     (∀ m : Level, k.level = m → writes 0x100 (trapen k m) (fun v => { k with tc := match m with
         | .u => { k.tc with trapenU := v &&& 0xF }
         | .s => { k.tc with trapenS := v &&& 0xF }
         | .f => { k.tc with trapenF := v &&& 0xF } })) ∧
     ((∀ e ∈ k.tile.queue, e.op.skiver = false) → puts 0x014 (k.cr.cflags.setWidth 64)
       (fun v => { k with cr := { k.cr with cflags := k.cr.cflags &&& ~~~(v.setWidth 4) } })) ∧
     ((∃ e ∈ k.tile.queue, e.op.skiver = true) →
       exec (.crput h 0x014 rs1) s = .next s ∧ exec (.crswap h rd 0x014 rs1) s = .next s) ∧
     puts 0x080 (crRead (s.ctxOf c) k 0x080)
       (fun v => { k with cr := { k.cr with fired := k.cr.fired &&& ~~~(v.setWidth 4) } }) ∧
     (k.level ≠ .u → puts 0x13A (crRead (s.ctxOf c) k 0x13A)
       (fun v => { k with tc := { k.tc with ip := k.tc.ip &&& ~~~(v.setWidth 6) } })))

/-- R74, R25: the checks of a control-register access in their order. An unassigned number, a write of a register that
no level may write, and CRBSET or CRBCLR of a register with a W1C field raise ILLEGAL_INSN; a level that the map does not
allow raises PRIV_INSN, as does every operation on WDKICK that reads it, and a write from S that changes WDCTL.LVL; a CRPUT to
ASCTL of an ASID outside the partition raises ACCESS with DETAIL 4. Nothing is written. -/
def Obligations.ControlRegisterChecks : Prop :=
  ∀ (s : State) (h : Issue) (rd rs1 : Reg) (n : BitVec 12), s.ready h.core.val = true → h.rsvz = 0 →
    let c := h.core.val
    let k := s.core c
    let a := xget k rs1
    let m := n.toNat
    let readOnly := m ≤ 4 ∨ m = 0x021 ∨ m = 0x142
    let assigned := readOnly ∨ (0x010 ≤ m ∧ m ≤ 0x014) ∨ (0x020 ≤ m ∧ m ≤ 0x024) ∨ (0x030 ≤ m ∧ m ≤ 0x040) ∨
      (0x050 ≤ m ∧ m ≤ 0x055) ∨ m ∈ [0x060, 0x070, 0x080, 0x100, 0x101, 0x102] ∨ (0x110 ≤ m ∧ m ≤ 0x11B) ∨
      (0x120 ≤ m ∧ m ≤ 0x12B) ∨ (0x130 ≤ m ∧ m ≤ 0x133) ∨ (0x138 ≤ m ∧ m ≤ 0x13D) ∨ (0x140 ≤ m ∧ m ≤ 0x142) ∨
      (0x1E0 ≤ m ∧ m ≤ 0x1FF) ∨ m = 0x200
    let onlyF := m ∈ [0x102, 0x138, 0x13C, 0x200] ∨ (0x120 ≤ m ∧ m ≤ 0x12B)
    let writeF := onlyF ∨ m ∈ [0x132, 0x133, 0x139]
    let readS := onlyF ∨ m ∈ [0x060, 0x101] ∨ (0x110 ≤ m ∧ m ≤ 0x11B) ∨ (0x130 ≤ m ∧ m ≤ 0x133) ∨
      (0x138 ≤ m ∧ m ≤ 0x142 ∧ m ≠ 0x141) ∨ (0x1E0 ≤ m ∧ m ≤ 0x1FF)
    let illegal := fun (i : Instr) => s.canTrap c 0x01 = true →
      ∃ t, exec i s = .next t ∧ s.traps t c ⟨0x01, (wordOf i).setWidth 64, 0⟩
    let priv := fun (i : Instr) => s.canTrap c 0x02 = true →
      ∃ t, exec i s = .next t ∧ s.traps t c ⟨0x02, (wordOf i).setWidth 64, 0⟩
    (¬ assigned → illegal (.crget h rd n)) ∧
    (¬ assigned ∨ readOnly → illegal (.crput h n rs1) ∧ illegal (.crswap h rd n rs1) ∧ illegal (.crbset h rd n rs1) ∧
      illegal (.crbclr h rd n rs1)) ∧
    (m ∈ [0x014, 0x080, 0x13A] → illegal (.crbset h rd n rs1) ∧ illegal (.crbclr h rd n rs1)) ∧
    (assigned → (k.level = .u ∧ (readS ∨ m = 0x141)) ∨ (k.level = .s ∧ (onlyF ∨ m = 0x141)) ∨ m = 0x141 →
      priv (.crget h rd n)) ∧
    (assigned → ¬ readOnly → (k.level = .u ∧ (readS ∨ m ∈ [0x070, 0x141])) ∨ (k.level = .s ∧ writeF) →
      priv (.crput h n rs1) ∧ (m ∉ [0x014, 0x080, 0x13A] → priv (.crswap h rd n rs1) ∧ priv (.crbset h rd n rs1) ∧
        priv (.crbclr h rd n rs1))) ∧
    (m = 0x141 → priv (.crswap h rd n rs1) ∧ priv (.crbset h rd n rs1) ∧ priv (.crbclr h rd n rs1)) ∧
    (k.level = .s → m = 0x140 → ∀ p ∈ ([(.crput h n rs1, a), (.crswap h rd n rs1, a), (.crbset h rd n rs1, k.tc.wdctl ||| a),
        (.crbclr h rd n rs1, k.tc.wdctl &&& ~~~a)] : List (Instr × Word)),
      bitAt p.2 1 ≠ bitAt k.tc.wdctl 1 → priv p.1) ∧
    (k.level ≠ .u → m = 0x060 → field a 48 16 / 2048 ≠ s.owner (c / 8) → s.canTrap c 0x07 = true →
      ∃ t, exec (.crput h n rs1) s = .next t ∧ s.traps t c ⟨0x07, a &&& ~~~0xFFF, 4⟩)

/-- R76, R86, R101, R104, R109, R133, R143, R149: a write of LBCFG, CORE_CFG, WDKICK, CTCMP, VSHAPE or TCFGn by any of the four
operations completes with the effect its rule gives and the old value in rd: a new SIZE drains the combining buffer, invalidates
the L1, keeps the landing-buffer bytes below the lesser size and zeroes those above; a new SAVEMODE selects the F or the U bank (rd
in the bank in use after the write: log 57); VSHAPE sets VCNT to the lesser of VCNT and the new capacity; a kick, by CRPUT alone, for
WDKICK cannot be read, sets WDCNT to 0; TCFGn discards what was latched from its tile. Nothing else changes. A SIZE of 0, a VSHAPE
beyond its tables, and a new SAVEMODE while a handler or gate of S or F is active raise ILLEGAL_INSN. A write of TCFGn waits at
issue while a queued instruction names the tile, before its value is judged and with the state left as it is (log 67); with
TPROG.V set or a value that R133 does not allow it raises ILLEGAL_INSN.
R80: TLB.INV at S or F removes exactly the matching entries (page and ASID, ASID, or every ASID of the partition) from the
buffer of the issuing core and of its cluster, and completes; at U it raises PRIV_INSN; at S an ASID outside the partition
raises ACCESS with DETAIL 5 and the value of rs2. -/
def Obligations.ConfigurationWritesAndTlb : Prop :=
  (∀ (s : State) (h : Issue) (a : CrArgs), s.ready h.core.val = true → h.rsvz = 0 → (a.op = .put → a.rd = 0) →
     let c := h.core.val
     let k := s.core c
     let v := xget k a.rs1
     let new := fun (old : Word) => newCrValue a old v
     let done := fun (i : Instr) (old : Word) (k1 : Core) => ∃ t k2, exec i s = .next t ∧
       (if a.op = .put then k2 = k1 else k1.wroteReg k2 a.rd old) ∧ s.completes t c k2
     let k1 : Core := { k with cr := { k.cr with lbcfg := new k.cr.lbcfg &&& 3 } }
     let o := field k.cr.lbcfg 0 2
     let n := field (new k.cr.lbcfg) 0 2
     let w := new k.cr.coreCfg
     let sh := new k.vec.vshape
     let ks : Core := { k with vec := { k.vec with vshape := sh &&& 0xF7 } }
     let cap := 2 ^ field sh 0 3 * 128 / tyWidth (vType (s.ctxOf c) ks)
     let busy := fun (n : BitVec 4) => ∃ e ∈ k.tile.queue, n.toNat ∈ e.op.reads ∨ n.toNat ∈ e.op.writes
     let illegal := fun (i : Instr) => ∃ t, exec i s = .next t ∧ s.traps t c ⟨0x01, (wordOf i).setWidth 64, 0⟩
     let priv := fun (i : Instr) => ∃ t, exec i s = .next t ∧ s.traps t c ⟨0x02, (wordOf i).setWidth 64, 0⟩
     (k.level ≠ .u → o = n → n ≠ 0 → done (.lbcfgWrite h a) k.cr.lbcfg k1) ∧
     (k.level ≠ .u → o ≠ n → n ≠ 0 → ∃ k2, (if a.op = .put then k2 = k1 else k1.wroteReg k2 a.rd k.cr.lbcfg) ∧
       let d := (s.setCore c k2).drainWcb c
       (s.calm d c → ∃ t k3, exec (.lbcfgWrite h a) s = .next t ∧ d.completes t c k3 ∧
         k3 = { d.core c with mem := k3.mem } ∧ k3.mem.l1 = [] ∧ k3.mem.victim = [] ∧
         (∀ j, j < 1536 → tget 0 k3.mem.landing j = if j < 512 * min o n then tget 0 (d.core c).mem.landing j else 0) ∧
         { k3.mem with l1 := (d.core c).mem.l1, victim := (d.core c).mem.victim, landing := (d.core c).mem.landing,
                       lbBad := (d.core c).mem.lbBad } = (d.core c).mem)) ∧
     (s.canTrap c 0x01 = true →
       (k.level ≠ .u → n = 0 → illegal (.lbcfgWrite h a)) ∧
       (10 < field sh 4 4 ∨ 4 < field sh 0 3 → illegal (.vshapeWrite h a)) ∧
       (k.level = .f → bitAt w 1 ≠ saveset k → (stIH k.ts = true ∨ stIH k.tf = true ∨ bitAt k.ts.gstatus 0 = true ∨
         bitAt k.tf.gstatus 0 = true) → illegal (.coreCfgWrite h a))) ∧
     (s.canTrap c 0x02 = true →
       (k.level = .u → ∀ i ∈ [Instr.lbcfgWrite h a, .coreCfgWrite h a, .wdkickWrite h a, .ctcmpWrite h a], priv i) ∧
       (k.level = .s → priv (.coreCfgWrite h a)) ∧ (a.op ≠ .put → priv (.wdkickWrite h a))) ∧
     (k.level = .f →
       (bitAt w 1 = saveset k → done (.coreCfgWrite h a) k.cr.coreCfg { k with cr := { k.cr with coreCfg := w &&& 3 } }) ∧
       (bitAt w 1 ≠ saveset k → stIH k.ts = false → stIH k.tf = false → bitAt k.ts.gstatus 0 = false →
         bitAt k.tf.gstatus 0 = false →
         done (.coreCfgWrite h a) k.cr.coreCfg
           { k with cr := { k.cr with coreCfg := w &&& 3 }, bank := if bitAt w 1 then .u else .f })) ∧
     (k.level ≠ .u → a.op = .put → ∃ t k1, exec (.wdkickWrite h a) s = .next t ∧ s.completes t c k1 ∧
       wdcnt (s.ctxOf c) k1 = 0 ∧ { k1 with tc := { k1.tc with wdBase := k.tc.wdBase } } = k) ∧
     (k.level ≠ .u → done (.ctcmpWrite h a) k.tc.ctcmp { k with tc := { k.tc with ctcmp := new k.tc.ctcmp } }) ∧
     (field sh 4 4 ≤ 10 → field sh 0 3 ≤ 4 → done (.vshapeWrite h a) k.vec.vshape
       { ks with vec := { ks.vec with vcnt := BitVec.ofNat 64 (min (field k.vec.vcnt 0 10) cap) } }) ∧
     (∀ n : BitVec 4, busy n → exec (.tcfgWrite h n a) s = .next s) ∧
     (∀ n : BitVec 4, ¬ busy n → s.canTrap c 0x01 = true →
       (bitAt k.tile.tprog 15 = true ∨ tcfgOk (new (crRead (s.ctxOf c) k (0x030 + n.toNat))) = false) →
       ∃ t, exec (.tcfgWrite h n a) s = .next t ∧ s.traps t c ⟨0x01, (wordOf (.tcfgWrite h n a)).setWidth 64, 0⟩) ∧
     (∀ n : BitVec 4, ¬ busy n → bitAt k.tile.tprog 15 = false →
       ∀ old, old = crRead (s.ctxOf c) k (0x030 + n.toNat) → tcfgOk (new old) = true →
       ∃ t k1 k2, exec (.tcfgWrite h n a) s = .next t ∧
         (if a.op = .put then k2 = k1 else k1.wroteReg k2 a.rd old) ∧ s.completes t c k2 ∧
         (∀ m, tcfg k1 m = if m = n.toNat then new old &&& 0xFFF000FE1FF else tcfg k m) ∧
         (∀ e ∈ k1.tile.latch, e.2.map (·.tile) ≠ some n.toNat) ∧
         { k1 with tile := { k1.tile with cfg := k.tile.cfg, latch := k.tile.latch } } = k)) ∧
  (∀ (s : State) (h : Issue) (rs1 rs2 : Reg), s.ready h.core.val = true → h.rsvz = 0 →
     let c := h.core.val
     let k := s.core c
     let va := (xget k rs1).toNat
     let asid := (xget k rs2).toNat % 65536
     let part := s.owner (c / 8)
     let removes := fun (i : Instr) (p : Tlb → Prop) => ∃ t k', exec i s = .next t ∧ k.passed { k' with mem := k.mem } ∧
       t.core c = k' ∧ k'.mem = { k.mem with tlb := k'.mem.tlb } ∧
       (∀ e, e ∈ k'.mem.tlb ↔ e ∈ k.mem.tlb ∧ ¬ p e) ∧
       (∀ e, e ∈ (t.cluster (c / 8)).tlb ↔ e ∈ (s.cluster (c / 8)).tlb ∧ ¬ p e) ∧
       (∀ n, n ≠ c → t.core n = s.core n) ∧ (∀ n, n ≠ c / 8 → t.cluster n = s.cluster n) ∧
       { t with cores := s.cores, clusters := s.clusters } = s
     (k.level = .f ∨ (k.level = .s ∧ asid / 2048 = part) →
       removes (.tlbInvPage h rs1 rs2) (fun e => e.asid = asid ∧ va / 2 ^ e.log = e.base) ∧
       removes (.tlbInvAsid h 0 rs2) (fun e => e.asid = asid)) ∧
     (k.level ≠ .u → removes (.tlbInvAll h 0 0) (fun e => e.asid / 2048 = part)) ∧
     (k.level = .u → s.canTrap c 0x02 = true →
       ∀ i ∈ [Instr.tlbInvPage h rs1 rs2, .tlbInvAsid h 0 rs2, .tlbInvAll h 0 0],
         ∃ t, exec i s = .next t ∧ s.traps t c ⟨0x02, (wordOf i).setWidth 64, 0⟩) ∧
     (k.level = .s → asid / 2048 ≠ part → s.canTrap c 0x07 = true →
       ∀ i ∈ [Instr.tlbInvPage h rs1 rs2, .tlbInvAsid h 0 rs2],
         ∃ t, exec i s = .next t ∧ s.traps t c ⟨0x07, xget k rs2, 5⟩) ∧
     (s.canTrap c 0x01 = true → ∀ i, (i = .tlbInvAsid h rs1 rs2 ∧ rs1 ≠ 0) ∨
         (i = .tlbInvAll h rs1 rs2 ∧ (rs1 ≠ 0 ∨ rs2 ≠ 0)) →
       ∃ t, exec i s = .next t ∧ s.traps t c ⟨0x01, (wordOf i).setWidth 64, 0⟩))

/-! ## Traps, gates, waiting (R81, R83, R84, R87, R96 to R104) -/

/-- R102, R104, R182: the events INTERRUPT, WATCHDOG and ENGINE_PARITY make a running core, with no load in flight, enter the handler that is due: the
lowest-numbered takeable interrupt where nothing goes before it, the watchdog at WDCTL.LVL with WDCNT set to 0 once the count
has reached LIMIT × 1,024 (a LIMIT of 0 acts as 1), the parity trap with its DETAIL; each only while its target level's handler
is not running.
R91, R92: a trap whose target level is running its handler escalates: from S to F as DOUBLE_FAULT with the original code,
level and EPC, S's registers untouched; from F the core wedges with the cause it would have taken, its registers stay, and
the steward logs it. Stated of ILLEGAL_INSN, on a core that runs no task. -/
def Obligations.EventsEnterHandlersAndTrapsEscalate : Prop :=
  (∀ (s : State) (core : CoreId),
     let c := core.val
     let k := s.core c
     let lvl := fun n => if bitAt k.tc.iroute n then Level.f else Level.s
     let takes := fun n => bitAt (ipOf (s.ctxOf c) k) n &&
       bitAt (if bitAt k.tc.iroute n then k.tc.imaskF else k.tc.imaskS) n &&
       (decide (k.level.num < (lvl n).num) || (decide (k.level = lvl n) && stIE (tregs k (lvl n)))) &&
       !stIH (tregs k (lvl n))
     s.canIssue c = true → k.run = .running → k.mem.miss = [] → k.mem.loads = [] → s.midAccess c = false →
     s.waiting (.core c) = false →
     (k.watchdog = false → k.parity = none → ∀ n, n < 6 → takes n = true → (∀ m, m < n → takes m = false) →
       ∃ t k', exec (.interrupt core) s = .next t ∧ s.onlyCore t c k' ∧ k.enters k' (lvl n) k.pc ⟨0x20, 0, BitVec.ofNat 32 n⟩) ∧
     (bitAt k.tc.wdctl 0 = true → max 1 (field k.tc.wdctl 16 16) * 1024 ≤ (s.now - k.tc.wdBase).toNat →
       ∀ l, l = (if k.level = .f ∨ bitAt k.tc.wdctl 1 = true then Level.f else .s) → stIH (tregs k l) = false →
       ∃ t k', exec (.watchdog core) s = .next t ∧ s.onlyCore t c k' ∧
         { k with watchdog := false, tc := { k.tc with wdBase := s.now } }.enters k' l k.pc ⟨0x21, 0, 0⟩) ∧
     (k.watchdog = false → ∀ d, k.parity = some d → stIH (tregs k (k.target 0x0F)) = false →
       ∃ t k', exec (.engineParity core) s = .next t ∧ s.onlyCore t c k' ∧
         { k with parity := none }.enters k' (k.target 0x0F) k.pc ⟨0x0F, 0, d⟩)) ∧
  (∀ (s : State) (h : Issue) (w : BitVec 32) (rd rs1 rs2 : Reg), s.ready h.core.val = true → h.rsvz = 0 →
     let c := h.core.val
     let k := s.core c
     let i := Instr.addSubLogicShift h (.unassigned w) rd rs1 rs2
     (k.target 0x01 = .s → stIH k.ts = true → stIH k.tf = false →
       ∃ t k', exec i s = .next t ∧ s.onlyCore t c k' ∧
         k.enters k' .f k.pc ⟨0x18, w.setWidth 64, BitVec.ofNat 32 (0x01 + 1 * 256)⟩) ∧
     (k.target 0x01 = .f → stIH k.tf = true → s.taskOf c = none → s.svc.pend.length < 255 →
       ∃ t, exec i s = .next t ∧ t.core c = { k with run := .wedged ⟨0x01, w.setWidth 64, 0⟩ } ∧
         (∀ n, n ≠ c → t.core n = s.core n) ∧ { t with cores := s.cores, svc := s.svc } = s ∧
         ∃ r, t.svc = { s.svc with pend := s.svc.pend ++ [r], seqNo := s.svc.seqNo + 1 } ∧ r.type = 0x89 ∧
           r.inj = (k.injSync || k.injAsync.contains 0x01) ∧
           r.payload.head? = some (BitVec.ofNat 64 c)))

/-- R87: TRET at S or F restores VSTART, TPROG and the loop counts, sets IE to PIE and IH to 0, exchanges x2 with L.SP when
XSP is 1, selects the bank of PBANK, and goes to EPC at the level of PLVL; nothing else changes. At U it raises PRIV_INSN.
A write of S.STATUS that sets PLVL or PBANK to 2 or 3, and one of F.STATUS that sets either to 3, raises ILLEGAL_INSN and
writes nothing. -/
def Obligations.TretReturnsFromTrap : Prop :=
  ∀ (s : State) (h : Issue), s.ready h.core.val = true → h.rsvz = 0 →
    let c := h.core.val
    let k := s.core c
    let l := k.level
    let r := tregs k l
    (k.level ≠ .u →
      ∃ t k', exec (.tret h) s = .next t ∧ s.onlyCore t c k' ∧
        k'.level = stPLVL r ∧ k'.pc = r.epc ∧ k'.bank = (if saveset k then .u else stPBANK r) ∧
        stIE (tregs k' l) = stPIE r ∧ stIH (tregs k' l) = false ∧
        (tregs k' l).status &&& ~~~5 = r.status &&& ~~~5 ∧
        (tregs k' l).sp = (if stXSP r then bget k k.bank 2 else r.sp) ∧
        (∀ b n, bget k' b n = if stXSP r = true ∧ b = k.bank ∧ n = 2 then r.sp else bget k b n) ∧
        k'.vec = { k.vec with vstart := r.vstart &&& 0x3FF } ∧ k'.tile = { k.tile with tprog := r.tprog &&& 0xFC3F } ∧
        k'.lp = { k.lp with lc0 := BitVec.ofNat 64 (r.loop.toNat % 2 ^ 32), lc1 := BitVec.ofNat 64 (r.loop.toNat / 2 ^ 32) } ∧
        { tregs k' l with status := r.status, sp := r.sp } = r ∧ (match l with | .f => k'.ts = k.ts | _ => k'.tf = k.tf) ∧
        { k' with level := k.level, pc := k.pc, bank := k.bank, ts := k.ts, tf := k.tf, vec := k.vec, tile := k.tile,
                  lp := k.lp, xu := k.xu, xs := k.xs, xf := k.xf } = k) ∧
    (k.level = .u → s.canTrap c 0x02 = true →
      ∃ t, exec (.tret h) s = .next t ∧ s.traps t c ⟨0x02, (wordOf (.tret h)).setWidth 64, 0⟩) ∧
    (s.canTrap c 0x01 = true → ∀ (rd rs1 : Reg),
      let a := xget k rs1
      let writes := fun (n : BitVec 12) => let o := crRead (s.ctxOf c) k n.toNat
        ([(.crput h n rs1, a), (.crswap h rd n rs1, a), (.crbset h rd n rs1, o ||| a), (.crbclr h rd n rs1, o &&& ~~~a)] :
          List (Instr × Word))
      let illegal := fun (i : Instr) => ∃ t, exec i s = .next t ∧ s.traps t c ⟨0x01, (wordOf i).setWidth 64, 0⟩
      (k.level ≠ .u → ∀ p ∈ writes 0x111, (2 ≤ field p.2 7 2 ∨ 2 ≤ field p.2 9 2) → illegal p.1) ∧
      (k.level = .f → ∀ p ∈ writes 0x121, (field p.2 7 2 = 3 ∨ field p.2 9 2 = 3) → illegal p.1))

/-- R96, R97: a GATE whose descriptor `d` is read and whose argument checks pass saves the address of the GATE, the caller's
level, x2 and the loop counts, clears the counts, takes the descriptor's stack pointer unless it is 0, and goes to ENTRY at
TLVL; the bank, IE and IH stay. A GATE at F, beyond GTN, whose descriptor cannot be read, or whose descriptor is malformed,
names a bad level or finds its level's gate active raises GATE_FAULT with the first reason that holds. Reading the descriptor
and checking arguments may fill caches and translation buffers.
R99: GRET at a level whose gate is active restores x2 and the loop counts, clears GA, returns to the caller's level, and
continues as though the GATE at GPC had completed: PC + 4 or the loop-back of R73 there. At U, or with GA = 0, it raises
GATE_FAULT with DETAIL 7. Two ADDRs are the model's choice: the address that failed, for what cannot be read (log 24), and 0 for
GRET's (log 41). -/
def Obligations.GatesCallAndReturn : Prop :=
  (∀ (s : State) (h : Issue) (n : BitVec 10), s.ready h.core.val = true → h.rsvz = 0 →
     let c := h.core.val
     let k := s.core c
     let gtn := field (if k.level = .u then k.tc.gtnU else k.tc.gtnS) 0 11
     let fault := fun (s' : State) (r : Nat) => ∃ t, exec (.gate h n) s = .next t ∧
       s'.traps t c ⟨0x0D, BitVec.ofNat 64 n.toNat, BitVec.ofNat 32 r⟩
     let tlvl := fun (d : Nat) => d / 2 ^ 192 % 4
     let good := fun (d : Nat) => d % 2 = 1 ∧ d / 2 % 2 ^ 63 = 0 ∧ ∀ j ∈ [0, 1, 2, 3], gateCheckBad d j = false
     (k.level = .f → s.canTrap c 0x0D = true → fault s 1) ∧
     (k.level ≠ .f → gtn ≤ n.toNat → s.canTrap c 0x0D = true → fault s 2) ∧
     (k.level ≠ .f → n.toNat < gtn → ∀ s', s'.core c = k → s'.midAccess c = false → s'.pending = s.pending →
       s'.canTrap c 0x0D = true →
       (s.gateDesc c n.toNat = (s', none) → fault s' 3) ∧
       (∀ d, s.gateDesc c n.toNat = (s', some d) →
         (¬ good d → fault s' 4) ∧
         (good d → (tlvl d = 0 ∨ tlvl d = 3 ∨ (tlvl d = 1 ∧ k.level = .s)) → fault s' 5) ∧
         (good d → ∀ l, (l = .s ∧ tlvl d = 1 ∧ k.level = .u) ∨ (l = .f ∧ tlvl d = 2) →
           (bitAt (tregs k l).gstatus 0 = true → fault s' 6) ∧
           (bitAt (tregs k l).gstatus 0 = false → ∀ s2, s'.gateArgs c d = (s2, none) → s2.pending = s.pending →
             let k2 := s2.core c
             let r2 := tregs k2 l
             ∃ t k', exec (.gate h n) s = .next t ∧ s2.onlyCore t c k' ∧
               k'.level = l ∧ k'.pc = BitVec.ofNat 64 (d / 2 ^ 194 * 4) ∧ k'.lp = { k2.lp with lc0 := 0, lc1 := 0 } ∧
               (tregs k' l).gpc = k2.pc ∧ field (tregs k' l).gstatus 2 2 = k2.level.num ∧
               bitAt (tregs k' l).gstatus 0 = true ∧ (tregs k' l).gsp = bget k2 k2.bank 2 ∧
               (tregs k' l).gloop.toNat = field k2.lp.lc1 0 32 * 2 ^ 32 + field k2.lp.lc0 0 32 ∧
               { tregs k' l with gpc := r2.gpc, gstatus := r2.gstatus, gsp := r2.gsp, gloop := r2.gloop } = r2 ∧
               (∀ b m, bget k' b m = if b = k2.bank ∧ m = 2 ∧ d / 2 ^ 128 % 2 ^ 64 ≠ 0
                 then BitVec.ofNat 64 (d / 2 ^ 128) else bget k2 b m) ∧
               (match l with | .f => k'.ts = k2.ts | _ => k'.tf = k2.tf) ∧
               { k' with level := k2.level, pc := k2.pc, lp := k2.lp, ts := k2.ts, tf := k2.tf, xu := k2.xu, xs := k2.xs,
                         xf := k2.xf } = k2))))) ∧
  (∀ (s : State) (h : Issue), s.ready h.core.val = true → h.rsvz = 0 →
     let c := h.core.val
     let k := s.core c
     let r := tregs k k.level
     (k.level ≠ .u → bitAt r.gstatus 0 = true →
       ∃ t k0 k', exec (.gret h) s = .next t ∧ s.onlyCore t c k' ∧ k0.passed k' ∧
         k0.pc = r.gpc ∧ k0.level = Level.ofNum (field r.gstatus 2 2) ∧
         k0.lp = { k.lp with lc0 := BitVec.ofNat 64 (r.gloop.toNat % 2 ^ 32),
                             lc1 := BitVec.ofNat 64 (r.gloop.toNat / 2 ^ 32) } ∧
         (∀ b n, bget k0 b n = if b = k.bank ∧ n = 2 then r.gsp else bget k b n) ∧
         bitAt (tregs k0 k.level).gstatus 0 = false ∧
         { tregs k0 k.level with gstatus := r.gstatus } = r ∧
         (match k.level with | .f => k0.ts = k.ts | _ => k0.tf = k.tf) ∧
         { k0 with level := k.level, pc := k.pc, lp := k.lp, ts := k.ts, tf := k.tf, xu := k.xu, xs := k.xs,
                   xf := k.xf } = k) ∧
     ((k.level = .u ∨ bitAt r.gstatus 0 = false) → s.canTrap c 0x0D = true →
       ∃ t, exec (.gret h) s = .next t ∧ s.traps t c ⟨0x0D, 0, 7⟩))

/-! ## Vector unit (R106 to R124) -/

/-- R115, R111, R112: each integer vector instruction gives every active element the table's result modulo 2^w, with a shift
amount of the low log2(w) bits of the second operand (a group or the low w bits of rs2), sets VSTART to 0, and changes nothing
else.
R116, R117, R113: each fixed-point instruction gives its active elements the rounded result saturated to the signed range
(unsigned for VQADDU and VQSUBU; of half the width for VQSHRN). With TRAPEN.QOV clear a saturating element sets QSAT; with it set the
first one raises INT_OVERFLOW with DETAIL 1 and VSTART its number, the active elements below it done and nothing else
changed. -/
def Obligations.VectorIntegerAndFixedPointResults : Prop :=
  (∀ (s : State) (h : Issue) (vd vs1 : BitVec 6) (src : VSrc) (m : VMask), s.ready h.core.val = true → h.rsvz = 0 →
     let c := h.core.val
     let k := s.core c
     let ty := vType (s.ctxOf c) k
     let w := tyWidth ty
     tyInt ty = true → vStart k = 0 → vCnt k ≤ vCap (s.ctxOf c) k → k.aligned (vd :: vs1 :: srcRegs src) →
     let a := fun j => vElem k.vec.v vs1.toNat w j
     let b := fun j => match src with | .vec v => vElem k.vec.v v.toNat w j | .sca r => (xget k r).toNat % 2 ^ w
     let x := fun j => sgn w (a j)
     let y := fun j => sgn w (b j)
     let n := fun j => b j % w
     let writes := fun (i : Instr) (f : Nat → Int) => ∃ t k', exec i s = .next t ∧ s.completes t c k' ∧
       (k.atElem 0).wroteElems k' vd.toNat w (vCap (s.ctxOf c) k) (k.active m) (fun j => (f j % 2 ^ w).toNat)
     (∀ p ∈ ([(.add, fun j => a j + b j), (.sub, fun j => a j - b j), (.and, fun j => (a j &&& b j : Nat)),
         (.or, fun j => (a j ||| b j : Nat)), (.xor, fun j => (a j ^^^ b j : Nat)), (.sll, fun j => a j * 2 ^ n j),
         (.srl, fun j => a j / 2 ^ n j), (.sra, fun j => x j / 2 ^ n j), (.min, fun j => min (x j) (y j)),
         (.max, fun j => max (x j) (y j)), (.minu, fun j => min (a j) (b j)), (.maxu, fun j => max (a j) (b j))] :
         List (VAluOp × (Nat → Int))), writes (.vaddVsubLogicShift h p.1 vd vs1 src m) p.2) ∧
     (∀ p ∈ ([(.mul, fun j => a j * b j), (.mulh, fun j => x j * y j / 2 ^ w), (.mulhu, fun j => a j * b j / 2 ^ w)] :
         List (MulOp × (Nat → Int))), writes (.vmulVmulhVmulhu h p.1 vd vs1 src m) p.2)) ∧
  (∀ (s : State) (h : Issue) (vd vs1 : BitVec 6) (src : VSrc) (m : VMask), s.ready h.core.val = true → h.rsvz = 0 →
     let c := h.core.val
     let k := s.core c
     let ty := vType (s.ctxOf c) k
     let w := tyWidth ty
     let g := vG k
     let qov := enabled k 2
     tyInt ty = true → (vStart k = 0 ∨ qov = true) → vCnt k ≤ vCap (s.ctxOf c) k → k.aligned (vs1 :: srcRegs src) →
     let a := fun j => vElem k.vec.v vs1.toNat w j
     let b := fun j => match src with | .vec v => vElem k.vec.v v.toNat w j | .sca r => (xget k r).toNat % 2 ^ w
     let x := fun j => sgn w (a j)
     let y := fun j => sgn w (b j)
     let rnd := fxRound (field k.vec.vxrm 0 2)
     let gives := fun (i : Instr) (dw : Nat) (lo hi : Int) (f : Nat → Int) =>
       let out := fun j => decide (f j < lo ∨ hi < f j)
       let val := fun j => ((max lo (min hi (f j))) % 2 ^ dw).toNat
       let n := vCap (s.ctxOf c) k
       (∀ q, (qov = true → q = false) → (q = true ↔ ∃ j, k.active m j = true ∧ out j = true) →
         ∃ t k', exec i s = .next t ∧ s.completes t c k' ∧
           ((k.flag q false false).atElem 0).wroteElems k' vd.toNat dw n (k.active m) val) ∧
       (qov = true → s.canTrap c 0x09 = true → ∀ j, k.active m j = true → out j = true →
         (∀ j', j' < j → k.active m j' = true → out j' = false) →
         ∃ t k1 k', exec i s = .next t ∧ s.onlyCore t c k' ∧
           (k.atElem j).wroteElems k1 vd.toNat dw n (fun j' => k.active m j' && decide (j' < j)) val ∧
           k1.enters k' (k.target 0x09) k.pc ⟨0x09, 0, 1⟩)
     (k.aligned [vd] →
       gives (.vqaddVqsub h .qadd vd vs1 src m) w (-(2 ^ (w - 1))) (2 ^ (w - 1) - 1) (fun j => x j + y j) ∧
       gives (.vqaddVqsub h .qsub vd vs1 src m) w (-(2 ^ (w - 1))) (2 ^ (w - 1) - 1) (fun j => x j - y j) ∧
       gives (.vqaddVqsub h .qaddu vd vs1 src m) w 0 (2 ^ w - 1) (fun j => a j + b j) ∧
       gives (.vqaddVqsub h .qsubu vd vs1 src m) w 0 (2 ^ w - 1) (fun j => a j - b j) ∧
       gives (.vqrmul h vd vs1 src m) w (-(2 ^ (w - 1))) (2 ^ (w - 1) - 1) (fun j => rnd (x j * y j) (w - 1)) ∧
       gives (.vqshrVqshrnVqshl h .qshl vd vs1 src m) w (-(2 ^ (w - 1))) (2 ^ (w - 1) - 1) (fun j => x j * 2 ^ (b j % w)) ∧
       gives (.vqshrVqshrnVqshl h .qshr vd vs1 src m) w (-(2 ^ (w - 1))) (2 ^ (w - 1) - 1) (fun j => rnd (x j) (b j % w))) ∧
     (w ≠ 8 → groupsOk ([(vd.toNat, max 1 (g / 2)), (vs1.toNat, g)] ++ (srcRegs src).map (fun v => (v.toNat, g))) = true →
       gives (.vqshrVqshrnVqshl h .qshrn vd vs1 src m) (w / 2) (-(2 ^ (w / 2 - 1))) (2 ^ (w / 2 - 1) - 1)
         (fun j => rnd (x j) (b j % w))))

/-- R120, R111, R112, R109: VMV, VMV.VX, the slides and VMERGE move elements of every type into the active elements of vd;
VMV.XV writes element 0 of vs1 to rd, sign-extended for integer types, whatever VSTART is; VSETN sets VCNT, and rd, to the
lesser of rs1 and the capacity. Bits 3:0 of an X12 lane are written as zero and ignored (R41). Nothing else changes.
R119: a compare writes bit i of md for each active element i; the mask instructions act on bits 0 to VCNT − 1; VMPOPC counts
and VMFIRST finds set bits below VCNT; that with VCNT 0 they write 0 and all ones is the model's choice (log 66). Nothing else
changes. -/
def Obligations.VectorMovesCountAndMasks : Prop :=
  (∀ (s : State) (h : Issue) (vd vs1 vs2 : BitVec 6) (rd r : Reg) (m : VMask), s.ready h.core.val = true → h.rsvz = 0 →
     let c := h.core.val
     let k := s.core c
     let ty := vType (s.ctxOf c) k
     let w := tyWidth ty
     let cap := vCap (s.ctxOf c) k
     let lane := fun (v : Nat) => if ty = .fp .x12 then v / 16 * 16 else v
     let a := fun j => lane (vElem k.vec.v vs1.toNat w j)
     let n := (xget k r).toNat
     let writes := fun (i : Instr) (p : Nat → Bool) (f : Nat → Nat) => ∃ t k', exec i s = .next t ∧ s.completes t c k' ∧
       (k.atElem 0).wroteElems k' vd.toNat w cap p f
     (vStart k = 0 → vCnt k ≤ cap →
       (k.aligned [vd, vs1] → writes (.vmv h vd vs1 m) (k.active m) a) ∧
       (k.aligned [vd] → writes (.vmvVx h vd r m) (k.active m) (fun _ => lane (n % 2 ^ w))) ∧
       (k.aligned [vd, vs1] → vd ≠ vs1 →
         writes (.vslidedn h vd vs1 r m) (k.active m) (fun j => if j + n < vCnt k then a (j + n) else 0) ∧
         writes (.vslideup h vd vs1 r m) (fun j => k.active m j && decide (n ≤ j)) (fun j => a (j - n))) ∧
       (k.aligned [vd, vs1, vs2] → m.masked = true → writes (.vmerge h vd vs1 vs2 m) (fun j => decide (j < vCnt k))
         (fun j => if (tget 0 k.vec.m m.vm.toNat).getLsbD j then a j else lane (vElem k.vec.v vs2.toNat w j)))) ∧
     (k.aligned [vs1] → 0 < vCnt k → ∃ t, exec (.vmvXv h rd vs1 m) s = .next t ∧
       s.writesReg t c rd (BitVec.ofInt 64 (if tyInt ty = true then sgn w (a 0) else a 0))) ∧
     (k.aligned [vs1] → vCnt k = 0 → ∃ t, exec (.vmvXv h rd vs1 m) s = .next t ∧ s.completes t c k) ∧
     (∃ t k', exec (.vsetn h rd r) s = .next t ∧ s.completes t c k' ∧
       { k with vec := { k.vec with vcnt := BitVec.ofNat 64 (min n cap) } }.wroteReg k' rd (BitVec.ofNat 64 (min n cap)))) ∧
  (∀ (s : State) (h : Issue) (md ms1 ms2 : BitVec 3) (vs1 vs2 : BitVec 6) (rd : Reg) (m : VMask), s.ready h.core.val = true →
     h.rsvz = 0 →
     let c := h.core.val
     let k := s.core c
     let ty := vType (s.ctxOf c) k
     let w := tyWidth ty
     let a := fun j => vElem k.vec.v vs1.toNat w j
     let b := fun j => vElem k.vec.v vs2.toNat w j
     let p := fun j => (tget 0 k.vec.m ms1.toNat).getLsbD j
     let q := fun j => (tget 0 k.vec.m ms2.toNat).getLsbD j
     let writes := fun (k0 : Core) (i : Instr) (act : Nat → Bool) (f : Nat → Bool) => ∃ t k', exec i s = .next t ∧ s.completes t c k' ∧
       (∀ j, j < 512 → (tget 0 k'.vec.m md.toNat).getLsbD j =
         if act j then f j else (tget 0 k.vec.m md.toNat).getLsbD j) ∧
       (∀ n, n ≠ md.toNat → tget 0 k'.vec.m n = tget 0 k.vec.m n) ∧ { k' with vec := { k'.vec with m := k.vec.m } } = k0
     (vStart k = 0 → vCnt k ≤ 512 → k.aligned [vs1, vs2] →
       (tyInt ty = true → ∀ r ∈ ([(.seq, fun j => decide (a j = b j)), (.sne, fun j => decide (a j ≠ b j)),
           (.slt, fun j => decide (sgn w (a j) < sgn w (b j))), (.sle, fun j => decide (sgn w (a j) ≤ sgn w (b j))),
           (.sltu, fun j => decide (a j < b j)), (.sleu, fun j => decide (a j ≤ b j))] : List (VCmpOp × (Nat → Bool))),
         writes (k.atElem 0) (.vmseqVmfleCompare h r.1 md vs1 vs2 m) (k.active m) r.2) ∧
       (∀ f ∈ [Fmt.bf16, .fp16], ty = .fp f →
         let u := fun j => decodeElem f (a j)
         let v := fun j => decodeElem f (b j)
         let num := fun j => (u j).isNum && (v j).isNum
         ∀ r ∈ ([(.feq, fun j => num j && (u j).eqv (v j)), (.flt, fun j => num j && (u j).lt (v j)),
             (.fle, fun j => num j && ((u j).lt (v j) || (u j).eqv (v j)))] : List (VCmpOp × (Nat → Bool))),
           writes (k.atElem 0) (.vmseqVmfleCompare h r.1 md vs1 vs2 m) (k.active m) r.2)) ∧
     (∀ r ∈ ([(.and, fun j => p j && q j), (.or, fun j => p j || q j), (.xor, fun j => p j ^^ q j),
         (.andn, fun j => p j && !q j)] : List (MaskOp × (Nat → Bool))),
       writes k (.vmandVmorVmxorVmandn h r.1 md ms1 ms2) (fun j => decide (j < vCnt k)) r.2) ∧
     (∀ clr : Bool, writes k (.vmsetVmclr h clr md) (fun j => decide (j < vCnt k)) (fun _ => !clr)) ∧
     (∃ t, exec (.vmpopc h rd ms1) s = .next t ∧
       s.writesReg t c rd (BitVec.ofNat 64 ((Finset.range (vCnt k)).filter (fun j => p j = true)).card)) ∧
     (∀ j, j < vCnt k → p j = true → (∀ j', j' < j → p j' = false) → ∃ t, exec (.vmfirst h rd ms1) s = .next t ∧
       s.writesReg t c rd (BitVec.ofNat 64 j)) ∧
     ((∀ j, j < vCnt k → p j = false) → ∃ t, exec (.vmfirst h rd ms1) s = .next t ∧
       s.writesReg t c rd (BitVec.allOnes 64)))

/-- R118: each floating vector instruction forms its active elements' results exactly and rounds them once, to nearest-even or,
with S = 1, stochastically with the random bits of the element's position; a saturating result sets OVF, a NaN operand or an
invalid operation gives the canonical NaN and sets NF, and a finite nonzero value over zero gives the largest finite value of
the quotient's sign and sets OVF. None traps. That an exact zero quotient and the root of a zero are +0 is the model's choice
(log 66). -/
def Obligations.VectorFloatResults : Prop :=
  ∀ (s : State) (h : Issue) (st : Bool) (vd vs1 : BitVec 6) (src : VSrc) (m : VMask), s.ready h.core.val = true → h.rsvz = 0 →
    let c := h.core.val
    let k := s.core c
    let ty := vType (s.ctxOf c) k
    ∀ f ∈ [Fmt.bf16, .fp16], ty = .fp f → vStart k = 0 → vCnt k ≤ vCap (s.ctxOf c) k → k.aligned (vd :: vs1 :: srcRegs src) →
    let e := fun (v : BitVec 6) j => decodeElem f (vElem k.vec.v v.toNat 16 j)
    let a := e vs1
    let b := fun j => match src with | .vec v => e v j | .sca r => decodeElem f ((xget k r).toNat % 65536)
    let byZero := fun j => (a j).isNum && !(a j).isZero && (b j).isZero
    let gives := fun (i : Instr) (st : Bool) (div : Bool) (v : Nat → Val) =>
      let round := fun j => if div && byZero j then
          (f.maxCode + (if (a j).neg? = (b j).neg? then 0 else 0x8000), true)
        else roundTo f (if st then .stoch (vRand k j) else .even) (v j)
      ∀ nf ovf, (ovf = true ↔ ∃ j, k.active m j = true ∧ (round j).2 = true) →
        (nf = true ↔ ∃ j, k.active m j = true ∧ v j = .nan ∧ (div && byZero j) = false) →
        ∃ t k', exec i s = .next t ∧ s.completes t c k' ∧
          ((k.flag false nf ovf).atElem 0).wroteElems k' vd.toNat 16 (vCap (s.ctxOf c) k) (k.active m) (fun j => (round j).1)
    gives (.vfaddVfsubVfmul h .fadd st vd vs1 src m) st false (fun j => (a j).add (b j)) ∧
    gives (.vfaddVfsubVfmul h .fsub st vd vs1 src m) st false (fun j => (a j).add (b j).negate) ∧
    gives (.vfaddVfsubVfmul h .fmul st vd vs1 src m) st false (fun j => (a j).mul (b j)) ∧
    gives (.vfmaVfms h false st vd vs1 src m) st false (fun j => (e vd j).add ((a j).mul (b j))) ∧
    gives (.vfmaVfms h true st vd vs1 src m) st false (fun j => (e vd j).add ((a j).mul (b j)).negate) ∧
    gives (.vfdivVfsqrt h false st vd vs1 src m) st true (fun j => (a j).div (b j)) ∧
    gives (.vfminVfmaxVfsgn h .fmin false vd vs1 src m) false false (fun j => fMinMaxVal false (a j) (b j)) ∧
    gives (.vfminVfmaxVfsgn h .fmax false vd vs1 src m) false false (fun j => fMinMaxVal true (a j) (b j)) ∧
    (src = .vec 0 →
      gives (.vfdivVfsqrt h true st vd vs1 src m) st false (fun j => if (a j).isZero then .num false 0 0 else (a j).sqrt) ∧
      gives (.vfminVfmaxVfsgn h .fsgn false vd vs1 src m) false false (fun j =>
        if (a j).isNum && !(a j).isZero then .num (a j).neg? 1 0 else a j))

/-- R120: a reduction writes element 0 of the register vd with the wrapped sum, or the signed extreme, or the largest magnitude, of
the active elements of an integer type; with the exact sum rounded once, or the extreme, of BF16 or FP16 elements, a NaN giving
the canonical NaN and NF. With no active element it writes nothing. The other elements of vd, and everything else, stay. That
VREDSUM with S = 1 takes the random bits of element position 0 is the model's choice (log 66). -/
def Obligations.VectorReductions : Prop :=
  ∀ (s : State) (h : Issue) (st : Bool) (vd vs1 : BitVec 6) (m : VMask), s.ready h.core.val = true → h.rsvz = 0 →
    let c := h.core.val
    let k := s.core c
    let ty := vType (s.ctxOf c) k
    let w := tyWidth ty
    let act := (List.range (vCnt k)).filter (k.active m)
    vStart k = 0 → groupsOk [(vd.toNat, 1), (vs1.toNat, vG k)] = true →
    let a := fun j => vElem k.vec.v vs1.toNat w j
    let writes := fun (i : Instr) (k0 : Core) (v : Nat) => ∃ t k', exec i s = .next t ∧ s.completes t c k' ∧
      (k0.atElem 0).wroteElems k' vd.toNat w (128 / w) (fun j => decide (j = 0)) (fun _ => v)
    (tyInt ty ∨ tyFloat ty → act = [] →
      (∃ t, exec (.vredsum h false vd vs1 m) s = .next t ∧ s.completes t c (k.atElem 0)) ∧
      ∀ op, ∃ t, exec (.vredmaxVredminVredamax h op false vd vs1 m) s = .next t ∧ s.completes t c (k.atElem 0)) ∧
    (tyInt ty = true → act ≠ [] →
      let x := act.map (fun j => sgn w (a j))
      let ext := fun (op : VRedOp) (v : Int) => writes (.vredmaxVredminVredamax h op false vd vs1 m) k ((v % 2 ^ w).toNat)
      writes (.vredsum h false vd vs1 m) k ((x.sum % 2 ^ w).toNat) ∧
      (∀ v ∈ x, (∀ u ∈ x, u ≤ v) → ext .max v) ∧ (∀ v ∈ x, (∀ u ∈ x, v ≤ u) → ext .min v) ∧
      (∀ v ∈ x, (∀ u ∈ x, u.natAbs ≤ v.natAbs) → ext .amax v.natAbs)) ∧
    (∀ f ∈ [Fmt.bf16, .fp16], ty = .fp f → act ≠ [] →
      let x := act.map (fun j => decodeElem f (a j))
      let nan := x.any (fun v => !v.isNum)
      (∀ v, v = (if nan then .nan else sumVals x) → ∀ code ovf,
        roundTo f (if st then .stoch (vRand k 0) else .even) v = (code, ovf) →
        writes (.vredsum h st vd vs1 m) (k.flag false nan ovf) code) ∧
      (nan = true → ∀ op, writes (.vredmaxVredminVredamax h op false vd vs1 m) (k.flag false true false) f.canonNaN) ∧
      (nan = false → ∀ v ∈ x,
        let above := fun (u v : Val) => u.lt v || (u.eqv v && (u.neg? || !v.neg?))
        ((∀ u ∈ x, above u v = true) →
          writes (.vredmaxVredminVredamax h .max false vd vs1 m) k (roundTo f .even v).1) ∧
        ((∀ u ∈ x, above v u = true) →
          writes (.vredmaxVredminVredamax h .min false vd vs1 m) k (roundTo f .even v).1) ∧
        ((∀ u ∈ x, above u.abs v.abs = true) →
          writes (.vredmaxVredminVredamax h .amax false vd vs1 m) k (roundTo f .even v.abs).1)))

/-- R112, R114, R106, R118, R120, R125: a vector instruction that does not resume and issues with VSTART not 0, a type that its class
cannot use, a group that does not start at a multiple of its size, S = 1 where nothing rounds, VMERGE without a mask, a slide
onto itself, and a strided or scale access that its rule forbids raise ILLEGAL_INSN before any effect; that they do so with
VCNT 0 too is the model's choice (log 58). -/
def Obligations.VectorInstructionChecks : Prop :=
  ∀ (s : State) (h : Issue) (vd vs1 vs2 : BitVec 6) (src : VSrc) (r1 r2 : Reg) (md : BitVec 3) (m : VMask) (st : Bool),
    s.ready h.core.val = true → h.rsvz = 0 → s.canTrap h.core.val 0x01 = true →
    let c := h.core.val
    let k := s.core c
    let ty := vType (s.ctxOf c) k
    let illegal := fun (i : Instr) => ∃ t, exec i s = .next t ∧ s.traps t c ⟨0x01, (wordOf i).setWidth 64, 0⟩
    let ints := fun (i : Instr) => (∃ op, i = .vaddVsubLogicShift h op vd vs1 src m) ∨ (∃ op, i = .vmulVmulhVmulhu h op vd vs1 src m)
    let fixed := fun (i : Instr) => (∃ op, i = .vqaddVqsub h op vd vs1 src m) ∨ i = .vqrmul h vd vs1 src m ∨
      ∃ op, i = .vqshrVqshrnVqshl h op vd vs1 src m
    let floats := fun (i : Instr) => (∃ op, i = .vfaddVfsubVfmul h op st vd vs1 src m) ∨ (∃ b, i = .vfmaVfms h b st vd vs1 src m) ∨
      (∃ b, i = .vfdivVfsqrt h b st vd vs1 src m) ∨ ∃ op, i = .vfminVfmaxVfsgn h op st vd vs1 src m
    let others := fun (i : Instr) => (∃ op, i = .vmseqVmfleCompare h op md vs1 vs2 m) ∨ i = .vmv h vd vs1 m ∨ i = .vmvVx h vd r2 m ∨
      i = .vslidedn h vd vs1 r2 m ∨ i = .vslideup h vd vs1 r2 m ∨ i = .vmerge h vd vs1 vs2 m ∨ i = .vredsum h st vd vs1 m ∨
      (∃ op, i = .vredmaxVredminVredamax h op st vd vs1 m) ∨ ∃ dst, i = .vcvt h dst vd vs1 vs2 m
    (vStart k ≠ 0 → ∀ i, ints i ∨ floats i ∨ others i ∨ (enabled k 2 = false ∧ fixed i) → illegal i) ∧
    (tyInt ty = false → ∀ i, ints i ∨ fixed i → illegal i) ∧
    (tyFloat ty = false → ∀ i, floats i → illegal i) ∧
    (¬ k.aligned [vd, vs1] → ∀ i, ints i ∨ floats i ∨ i = .vmv h vd vs1 m → illegal i) ∧
    (vd = vs1 → illegal (.vslidedn h vd vs1 r2 m) ∧ illegal (.vslideup h vd vs1 r2 m)) ∧
    (m.masked = false → illegal (.vmerge h vd vs1 vs2 m)) ∧
    (∀ op, illegal (.vfminVfmaxVfsgn h op true vd vs1 src m)) ∧
    (∀ op, illegal (.vredmaxVredminVredamax h op true vd vs1 m)) ∧
    (tyFloat ty = false → illegal (.vredsum h true vd vs1 m)) ∧
    (∀ dst : BitVec 4, 11 ≤ dst.toNat → illegal (.vcvt h dst vd vs1 vs2 m)) ∧
    (¬ k.aligned [vd] → illegal (.vldVst h st vd r1 m)) ∧
    (unitElems ty = 2 → illegal (.vldsVsts h st vd r1 r2 m)) ∧
    (m.masked = true ∨ m.vm ≠ 0 → illegal (.vldscVstsc h st vd r1 m)) ∧
    (∀ iw sh : BitVec 2, unitElems ty = 2 ∨ 2 ≤ iw.toNat → illegal (.vgather h vd vs2 r1 m iw sh) ∧
      illegal (.vscatter h vd vs2 r1 m iw sh))

/-- R121, R122, R123, R42, R45, R48, R60, R187: VCVT, of any pair of types, gives each active element the conversion of its source, a
scaled source read with the scales in vs2 and a pair that Table 3.12 does not list passed through BF16: integers keep their low
bits, sign extended; other types go to integers toward zero, saturating, NaN to 0; every type goes to BF16 and FP16 by one
stochastic rounding; a block of a scaled destination (X12 included) takes the dynamic scale over its active elements in the
scale register vs2 and each element its rounding under that scale, or, for E2M1 and MXINT8 with a NaN in it, scale 0xFF and code
0 throughout; a block with no active element keeps its scale and bits. QSAT, NF and OVF are set where elements saturate, are NaN, or
overflow. A destination other than BF16 and the integers counts its active elements at its census site: with VCENS.EN = 1
into VCENS.SLOT where the partition holds it, else into the unenrolled count. That VSHAPE types and func take effect in their
effective forms for vs2's RsvZ rule and at a census site of rung 2 (log 66), and that a scaled destination has its scale register
as a group of one register (log 58), is the model's choice. -/
def Obligations.VectorConversions : Prop :=
  ∀ (s : State) (h : Issue) (dst : BitVec 4) (vd vs1 vs2 : BitVec 6) (m : VMask), s.ready h.core.val = true → h.rsvz = 0 →
    let c := h.core.val
    let k := s.core c
    let x := s.ctxOf c
    let ty := vType x k
    let w := tyWidth ty
    let g := vG k
    let n := vCap x k
    ∀ named d, tyOfCode dst.toNat = some named → effTy x.rung named = d →
    let dw := tyWidth d
    let scales := tyScaled ty || tyScaled d
    vStart k = 0 → vCnt k ≤ n → vDerived g dw w ≠ none → (scales = false → vs2 = 0) →
    groupsOk ([(vd.toNat, max 1 (g * dw / w)), (vs1.toNat, g)] ++ (if scales then [(vs2.toNat, 1)] else [])) = true →
    let i := Instr.vcvt h dst vd vs1 vs2 m
    let code := fun j => vElem k.vec.v vs1.toNat w j
    let r := fun j => Rnd.stoch (vRand k j)
    let act := (List.range (vCnt k)).filter (k.active m)
    let some? := fun (p : Nat → Prop) => ∃ j, k.active m j = true ∧ p j
    let raw : Nat → Val := fun j => match ty with
      | .int w => .num (decide (sgn w (code j) < 0)) (sgn w (code j)).natAbs 0
      | .fp f => elemVal f (code j) (byteOf (tget 0 k.vec.v vs2.toNat) (j / 32))
    let listed := match ty, d with
      | .fp .bf16, _ | _, .fp .bf16 | _, .fp .fp16 | .fp .fp16, .int _ => true
      | _, _ => false
    let thru := fun j => if listed then (raw j, false) else
      (decodeElem .bf16 (roundTo .bf16 (r j) (raw j)).1, (roundTo .bf16 (r j) (raw j)).2)
    let v := fun j => (thru j).1
    let part := s.owner (c / 8)
    let slot := field k.vec.vcens 0 10
    let held := k.vec.vcens.getLsbD 15 = true ∧ s.censusOwner (c / 64) slot = part
    let site := fun (u : State) (e : Counts) =>
      if act = [] then u
      else if held then
        match k.task with
        | none => u.censusCount (c / 64) slot (partId part) none false e
        | some l => u.censusCount (c / 64) slot l.queue.part (some l.queue.q) ((s.taskOf c).any (·.region)) e
      else u.unenrolled (c / 64) part e.elems
    let counts := fun (f : Fmt) (bad : Nat → Bool) (out : Nat → Nat) =>
      let o := fun j => decodeElem f (out j)
      let nonfin := fun j => bad j || !(o j).isNum
      let sat := fun j => !nonfin j && (o j).abs.eqv (decodeElem f f.maxCode)
      let zero := fun j => !nonfin j && !sat j && (raw j).isZero
      let ufl := fun j => !nonfin j && !sat j && !zero j && (o j).isZero
      ({ elems := act.length, nonfin := (act.filter nonfin).length, sat := (act.filter sat).length,
         zero := (act.filter zero).length, ufl := (act.filter ufl).length } : Counts)
    let ends := fun (k' : Core) (e : Option Counts) =>
      let u := match e with | none => s.setCore c k' | some e => site (s.setCore c k') e
      (e.isSome = true → held → s.calm u c) → ∃ t, exec i s = .next t ∧ u.completes t c (u.core c)
    match d with
    | .int dw => match ty with
      | .int _ => ∃ k', ends k' none ∧
          (k.atElem 0).wroteElems k' vd.toNat dw n (k.active m) (fun j => (sgn w (code j) % 2 ^ dw).toNat)
      | .fp _ => ∀ q nf ovf, (q = true ↔ some? (fun j => (toIntSat dw (v j)).2 = true)) →
          (nf = true ↔ some? (fun j => raw j = .nan)) → (ovf = true ↔ some? (fun j => (thru j).2 = true)) →
          ∃ k', ends k' none ∧ ((k.flag q nf ovf).atElem 0).wroteElems k' vd.toNat dw n (k.active m)
            (fun j => ((toIntSat dw (v j)).1 % 2 ^ dw).toNat)
    | .fp f =>
      (f.scaled = false →
        let rnd := fun j => roundTo f (r j) (raw j)
        ∀ nf ovf, (ovf = true ↔ some? (fun j => (rnd j).2 = true)) → (nf = true ↔ some? (fun j => raw j = .nan)) →
          ∃ k', ends k' (if named = .fp .bf16 then none else some (counts f (fun _ => false) (fun j => (rnd j).1))) ∧
            ((k.flag false nf ovf).atElem 0).wroteElems k' vd.toNat 16 n (k.active m) (fun j => (rnd j).1)) ∧
      (f.scaled = true → vs2 ≠ vd →
        let blk := fun b => act.filter (fun j => decide (j / 32 = b))
        let bad := fun b => f.noNaN && (blk b).any (fun j => !(v j).isNum)
        let sc := fun b => if blk b = [] then byteOf (tget 0 k.vec.v vs2.toNat) b else if bad b then 0xFF
          else dynamicScale f (BitVec.ofNat 8 (field k.cr.skcfg 24 8)) ((blk b).map v)
        let rnd := fun j => if bad (j / 32) then (0, false) else roundTo f (r j) ((v j).scale (127 - ((sc (j / 32)).toNat : Int)))
        let lane := fun (e : Nat) => if f = .x12 then e * 16 else e
        ∀ nf ovf, (ovf = true ↔ some? (fun j => (thru j).2 = true ∨ (rnd j).2 = true)) → (nf = true ↔ some? (fun j => raw j = .nan)) →
          ∃ k1 k', ends k' (some (counts f (fun j => bad (j / 32)) (fun j => (rnd j).1))) ∧
            ((k.flag false nf ovf).atElem 0).wroteElems k1 vd.toNat dw n (k.active m) (fun j => lane (rnd j).1) ∧
            (∀ b, b < 16 → byteOf (tget 0 k'.vec.v vs2.toNat) b = sc b) ∧
            (∀ q, q ≠ vs2.toNat → tget 0 k'.vec.v q = tget 0 k1.vec.v q) ∧ { k' with vec := { k'.vec with v := k1.vec.v } } = k1)

/-! ## Memory instructions (R69, R71, R125 to R130, R209 to R214) -/

/-- R69, R71, R209: a scalar load that its address checks let through and that the write-combining buffer, the L1, the landing
buffer or another agent serves writes the bytes read, little-endian, sign- or zero-extended, to rd; one that misses completes
issue with a miss register of its line and stays in flight (R83, R214), and so, with its poisoned data, does one that a
poisoned write-combining entry serves: it traps when it would write rd (R83, R400); one that a check stops raises its trap; LDK reads
through the constant cache. Nothing else of the core changes.
R69, R211: a scalar store whose write is performed completes; one that a check stops raises its trap; size codes 4 to 7 raise
ILLEGAL_INSN. -/
def Obligations.ScalarLoadsAndStores : Prop :=
  (∀ (s : State) (h : Issue) (rd rs1 : Reg) (off : BitVec 13), s.ready h.core.val = true → h.rsvz = 0 →
     let c := h.core.val
     let va := BitVec.ofInt 64 ((xget (s.core c) rs1).toInt + off.toInt)
     (∀ p ∈ loadForms,
       let n := p.2.1
       let i := Instr.load h p.1 rd rs1 off
       (va.toNat % n ≠ 0 → s.canTrap c 0x03 = true → ∃ t, exec i s = .next t ∧ s.traps t c ⟨0x03, va, 0⟩) ∧
       (∀ s' t', s.aim c .load false va n n = (s', .error t') → s.calm s' c → s'.canTrap c t'.code = true →
         ∃ t, exec i s = .next t ∧ s'.traps t c t') ∧
       (∀ s' d pa, s.aim c .load false va n n = (s', .ok [⟨.dram d pa, va, n⟩]) →
         (∀ s'' b, s'.loadHit c pa n = (s'', some (.ok b)) → s.calm s'' c → (s''.core c).mem.loads = [] →
           ∃ t, exec i s = .next t ∧ s''.writesReg t c rd (extend n p.2.2 b)) ∧
         (∀ s'' a, s'.loadHit c pa n = (s'', some (.error a)) → s.calm s'' c →
           let k := s''.core c
           ∃ t, exec i s = .next t ∧ s''.completes t c { k with mem := { k.mem with
             loads := k.mem.loads ++ [{ rd := rd, size := p.1, pa := pa, va := va, pc := k.pc, lp := k.lp, got := some .poison }] } }) ∧
         (∀ s'', s'.loadHit c pa n = (s'', none) → s.calm s'' c → (s''.core c).mem.miss = [] →
           let k := s''.core c
           ∃ t, exec i s = .next t ∧ s''.completes t c { k with mem := { k.mem with
             miss := [{ line := pa / 128, first := pa / 32 % 4 }]
             loads := k.mem.loads ++ [{ rd := rd, size := p.1, pa := pa, va := va, pc := k.pc, lp := k.lp }] } })) ∧
       (∀ s' ps s'' b, s.aim c .load false va n n = (s', .ok ps) → (∀ d pa v j, ps ≠ [⟨.dram d pa, v, j⟩]) →
         State.loadPieces c .l1 0 ps s' = (s'', .ok b) → s.calm s'' c →
         ∃ t, exec i s = .next t ∧ s''.writesReg t c rd (extend n p.2.2 b))) ∧
     (∀ s' ps s'' b, s.aim c .load true va 8 8 = (s', .ok ps) → State.loadPieces c .const 0 ps s' = (s'', .ok b) →
       s.calm s'' c → ∃ t, exec (.ldk h rd rs1 off) s = .next t ∧ s''.writesReg t c rd (extend 8 false b))) ∧
  (∀ (s : State) (h : Issue) (size : BitVec 3) (rs2 rs1 : Reg) (off : BitVec 13), s.ready h.core.val = true → h.rsvz = 0 →
     let c := h.core.val
     let k := s.core c
     let va := BitVec.ofInt 64 ((xget k rs1).toInt + off.toInt)
     let n := 2 ^ size.toNat
     let i := Instr.store h size rs2 rs1 off
     let r := s.writes c false [fullWrite 0 va n (toBytes n (xget k rs2).toNat)]
     (4 ≤ size.toNat → s.canTrap c 0x01 = true → ∃ t, exec i s = .next t ∧ s.traps t c ⟨0x01, (wordOf i).setWidth 64, 0⟩) ∧
     (size.toNat < 4 →
       (va.toNat % n ≠ 0 → s.canTrap c 0x03 = true → ∃ t, exec i s = .next t ∧ s.traps t c ⟨0x03, va, 0⟩) ∧
       (r.2 = .done → s.calm r.1 c → ∃ t, exec i s = .next t ∧ r.1.completes t c (r.1.core c)) ∧
       (∀ j t', r.2 = .trap j t' → s.calm r.1 c → r.1.canTrap c t'.code = true → ∃ t, exec i s = .next t ∧ r.1.traps t c t')))

/-- R17, R20, R71, R211, R212: at level F, an aligned access that the landing buffer holds reads and writes its bytes there, and
nothing else; a store to LPDDR6 that the core's partition holds, to a line that no buffer entry holds, with the L1 off and
room in the buffer, becomes a buffer entry of exactly its bytes; a load whose bytes one entry holds takes them from it. -/
def Obligations.LandingBufferAndWriteCombining : Prop :=
  ∀ (s : State) (h : Issue) (rd rs2 rs1 : Reg) (off : BitVec 13), s.ready h.core.val = true → h.rsvz = 0 →
    let c := h.core.val
    let k := s.core c
    let va := BitVec.ofInt 64 ((xget k rs1).toInt + off.toInt)
    k.level = .f →
    (∀ o, s.locate va = .locl o →
      (∀ p ∈ loadForms, va.toNat % p.2.1 = 0 → o % p.2.1 = 0 → o + p.2.1 ≤ lbSize k →
        (∀ w, tget false k.mem.lbBad w = false) →
        ∃ t, exec (.load h p.1 rd rs1 off) s = .next t ∧ s.writesReg t c rd (extend p.2.1 p.2.2
          ((List.range p.2.1).map (fun j => byteOf (tget 0 k.mem.landing ((o + j) / 128)) ((o + j) % 128))))) ∧
      (∀ size : BitVec 3, size.toNat < 4 → va.toNat % 2 ^ size.toNat = 0 → o % 2 ^ size.toNat = 0 → o + 2 ^ size.toNat ≤ lbSize k →
        ∃ t k', exec (.store h size rs2 rs1 off) s = .next t ∧ s.completes t c k' ∧
          (∀ a, byteOf (tget 0 k'.mem.landing (a / 128)) (a % 128) =
            if o ≤ a ∧ a < o + 2 ^ size.toNat then BitVec.ofNat 8 ((xget k rs2).toNat / 256 ^ (a - o))
            else byteOf (tget 0 k.mem.landing (a / 128)) (a % 128)) ∧
          { k' with mem := { k'.mem with landing := k.mem.landing, lbBad := k.mem.lbBad } } = k)) ∧
    (∀ d pa, s.locate va = .dram d pa → s.granOwner (.dram d pa) = some (s.owner (c / 8)) →
      (∀ p ∈ loadForms, va.toNat % p.2.1 = 0 → pa % p.2.1 = 0 → ∀ e,
        k.mem.wcb.find? (fun e => decide (e.line = pa / 128)) = some e →
        (∀ j, j < p.2.1 → e.mask.getLsbD (pa % 128 + j) = true) →
        ∃ t, exec (.load h p.1 rd rs1 off) s = .next t ∧ s.writesReg t c rd (extend p.2.1 p.2.2
          ((List.range p.2.1).map (fun j => byteOf e.data (pa % 128 + j))))) ∧
      (∀ size : BitVec 3, size.toNat < 4 → va.toNat % 2 ^ size.toNat = 0 → pa % 2 ^ size.toNat = 0 → bitAt k.cr.coreCfg 0 = false →
        k.mem.wcb.length < 16 → (∀ e ∈ k.mem.wcb, e.line ≠ pa / 128) →
        ∃ t e, exec (.store h size rs2 rs1 off) s = .next t ∧
          s.completes t c { k with mem := { k.mem with wcb := k.mem.wcb ++ [e] } } ∧ e.line = pa / 128 ∧ e.bad = false ∧ e.poison = 0 ∧
          (∀ j, j < 128 → e.mask.getLsbD j = decide (pa % 128 ≤ j ∧ j < pa % 128 + 2 ^ size.toNat)) ∧
          ∀ j, j < 2 ^ size.toNat → byteOf e.data (pa % 128 + j) = BitVec.ofNat 8 ((xget k rs2).toNat / 256 ^ j)))

/-- R113, R125, R126: a vector load whose units are read writes its active elements from the units' bytes, X12 in its packed form, and
sets VSTART to 0; one that stops at a unit has written the elements of the units before it, and VSTART names the unit's first
element; a vector store whose writes are performed sets VSTART to 0. VLDSC writes the low bytes of vd alone; that it and VSTSC
move units of 32 elements, and that the Awl counts distinct lines, is the model's choice (log 29).
R127 to R130, R113, R129: a gather whose elements are all read writes them, each at rs1 + (sext(index) << SH), and the Awl counts
them; one that stops at element i raises GATHER_FAULT with VSTART i, the elements below it written; a scatter whose
elements are all written completes. Both act after the write-combining buffer has drained. -/
def Obligations.VectorMemoryAccesses : Prop :=
  (∀ (s : State) (h : Issue) (vd : BitVec 6) (rs1 rs2 : Reg) (m : VMask), s.ready h.core.val = true → h.rsvz = 0 →
     let c := h.core.val
     let k := s.core c
     let ty := vType (s.ctxOf c) k
     let w := tyWidth ty
     let n := vCap (s.ctxOf c) k
     let e := unitElems ty
     let act := (List.range (vCnt k)).filter (k.active m)
     let moves := fun (i : Bool → Instr) (addr : Nat → Word) =>
       let rd := fun u => ({ idx := u * e, va := addr u, align := unitAlign ty, n := unitBytes ty } : Read)
       let val := fun (bytes : Nat → List Byte) j => ofMem ty (ofBytes (bytes (j / e)) / 2 ^ (memBits ty * (j % e)) % 2 ^ memBits ty)
       (∀ s' (bytes : Nat → List Byte), s.reads c ((unitsOf ty act).map rd) = (s', .done ((unitsOf ty act).map (fun u => (u * e, bytes u)))) →
         s.calm s' c → ∃ t k', exec (i false) s = .next t ∧ s'.completes t c k' ∧
           ((s'.core c).atElem 0).wroteElems k' vd.toNat w n (k.active m) (val bytes)) ∧
       (∀ s' j t' (us : List Nat) (bytes : Nat → List Byte), s.reads c ((unitsOf ty act).map rd) = (s', .trap j t' (us.map (fun u => (u * e, bytes u)))) →
         (∀ u ∈ us, u ∈ unitsOf ty act) → us.Nodup → s.calm s' c → s'.canTrap c t'.code = true →
         ∃ t k1, exec (i false) s = .next t ∧ s'.trapsFrom t c k1 t' ∧
           ((s'.core c).atElem j).wroteElems k1 vd.toNat w n (fun i => k.active m i && us.contains (i / e)) (val bytes)) ∧
       (∀ s', s.writes c false ((unitsOf ty act).map (fun u =>
           let b := unitStore k ty vd.toNat act u
           { idx := u * e, va := addr u, align := unitAlign ty, bytes := b.1, mask := b.2 })) = (s', .done) → s.calm s' c →
         ∃ t, exec (i true) s = .next t ∧ s'.completes t c ((s'.core c).atElem 0))
     vCnt k ≤ n → k.aligned [vd] →
       moves (fun st => .vldVst h st vd rs1 m) (fun u => xget k rs1 + BitVec.ofNat 64 (u * unitBytes ty)) ∧
       (e = 1 → moves (fun st => .vldsVsts h st vd rs1 rs2 m) (fun u => xget k rs1 + BitVec.ofNat 64 u * xget k rs2)) ∧
       (m.masked = false → m.vm = 0 → vCnt k ≤ 512 →
         let us := (List.range ((vCnt k + 31) / 32)).filter (fun j => decide (vStart k < min (32 * j + 32) (vCnt k)))
         (∀ s' (bytes : Nat → Byte), s.reads c (us.map (fun j =>
             { idx := 32 * j, va := xget k rs1 + BitVec.ofNat 64 j, align := 1, n := 1 })) =
               (s', .done (us.map (fun j => (32 * j, [bytes j])))) → s.calm s' c →
           ∃ t k', exec (.vldscVstsc h false vd rs1 m) s = .next t ∧ s'.completes t c k' ∧
             ((s'.core c).atElem 0).wroteElems k' vd.toNat 8 16 (fun j => us.contains j) (fun j => (bytes j).toNat)) ∧
         (∀ s', s.writes c false (us.map (fun j => fullWrite (32 * j) (xget k rs1 + BitVec.ofNat 64 j) 1
               [BitVec.ofNat 8 (vElem k.vec.v vd.toNat 8 j)])) = (s', .done) → s.calm s' c →
           ∃ t, exec (.vldscVstsc h true vd rs1 m) s = .next t ∧ s'.completes t c ((s'.core c).atElem 0)))) ∧
  (∀ (s : State) (h : Issue) (vd vs2 : BitVec 6) (rs1 : Reg) (m : VMask) (sh : BitVec 2), s.ready h.core.val = true → h.rsvz = 0 →
     let c := h.core.val
     let k := s.core c
     let ty := vType (s.ctxOf c) k
     let w := tyWidth ty
     let n := vCap (s.ctxOf c) k
     let act := (List.range (vCnt k)).filter (k.active m)
     let awl := 4 * (c / 8 % 8) + c % 4
     vCnt k ≤ n → unitElems ty = 1 → ∀ p ∈ [(0#2, 32), (1, 64)], ∀ dg, vDerived (vG k) p.2 w = some dg →
       groupsOk [(vd.toNat, vG k), (vs2.toNat, dg)] = true →
       let addr := fun i => xget k rs1 + BitVec.ofInt 64 (sgn p.2 (vElem k.vec.v vs2.toNat p.2 i) * 2 ^ sh.toNat)
       let at_ := act.map (fun i => (i, addr i))
       let lines := fun (l : List Nat) => (l.map (fun i => (addr i).toNat / 128)).eraseDups.length
       (∀ s' (bytes : Nat → List Byte), State.gatherRun c (w / 8) at_ [] (s.drainWcb c) = (s', .done (act.map (fun i => (i, bytes i)))) → s.calm s' c →
         let s2 := s'.awlCount (c / 64) awl act.length (lines act) 0
         ∃ t k', exec (.vgather h vd vs2 rs1 m p.1 sh) s = .next t ∧ s2.completes t c k' ∧
           ((s2.core c).atElem 0).wroteElems k' vd.toNat w n (k.active m) (fun i => ofBytes (bytes i) % 2 ^ w)) ∧
       (∀ s' j t' (bytes : Nat → List Byte), State.gatherRun c (w / 8) at_ [] (s.drainWcb c) =
           (s', .trap j t' ((act.filter (fun i => decide (i < j))).map (fun i => (i, bytes i)))) → s.calm s' c →
         s'.canTrap c t'.code = true →
         let upto := act.filter (fun i => decide (i ≤ j))
         let s2 := s'.awlCount (c / 64) awl upto.length (lines upto) 1
         ∃ t k1, exec (.vgather h vd vs2 rs1 m p.1 sh) s = .next t ∧ s2.trapsFrom t c k1 t' ∧
           ((s2.core c).atElem j).wroteElems k1 vd.toNat w n (fun i => k.active m i && decide (i < j))
             (fun i => ofBytes (bytes i) % 2 ^ w)) ∧
       (∀ s', State.scatterRun c (act.map (fun i => (i, addr i, toBytes (w / 8) (vElem k.vec.v vd.toNat w i)))) 0 false
           (s.drainWcb c) = (s', .done) → s.calm s' c →
         let s2 := s'.awlCount (c / 64) awl act.length (lines act) 0
         ∃ t, exec (.vscatter h vd vs2 rs1 m p.1 sh) s = .next t ∧ s2.completes t c ((s2.core c).atElem 0)))

/-! ## Tile registers and engines (R124, R140 to R148, R158 to R180) -/

/-- R124, R111, R112: a VEMIT or VEMIT.D that passes its checks captures the group's elements, its destination and its random inputs in
an entry of the tile queue and sets VSTART to 0, or waits at issue while the queue is full; with VCNT 0 it only completes; a row or
column outside the tile raises TILE_SHAPE with the tile ta, and destinations that differ in effective format, extents or scale
mode as written (R138) raise TILE_FORMAT before it. That TILE_FORMAT names tb (log 67), and that VEMIT checks nothing with VCNT 0 (log
58), is the model's choice. -/
def Obligations.VectorEmitQueues : Prop :=
  ∀ (s : State) (h : Issue) (vs : BitVec 6) (ta tb : BitVec 4) (rs1 : Reg), s.ready h.core.val = true → h.rsvz = 0 →
    let c := h.core.val
    let k := s.core c
    let x := s.ctxOf c
    let d := destOf x k ta.toNat (xget k rs1)
    let e := destOf x k tb.toNat (xget k rs1)
    let inside := d.row < d.shape.nr ∧ d.col + vCnt k ≤ d.shape.nc
    let sm := fun (t : BitVec 4) => field (tcfg k t.toNat) 14 2
    let alike := e.shape.fmt = d.shape.fmt ∧ e.shape.nr = d.shape.nr ∧ e.shape.nc = d.shape.nc ∧
      (sm tb = sm ta ∨ (sm ta = 1 ∧ sm tb = 2) ∨ (sm ta = 2 ∧ sm tb = 1))
    vStart k = 0 → k.tile.tprog.getLsbD 15 = false → k.aligned [vs] →
    ∀ f ∈ [Fmt.bf16, .fp16], vType x k = .fp f →
      let els := (List.range (vCnt k)).map (fun i => ({ pos := i, val := decodeElem f (vElem k.vec.v vs.toNat 16 i) } : Emitted))
      let queues := fun (i : Instr) (e : Option Dest) =>
        (k.tile.queue.length < 16 → ∃ t, exec i s = .next t ∧ s.completes t c { k.atElem 0 with tile :=
          { k.tile with queue := k.tile.queue ++ [{ op := .emit (decide (f = .fp16)) d e els (randOf k) }] } }) ∧
        (16 ≤ k.tile.queue.length → exec i s = .next s)
      (vCnt k = 0 → (∃ t, exec (.vemit h vs ta rs1) s = .next t ∧ s.completes t c (k.atElem 0)) ∧
        ∃ t, exec (.vemitD h vs ta tb rs1) s = .next t ∧ s.completes t c (k.atElem 0)) ∧
      (vCnt k ≠ 0 → inside → queues (.vemit h vs ta rs1) none ∧ (alike → queues (.vemitD h vs ta tb rs1) (some e))) ∧
      (vCnt k ≠ 0 → ¬ inside → s.canTrap c 0x0B = true →
        ∃ t, exec (.vemit h vs ta rs1) s = .next t ∧
          s.traps t c ⟨0x0B, (wordOf (.vemit h vs ta rs1)).setWidth 64, BitVec.ofNat 32 ta.toNat⟩) ∧
      (vCnt k ≠ 0 → alike → ¬ inside → s.canTrap c 0x0B = true →
        ∃ t, exec (.vemitD h vs ta tb rs1) s = .next t ∧
          s.traps t c ⟨0x0B, (wordOf (.vemitD h vs ta tb rs1)).setWidth 64, BitVec.ofNat 32 ta.toNat⟩) ∧
      (vCnt k ≠ 0 → ¬ alike → s.canTrap c 0x0C = true →
        ∃ t, exec (.vemitD h vs ta tb rs1) s = .next t ∧
          s.traps t c ⟨0x0C, (wordOf (.vemitD h vs ta tb rs1)).setWidth 64, BitVec.ofNat 32 tb.toNat⟩)

/-- R140 to R144, R148: an instruction of Table 7.5 waits at issue, with no effect, while a queued instruction writes its tile or, where
it writes the tile, reads it. Then TLD.R writes each row from the first (or from TPROG's) with the bytes read, drops the reuse
latches of the tile and clears TPROG, or, where a row traps, has written the rows before it and enters the handler with TPROG
naming the row; TST.R whose rows are written clears TPROG; TLD.S and TST.S move the side-array bytes in use; TZERO clears the
tile and its side array. A TPROG of another instruction raises ILLEGAL_INSN. That a waiting instruction leaves the state as it is
for the same command sent again is the model's choice (log 67). -/
def Obligations.TileLoadsAndStores : Prop :=
  ∀ (s : State) (h : Issue) (tn : BitVec 4) (rs1 rs2 : Reg), s.ready h.core.val = true → h.rsvz = 0 →
    let c := h.core.val
    let n := tn.toNat
    let p := (s.core c).tile.tprog
    let first := fun (st : Bool) (r0 : Nat) => (p.getLsbD 15 = false ∧ r0 = 0) ∨
      (p.getLsbD 15 = true ∧ p.getLsbD 14 = st ∧ field p 10 4 = n ∧ r0 = field p 0 6)
    let other := fun (st : Bool) => p.getLsbD 15 = true ∧ (p.getLsbD 14 ≠ st ∨ field p 10 4 ≠ n)
    let illegal := fun (i : Instr) => s.canTrap c 0x01 = true →
      ∃ t, exec i s = .next t ∧ s.traps t c ⟨0x01, (wordOf i).setWidth 64, 0⟩
    let busy := fun (writes : Bool) =>
      ∃ e ∈ (s.core c).tile.queue, n ∈ e.op.writes ∨ (writes = true ∧ n ∈ e.op.reads)
    let shape := tshape (s.ctxOf c) (s.core c) n
    let addr := fun r => xget (s.core c) rs1 + BitVec.ofNat 64 r * xget (s.core c) rs2
    let rows := fun (r0 : Nat) => (List.range shape.rows).filter (fun r => decide (r0 ≤ r))
    let loads := fun (r0 : Nat) => State.readEach c ((rows r0).map (fun r =>
      { idx := r, va := addr r, align := shape.rowAlign, n := shape.rowBytes })) [] s
    let loaded := fun (k k' : Core) (r0 r1 : Nat) (bytes : Nat → List Byte) (tprog : Word) =>
      (∀ j r, j < 16 → r < 64 → tileRow k' j r =
        if j = n ∧ r0 ≤ r ∧ r < r1 then setBytes (tileRow k n r) 0 (unpackRow shape (bytes r)) else tileRow k j r) ∧
      k'.tile.tprog = tprog ∧
      { k' with tile := { k'.tile with rows := k.tile.rows, bad := k.tile.bad, latch := k.tile.latch, tprog := k.tile.tprog } } = k
    let noLatch := fun (k : Core) => ∀ e ∈ k.tile.latch, e.2.map (·.tile) ≠ some n
    (busy true → (∀ r0, first false r0 → exec (.tldR h tn rs1 rs2) s = .next s) ∧
      (p.getLsbD 15 = false → exec (.tldS h tn rs1) s = .next s ∧ exec (.tzero h tn) s = .next s)) ∧
    (busy false → (∀ r0, first true r0 → exec (.tstR h tn rs1 rs2) s = .next s) ∧
      (p.getLsbD 15 = false → exec (.tstS h tn rs1) s = .next s)) ∧
    (¬ busy true → ∀ r0, first false r0 → ∀ s' (bytes : Nat → List Byte),
      (loads r0 = (s', .done ((rows r0).map (fun r => (r, bytes r)))) → s.calm s' c → rows r0 ≠ [] →
        ∃ t k', exec (.tldR h tn rs1 rs2) s = .next t ∧ s'.completes t c k' ∧
          loaded (s'.core c) k' r0 shape.rows bytes 0 ∧ noLatch k') ∧
      (∀ r1 t', r0 < r1 → r1 < shape.rows →
        loads r0 = (s', .trap r1 t' (((rows r0).filter (fun r => decide (r < r1))).map (fun r => (r, bytes r)))) →
        s.calm s' c → s'.canTrap c t'.code = true →
        ∃ t k1, exec (.tldR h tn rs1 rs2) s = .next t ∧ s'.trapsFrom t c k1 t' ∧
          loaded (s'.core c) k1 r0 r1 bytes (BitVec.ofNat 64 (2 ^ 15 + n * 2 ^ 10 + r1)) ∧ noLatch k1)) ∧
    (¬ busy false → ∀ r0, first true r0 →
      ∀ s', State.storeRows c n shape addr (rows r0) 0 false s = (s', .done) → s.calm s' c →
      let k := s'.core c
      ∃ t, exec (.tstR h tn rs1 rs2) s = .next t ∧ s'.completes t c { k with tile := { k.tile with tprog := 0 } }) ∧
    (other false → illegal (.tldR h tn rs1 rs2)) ∧ (other true → illegal (.tstR h tn rs1 rs2)) ∧
    (p.getLsbD 15 = true → illegal (.tldS h tn rs1) ∧ illegal (.tstS h tn rs1) ∧ illegal (.tzero h tn)) ∧
    (p.getLsbD 15 = false →
      (¬ busy true → ∀ s' b, s.reads c [{ idx := 0, va := xget (s.core c) rs1, align := 1, n := shape.ns }] = (s', .done [(0, b)]) →
        b.length = shape.ns → shape.ns ≠ 0 → shape.ns ≤ 512 → s.calm s' c →
        let k := s'.core c
        ∃ t k', exec (.tldS h tn rs1) s = .next t ∧ s'.completes t c k' ∧
          (∀ j q, j < 16 → q < 512 → tileScale k' j q = if j = n ∧ q < b.length then b.getD q 0 else tileScale k j q) ∧ noLatch k' ∧
          { k' with tile := { k'.tile with side := k.tile.side, latch := k.tile.latch } } = k) ∧
      (¬ busy false → ∀ s', s.writes c false [fullWrite 0 (xget (s.core c) rs1) 1 ((List.range shape.ns).map (tileScale (s.core c) n))] =
          (s', .done) → s.calm s' c →
        ∃ t, exec (.tstS h tn rs1) s = .next t ∧ s'.completes t c (s'.core c)) ∧
      (¬ busy true →
        let k := s.core c
        ∃ t k', exec (.tzero h tn) s = .next t ∧ s.completes t c k' ∧
          (∀ j r, j < 16 → r < 64 → tileRow k' j r = if j = n then 0 else tileRow k j r) ∧
          (∀ j q, j < 16 → q < 512 → tileScale k' j q = if j = n then 0 else tileScale k j q) ∧ noLatch k' ∧
          { k' with tile := { k'.tile with rows := k.tile.rows, side := k.tile.side, bad := k.tile.bad, latch := k.tile.latch } } = k))

/-- R147, R155, R168 to R173, R176, R177, R180: an engine instruction that passes its checks enters the tile queue with its operands as
they stand at issue, and completes, or waits at issue, with no effect, while the queue holds 16; one whose first failing check names a
trap raises it; an engine that is retired, or a TPROG that waits for a row instruction, makes it raise ILLEGAL_INSN. OPA.MP below F
outside test mode raises PRIV_INSN before its other checks, but that of a retired engine. That a waiting instruction leaves the
state as it is for the same command sent again, that a retired engine goes before PRIV_INSN, and the order of the checks of OPA.W
and of OPA.MP's lines is the model's choice (log 67).
R178: ACC.GETS, once no queued instruction names the accumulator, reads its status word (marks, form, count) or its tag;
ACC.PUTS writes them, and reports nothing; both wait at issue until then. Nothing else changes. -/
def Obligations.EnginesQueueAndReport : Prop :=
  (∀ (s : State) (h : Issue) (acc : Fin 4) (hp : Fin 2) (t0 t1 t2 t3 : BitVec 4) (d1 d2 : Dir) (vs vsc : BitVec 6) (r1 r2 : Reg) (b : Bool),
     s.ready h.core.val = true → h.rsvz = 0 →
     let c := h.core.val
     let k := s.core c
     let x := s.ctxOf c
     let n := xget k r1
     let o := tileOp x k
     let queues := fun (i : Instr) (op : EngOp) =>
       (k.tile.queue.length < 16 → ∃ t, exec i s = .next t ∧
         s.completes t c { k with tile := { k.tile with queue := k.tile.queue ++ [{ op := op }] } }) ∧
       (16 ≤ k.tile.queue.length → exec i s = .next s)
     let goes := fun (i : Instr) (accs : List Nat) (check : Option Trap) (op : EngOp) =>
       ((∃ a ∈ accs, k.cr.engmask.getLsbD a = false) ∨ k.tile.tprog.getLsbD 15 = true → s.canTrap c 0x01 = true →
         ∃ t, exec i s = .next t ∧ s.traps t c ⟨0x01, (wordOf i).setWidth 64, 0⟩) ∧
       ((∀ a ∈ accs, k.cr.engmask.getLsbD a = true) → k.tile.tprog.getLsbD 15 = false →
         (check = none → queues i op) ∧
         (∀ t', check = some t' → s.canTrap c t'.code = true → ∃ t, exec i s = .next t ∧ s.traps t c t'))
     let issues := fun (i : Instr) (r : Except Trap EngOp) =>
       (∀ op, r = .ok op → queues i op) ∧
       (∀ t', r = .error t' → s.canTrap c t'.code = true → ∃ t, exec i s = .next t ∧ s.traps t c t')
     let illegal := fun (i : Instr) => s.canTrap c 0x01 = true →
       ∃ t, exec i s = .next t ∧ s.traps t c ⟨0x01, (wordOf i).setWidth 64, 0⟩
     let out := k.cr.engmask.getLsbD acc.val = false
     let opas := fun (i : Instr) (engs : List (Nat × TileOp × TileOp)) (order : List (TileOp × TileOp)) (first : BitVec 4) =>
       goes i (engs.map (·.1)) (opaChecks (wordOf i) k engs order first.toNat n) (.opa engs n.toNat (opaRank engs))
     let shared := fun (p : TileOp) => if b then (p, o t0 d1) else (o t0 d1, p)
     let wide := formAtIssue k acc.val
     let d := destOf x k t0.toNat n
     let rows := if wide then 16 else 64
     opas (.opa h acc t0 d1 t1 d2 r1) [(acc.val, o t0 d1, o t1 d2)] [(o t0 d1, o t1 d2)] t0 ∧
     opas (.opaP h hp b t0 d1 t1 t2 d2 r1) [(2 * hp.val, shared (o t1 d2)), (2 * hp.val + 1, shared (o t2 d2))]
       [(o t0 d1, o t1 d2), (o t0 d1, o t2 d2)] t0 ∧
     opas (.opaQ h t0 t1 d1 t2 t3 d2 r1)
       [(0, o t0 d1, o t2 d2), (1, o t0 d1, o t3 d2), (2, o t1 d1, o t2 d2), (3, o t1 d1, o t3 d2)]
       [(o t0 d1, o t2 d2), (o t0 d1, o t3 d2), (o t1 d1, o t2 d2), (o t1 d1, o t3 d2)] t0 ∧
     (out ∨ k.tile.tprog.getLsbD 15 = true → illegal (.opaW h acc t0 d1 vs vsc r1) ∧ illegal (.accRd h acc t0 r1) ∧
       illegal (.accRdD h acc t0 t1 r1 r2)) ∧
     (tyScaled (vType x k) = false → vsc ≠ 0 → illegal (.opaW h acc t0 d1 vs vsc r1)) ∧
     issues (.opaW h acc t0 d1 vs vsc r1) (opaWIssue x (wordOf (.opaW h acc t0 d1 vs vsc r1)) k acc.val t0 d1 vs vsc n) ∧
     issues (.accRd h acc t0 r1) (rdIssue x (wordOf (.accRd h acc t0 r1)) k acc.val t0 n none) ∧
     issues (.accRdD h acc t0 t1 r1 r2) (rdIssue x (wordOf (.accRdD h acc t0 t1 r1 r2)) k acc.val t0 n (some (t1, xget k r2))) ∧
     goes (.accClr h acc b) [acc.val] none (.clr acc.val b (k.cr.srtag.setWidth 32)) ∧
     (∀ op, rdIssue x (wordOf (.accRd h acc t0 r1)) k acc.val t0 n none = .ok op →
       op = .rd acc.val wide d none (randOf k)) ∧
     (∀ op, rdIssue x (wordOf (.accRdD h acc t0 t1 r1 r2)) k acc.val t0 n (some (t1, xget k r2)) = .ok op →
       op = .rd acc.val wide d (some (destOf x k t1.toNat (xget k r2))) (randOf k)) ∧
     goes (.accWr h acc t0 r1) [acc.val] (wrChecks (wordOf (.accWr h acc t0 r1)) k acc.val wide d rows) (.wr acc.val wide d) ∧
     goes (.accEmulMul h acc t0 r1) [acc.val] (wrChecks (wordOf (.accEmulMul h acc t0 r1)) k acc.val wide d rows)
       (.emul acc.val wide true false d) ∧
     goes (.accEmulAdd h acc t0 r1) [acc.val] (wrChecks (wordOf (.accEmulAdd h acc t0 r1)) k acc.val wide d rows)
       (.emul acc.val wide false false d) ∧
     goes (.accEmulMulB h acc t0 r1) [acc.val] (wrChecks (wordOf (.accEmulMulB h acc t0 r1)) k acc.val wide d 1)
       (.emul acc.val wide true true d) ∧
     goes (.accEmulAddB h acc t0 r1) [acc.val] (wrChecks (wordOf (.accEmulAddB h acc t0 r1)) k acc.val wide d 1)
       (.emul acc.val wide false true d) ∧
     (∀ p ∈ [(0, Instr.opaMpIlo h acc t0 d1 t1 d2 r1), (1, .opaMpIhi h acc t0 d1 t1 d2 r1), (2, .opaMpCre h acc t0 d1 t1 d2 r1),
         (3, .opaMpCim h acc t0 d1 t1 d2 r1)],
       (out → illegal p.2) ∧
       (¬ out → k.level ≠ .f → x.test = false → s.canTrap c 0x02 = true →
         ∃ t, exec p.2 s = .next t ∧ s.traps t c ⟨0x02, (wordOf p.2).setWidth 64, 0⟩) ∧
       (k.level = .f ∨ x.test = true → k.tile.tprog.getLsbD 15 = true → illegal p.2) ∧
       issues p.2 (mpIssue x (wordOf p.2) p.1 k acc.val t0 d1 t1 d2 n) ∧
       (∀ op, mpIssue x (wordOf p.2) p.1 k acc.val t0 d1 t1 d2 n = .ok op →
         op = .mp acc.val p.1 (o t0 d1) (o t1 d2) (field n 0 6) (field n 8 6)))) ∧
  (∀ (s : State) (h : Issue) (acc : Fin 4) (r : Reg), s.ready h.core.val = true → h.rsvz = 0 →
     let c := h.core.val
     let k := s.core c
     let a := tget {} k.acc acc.val
     let v := xget k r
     k.cr.engmask.getLsbD acc.val = true → k.tile.tprog.getLsbD 15 = false →
     ((∃ e ∈ k.tile.queue, acc.val ∈ e.op.accs) → ∀ sel, exec (.accGets h acc r sel) s = .next s ∧
       exec (.accPuts h acc r sel) s = .next s) ∧
     ((∀ e ∈ k.tile.queue, acc.val ∉ e.op.accs) →
     (∃ t v, exec (.accGets h acc r false) s = .next t ∧ s.writesReg t c r v ∧ field v 0 36 = a.kcount.toNat ∧
       v.getLsbD 36 = a.wide ∧ v.getLsbD 37 = a.ovf ∧ v.getLsbD 38 = a.nf ∧ v.getLsbD 39 = a.pe ∧ field v 40 24 = 0) ∧
     (∃ t, exec (.accGets h acc r true) s = .next t ∧ s.writesReg t c r (BitVec.ofNat 64 a.atag.toNat)) ∧
     (∃ t k', exec (.accPuts h acc r false) s = .next t ∧ s.completes t c k' ∧
       tget {} k'.acc acc.val = { a with
         kcount := BitVec.ofNat 36 (field v 0 36), wide := v.getLsbD 36, ovf := v.getLsbD 37, nf := v.getLsbD 38,
         pe := v.getLsbD 39 } ∧
       (∀ b, b ≠ acc.val → tget {} k'.acc b = tget {} k.acc b) ∧ { k' with acc := k.acc } = k) ∧
     (∃ t k', exec (.accPuts h acc r true) s = .next t ∧ s.completes t c k' ∧
       tget {} k'.acc acc.val = { a with atag := BitVec.ofNat 32 (field v 0 32) } ∧
       (∀ b, b ≠ acc.val → tget {} k'.acc b = tget {} k.acc b) ∧ { k' with acc := k.acc } = k)))

/-- R158, R162, R58, R54, R172: K_STEP on a powered cluster counts a core cycle; with an empty queue it does nothing else; an ACC.CLR at
the front empties its accumulator and takes its form and tag; one k-step of an OPA alone in the queue gives every cell the sum
of the cell and the products of the step's elements, rounded once stochastically, and counts the rounding.
R367, Table 17.4: under the fast current limit the engines are granted in every second core cycle only, and at TCRIT in every
fourth: in another cycle the OPA does not advance. -/
def Obligations.KStepRunsTheEngines : Prop :=
  ∀ (s : State) (core : CoreId),
    let c := core.val
    let k := s.core c
    let kc : Core := { k with tile := { k.tile with cycles := k.tile.cycles + 1 } }
    s.dom (clDom (c / 8)) = .on → s.armedParity c = none → k.tile.inj = none →
    (k.tile.queue = [] → ∃ t, exec (.kStep core) s = .next t ∧ s.onlyCore t c kc) ∧
    (∀ a w tag, k.tile.queue = [{ op := .clr a w tag }] → ∃ t k', exec (.kStep core) s = .next t ∧ s.onlyCore t c k' ∧
      tget {} k'.acc a = { wide := w, atag := tag } ∧ (∀ b, b ≠ a → tget {} k'.acc b = tget {} k.acc b) ∧
      { k' with acc := k.acc } = { kc with tile := { kc.tile with queue := [] } }) ∧
    (∀ a x y n rank done, k.tile.queue = [{ op := .opa [(a, x, y)] n rank, done := done }] → done < n → a < 4 →
      ((s.pmem.crit = true ∧ k.tile.cycles % 4 ≠ 0) ∨ (s.pmem.crit = false ∧ s.pmem.fcl = true ∧ k.tile.cycles % 2 ≠ 0) →
        ∃ t, exec (.kStep core) s = .next t ∧ s.onlyCore t c kc) ∧
      ((s.pmem.crit = true ∧ k.tile.cycles % 4 = 0) ∨ (s.pmem.crit = false ∧ (s.pmem.fcl = false ∨ k.tile.cycles % 2 = 0)) →
      k.tile.latch = [] → k.tile.bad = [] → (tget {} k.acc a).bad = [] →
      let acc := tget {} k.acc a
      let lx := readLine k x (done * rank / x.rank % x.lines)
      let ly := readLine k y (done * rank / y.rank % y.lines)
      let term := fun q i j =>
        (operandVal x lx (done * rank % (x.lines * x.rank) + j) q).mul (operandVal y ly (done * rank % (y.lines * y.rank) + j) i)
      ∃ t, exec (.kStep core) s = .next t ∧
        (∀ q i, q < 64 → i < 64 → cellOf (tget {} (t.core c).acc a) (64 * q + i) =
          (roundCell (srng k.cr.seed acc.atag (BitVec.ofNat 48 (acc.kcount.toNat * 4096 + 64 * q + i)) (k.cr.stepno.setWidth 32))
            (sumVals (decodeElem .bf16 (cellOf acc (64 * q + i)).toNat :: (List.range rank).map (term q i)))).1) ∧
        (tget {} (t.core c).acc a).kcount = acc.kcount + 1 ∧ (tget {} (t.core c).acc a).atag = acc.atag ∧
        (∀ b, b ≠ a → tget {} (t.core c).acc b = tget {} k.acc b) ∧
        (t.core c).tile.rows = k.tile.rows ∧ (t.core c).vec = k.vec ∧ (t.core c).pc = k.pc ∧
        (t.core c).tile.queue = if n ≤ done + 1 then [] else [{ op := .opa [(a, x, y)] n rank, done := done + 1 }]))

/-! ## Packets (R246, R250, R254, R255, R306 to R318) -/

/-- R309, R311, R255, R246, R250, Tables 14.3 to 14.6: a packet without signals that completes outside a region puts one reply in
line, with OPCODE, PART, SEQ and the IRQ flag of the packet (OK becoming OK_POISONED while the step is poisoned, but for a
STEP_END, R34), and leaves its queue; inside a region its reply is held instead. NOP completes at once, FENCE when the earlier packets have, SYNC_SIGNAL
after its operation, or, inside a region on an object outside the region's block, with the operation held (R197); SYNC_WAIT when its condition holds (else it enters a wait), or with TIMEOUT.
R316, R338, R400, Table 14.5: a COPY within LPDDR6 of ranges that do not overlap writes the bytes read, poisoned sectors poisoned,
and completes with OK, or with UNCORRECTABLE and the address of the first poisoned byte; a FILL writes its pattern repeated;
a length of zero completes with OK and touches nothing; a misaligned address or length is BAD_PARAM at its word, and a
range that the partition does not hold the status of R26. -/
def Obligations.PacketsCompleteCopyAndFill : Prop :=
  (∀ (s : State) (r : PktRef) (p : Pkt),
     let q := r.queue
     let u := s.queue q
     let s1 := s.begun q p
     let name := p.word 0
     let sub := field (p.word 2) 0 3
     let die := field name 12 1
     let obj := field name 0 12
     let malformed := bitAt name 62 = true ∨ field name 13 35 ≠ 0 ∨ (bitAt name 63 = false ∧ field name 48 14 ≠ 0)
     let remote := bitAt name 63 = true ∧ field name 48 14 ≠ s.devid
     let who : Who := .pkt q p.pos 4
     let entry : SWait := { who := who, obj := obj, cond := sub, val := p.word 1 }
     (∀ st d, p.sigs = [] → (∀ x ∈ u.pkts, x.asked = true) →
       let t := s.finish q p st d
       let rep : Reply := { pos := p.pos, part := if p.part ≤ 16 then p.part else q.part.val, op := BitVec.ofNat 8 p.op,
                            seqNo := BitVec.ofNat 16 (field p.h0 16 16), status := st, detail := d, irq := bitAt p.h0 9 }
       (∀ q', q' ≠ q → t.queue q' = s.queue q') ∧ (t.queue q).pkts = u.pkts.filter (fun x => !decide (x.pos = p.pos)) ∧
         ((∀ g, u.region = some g → p.pos ≤ g.startPos) → (t.queue q).waitRep = u.waitRep ++ [if u.poisoned = true ∧ st.toNat ≤ 1 ∧ rep.op ≠ 0x11 then
             { rep with status := stPOISONED, detail := BitVec.ofNat 64 u.undeliv } else rep] ∧
           { t.queue q with waitRep := u.waitRep, pkts := u.pkts } = u) ∧
         (∀ g, u.region = some g → g.startPos < p.pos → (t.queue q).waitRep = u.waitRep ∧
           ((t.queue q).region.map (·.replies)) = some (g.replies ++ [rep])) ∧
         t.answers = s.answers.filter (fun a => !decide (a.who = .pkt q p.pos)) ∧ { t with dies := s.dies, answers := s.answers } = s) ∧
     (s.turn r 0x00 p → s.ends (.nop r) q p s1 stOK 0) ∧
     (s.turn r 0x07 p → s1.quietBefore q p.pos = true → s.ends (.fence r) q p s1 stOK 0) ∧
     (s.turn r 0x05 p →
       (malformed → s.ends (.syncSignal r) q p s1 stBAD_PARAM 0) ∧
       (¬ malformed → 3 ≤ sub → s.ends (.syncSignal r) q p s1 stBAD_PARAM 2) ∧
       (¬ malformed → ¬ remote → sub < 3 → s.syncOwner die obj ≠ p.part → s.ends (.syncSignal r) q p s1 stNO_PERM 0) ∧
       (¬ malformed → ¬ remote → sub < 3 → s.syncOwner die obj = p.part →
         ((∀ g, u.region = some g → p.pos ≤ g.startPos ∨ (die = g.blockDie.val ∧ obj / 64 = g.block)) →
           s.ends (.syncSignal r) q p (s1.signal die obj sub (p.word 1)) stOK 0) ∧
         (∀ g, u.region = some g → g.startPos < p.pos → ¬ (die = g.blockDie.val ∧ obj / 64 = g.block) →
           ∃ x : SigPair, (field x.word 45 3 = sub ∧ field x.word 44 1 = die ∧ field x.word 32 12 = obj ∧
               field x.word 48 16 = field name 48 16 ∧ x.val = p.word 1 ∧ x.part = p.part) ∧
             s.ends (.syncSignal r) q p
               (s1.setQueue q { s1.queue q with region := some { g with sigs := g.sigs ++ [(p.pos, x)] } }) stOK 0))) ∧
     (s.turn r 0x06 p → s.waiting who = false →
       (malformed ∨ remote → s.ends (.syncWaitPacket r) q p s1 stBAD_PARAM 0) ∧
       (¬ malformed → ¬ remote → 3 ≤ sub → s.ends (.syncWaitPacket r) q p s1 stBAD_PARAM 2) ∧
       (¬ malformed → ¬ remote → sub < 3 → s.syncOwner die obj ≠ p.part → s.ends (.syncWaitPacket r) q p s1 stNO_PERM 0) ∧
       (¬ malformed → ¬ remote → sub < 3 → s.syncOwner die obj = p.part →
         (condHolds sub (s.objVal die obj) (p.word 1) = true →
           s.ends (.syncWaitPacket r) q p (s1.addWait die entry) stOK 0) ∧
         (condHolds sub (s.objVal die obj) (p.word 1) = false → s.gives (.syncWaitPacket r) (s1.addWait die entry)))) ∧
     (p ∈ u.pkts → p.pos = r.pos.toNat → p.op = 0x06 → p.st = .begun → (∀ x ∈ u.pkts, x.pos = p.pos → x = p) →
       field (p.word 2) 16 16 ≠ 0 → p.began + 25000 * field (p.word 2) 16 16 ≤ s.now → s.waiting who = true →
       s.gives (.syncWaitTimeout r) ((s.dropWaits (fun w => decide (w = who))).finish q p stTIMEOUT 0))) ∧
  (∀ (s : State) (r : PktRef) (p : Pkt),
     let q := r.queue
     let s1 := s.begun q p
     let n := (p.word 2).toNat
     let m := (p.word 1).toNat
     let local_ := fun (w : Word) => BitVec.ofNat 64 (field w 0 48)
     (s.turn r 0x03 p → p.work = [] →
       (n = 0 → s.ends (.copy r) q p s1 stOK 0) ∧
       (n ≠ 0 → (p.word 0).toNat % 32 ≠ 0 → s.ends (.copy r) q p s1 stBAD_PARAM 0) ∧
       (n ≠ 0 → (p.word 0).toNat % 32 = 0 → m % 32 ≠ 0 → s.ends (.copy r) q p s1 stBAD_PARAM 1) ∧
       (n ≠ 0 → (p.word 0).toNat % 32 = 0 → m % 32 = 0 → n % 32 ≠ 0 → s.ends (.copy r) q p s1 stBAD_PARAM 2) ∧
       (n ≠ 0 → (p.word 0).toNat % 32 = 0 → m % 32 = 0 → n % 32 = 0 →
         ∀ d a d' b, s1.locate (p.word 0) = .dram d a → s1.locate (p.word 1) = .dram d' b →
           (∀ st, s1.rangeBad p.part (local_ (p.word 0)) n true true = some st → s.ends (.copy r) q p s1 st 0) ∧
           (s1.rangeBad p.part (local_ (p.word 0)) n true true = none →
             (∀ st, s1.rangeBad p.part (local_ (p.word 1)) n true true = some st → s.ends (.copy r) q p s1 st 1) ∧
             (s1.rangeBad p.part (local_ (p.word 1)) n true true = none → (a = b ∨ b + n ≤ a ∨ a + n ≤ b) →
               ∀ s2 bytes bad, s1.pktSectors q p.part a n = (s2, bytes, bad) →
                 let t := s2.writeMark b bytes (fun i => bad.any (fun x => decide ((x - a) / 32 = i / 32)))
                 t.outstanding (.pkt q p.pos) = false →
                 (bad = [] → s.ends (.copy r) q p t stOK 0) ∧
                 (bad ≠ [] → s.ends (.copy r) q p t stUNCORR
                   (p.word 0 + BitVec.ofNat 64 ((bad.map (fun x => x - a)).foldl min n))))))) ∧
     (s.turn r 0x04 p →
       (m = 0 → s.ends (.fill r) q p s1 stOK 0) ∧
       (m ≠ 0 → (p.word 0).toNat % 8 ≠ 0 → s.ends (.fill r) q p s1 stBAD_PARAM 0) ∧
       (m ≠ 0 → (p.word 0).toNat % 8 = 0 → m % 8 ≠ 0 → s.ends (.fill r) q p s1 stBAD_PARAM 1) ∧
       (m ≠ 0 → (p.word 0).toNat % 8 = 0 → m % 8 = 0 →
         (∀ st, s1.rangeBad p.part (p.word 0) m true true = some st → s.ends (.fill r) q p s1 st 0) ∧
         (s1.rangeBad p.part (p.word 0) m true true = none → (p.word 0).toNat < 0x30000000000 →
           s.ends (.fill r) q p (s1.writeMem (p.word 0).toNat ((List.replicate (m / 8) (toBytes 8 (p.word 2).toNat)).flatten) false)
             stOK 0))))

/-- R317, R318, R256, R285, Table 14.5: a LAUNCH whose cores are free and whose checks pass starts its task: every core named runs at the
level and PC given, with x10 to x14 from the block, x15 its rank, every other register 0, ASCTL and SEED from the block,
STEPNO the step; with no core named it completes with OK; a core out of service gives TASK_FAULT with its number (R405). A
core that halts ends its task with its status, once its tile queue is empty and all it issued has been performed, and the LAUNCH
completes when its last core has ended. That ASCTL is checked before ENTRY, and TASK_FAULT for a core out of service, is the
model's choice (log 49). -/
def Obligations.TasksStartAndEnd : Prop :=
  ∀ (s : State) (r : PktRef) (p : Pkt) (core : CoreId),
    let q := r.queue
    let s1 := s.begun q p
    let a := (p.word 0).toNat
    let level := field (p.word 1) 24 2
    (s.turn r 0x01 p →
      (p.cores = [] → s.ends (.launch r) q p s1 stOK 0) ∧
      (p.cores ≠ [] → 1 < level → s.ends (.launch r) q p s1 stBAD_PARAM 1) ∧
      (p.cores ≠ [] → level ≤ 1 → (∃ c, c < 16 ∧ bitAt (p.word 1) c = true ∧ s.owner c ≠ p.part) →
        s.ends (.launch r) q p s1 stNO_PERM 1) ∧
      (p.cores ≠ [] → level ≤ 1 → (∀ c, c < 16 → bitAt (p.word 1) c = true → s.owner c = p.part) →
        (a % 64 ≠ 0 → s.ends (.launch r) q p s1 stBAD_PARAM 0) ∧
        (a % 64 = 0 → s1.rangeBad p.part (p.word 0) 64 true false = none → ∀ s2 b, s1.blkRead q p.pos p.part a 64 = (s2, .bytes b) →
          let w := fun i => BitVec.ofNat 64 (ofBytes ((b.drop (8 * i)).take 8))
          b.length = 64 → s2.cores = s.cores → s2.clusters = s.clusters →
          (field (w 1) 59 5 ≠ p.part → s.ends (.launch r) q p s2 stNO_PERM (BitVec.ofNat 64 (8 * 2 ^ 32 + 0xF))) ∧
          (field (w 1) 59 5 = p.part → (∀ c ∈ p.cores, (s.core c).run = .idle) → (w 0).toNat % 4 ≠ 0 →
            s.ends (.launch r) q p s2 stBAD_PARAM 0xF) ∧
          (field (w 1) 59 5 = p.part → (∀ c ∈ p.cores, (s.core c).run = .idle) → (w 0).toNat % 4 = 0 →
            ∀ c, p.cores.find? (fun c => s2.clOut (c / 8)) = some c → s.ends (.launch r) q p s2 stTASK (BitVec.ofNat 64 c)) ∧
          (field (w 1) 59 5 = p.part → (∀ c ∈ p.cores, (s.core c).run = .idle ∧ s2.clOut (c / 8) = false) →
            (w 0).toNat % 4 = 0 → (∀ c ∈ p.cores, s2.dom (clDom (c / 8)) = .on) →
            ∃ t, exec (.launch r) s = .next t ∧ (∀ c, c ∉ p.cores → t.core c = s.core c) ∧
              ∀ i c, p.cores[i]? = some c →
                let k := s.core c
                let k' := t.core c
                k'.pc = w 0 ∧ k'.run = .running ∧ k'.level = (if level = 0 then .u else .s) ∧
                  k'.task = some { queue := q, pos := p.pos } ∧
                  k'.bank = (if saveset k = true ∨ level = 0 then .u else .s) ∧
                  (∀ j, j < 32 → bget k' k'.bank j =
                    if 10 ≤ j ∧ j ≤ 14 then w (j - 7) else if j = 15 then BitVec.ofNat 64 i else 0) ∧
                  k'.cr.asctl = w 1 &&& ~~~(0xFFF#64) ∧ k'.cr.seed = w 2 ∧ k'.cr.stepno = (s2.queue q).stepCtr ∧
                  k'.cr.cflags = 0 ∧ k'.tc.trapenU = 0 ∧ k'.mem.l1 = [] ∧ k'.mem.icache = [] ∧
                  k'.vec = k.vec ∧ k'.tile = k.tile ∧ k'.acc = k.acc ∧ k'.lp = k.lp ∧ k'.ts = k.ts ∧ k'.tf = k.tf)))) ∧
    (let c := core.val
     let k := s.core c
     ∀ st, k.run = .ending st → (s.outstanding (.core c) = true ∨ k.tile.queue ≠ [] → exec (.taskEnd core) s = .next s) ∧
      (s.outstanding (.core c) = false → k.tile.queue = [] → k.mem.wcb = [] → k.cr.cflags &&& 3 = 0 → (∀ d, d < 2 → ∀ w ∈ (s.die d).sync.waits, w.who ≠ .core c) →
      let idle : Core := { k with run := .idle, task := none, mem := { k.mem with miss := [], loads := [], prog := 0 } }
      (k.task = none → ∃ t, exec (.taskEnd core) s = .next t ∧ t.core c = idle ∧ t.tasks = s.tasks ∧ t.dies = s.dies) ∧
      (∀ x u, k.task = some x → s.tasks = [u] → u.q = x.queue → u.pos = x.pos →
        let u' : Task := { u with ended := u.ended ++ [(c, st)] }
        (u.ended.length + 1 < u.cores.length →
          ∃ t, exec (.taskEnd core) s = .next t ∧ t.core c = idle ∧ t.tasks = [u'] ∧ t.dies = s.dies) ∧
        (u.cores.length ≤ u.ended.length + 1 → ∀ y, (s.queue u.q).pkts.find? (fun y => decide (y.pos = u.pos)) = some y →
          (∀ e ∈ u'.ended, e.2 = stOK) → ∃ s2 : State, s2.core c = idle ∧ s2.tasks = [] ∧ s2.dies = s.dies ∧
            s.gives (.taskEnd core) (s2.finish u.q y stOK 0)))))

/-! ## Caches and reduction groups (R211 to R236) -/

/-- R211, R214, R83, R220, R221, R234, R235: an idle write-combining entry drains as a masked write at its L2; an L1 fill brings the
sectors of its miss register one by one, the one that missed first: the load that waits for it writes its destination, or
raises ACCESS with DETAIL 6 at its own PC where it is poisoned, or with DETAIL 0 where its granule is the partition's no longer (R26),
and the fourth frees the register; what a slice answered takes the bytes of a write drained after it; a request at a slice hits,
joins or opens a miss register or waits in its queue, and an open group answers a read with its sum; a fill ends the line's
miss registers; the control cache answers a line it holds from its copy, and counts the hit.
R223 to R227, R310, Table 10.3: a CACHE_OP on a range of zero length completes with OK; a misaligned base or length, a range that
leaves LPDDR6 or (for the locking operations) crosses dies is BAD_PARAM at its word, a range that the partition does not
hold the status of R26; else the operation runs on the range and the packet completes with its status. How fills and waiting
requests are told apart in steps (log 28) and what an answer of a slice carries (log 44) is the model's choice. -/
def Obligations.CachesServeAndOperate : Prop :=
  (∀ (s : State),
     (∀ (core : CoreId) (line : BitVec 41) (e : Wcb) (l1 l2 : List Wcb),
       let c := core.val
       let k := s.core c
       k.mem.wcb = l1 ++ e :: l2 → e.line = line.toNat → (∀ x ∈ l1 ++ l2, x.line ≠ line.toNat) →
       (e.last + 256 ≤ s.cycles c → e.bad = false → s.armedAt (c / 64) 0x05 = none →
         let s1 := s.setCore c { k with mem := { k.mem with wcb := l1 ++ l2 } }
         let u := s1.l2Write (128 * e.line) e.mask e.data e.poison
         let k2 := u.core c
         (s.granOwner (.dram 0 (128 * e.line)) ≠ some (s.owner (c / 8)) → s.gives (.wcbIdleDrain core line) s1) ∧
         (s.granOwner (.dram 0 (128 * e.line)) = some (s.owner (c / 8)) → s.gives (.wcbIdleDrain core line)
           (if ∀ m ∈ k2.mem.miss, m.line ≠ e.line ∨ m.resp = none then u
            else u.setCore c { k2 with mem := { k2.mem with
              miss := k2.mem.miss.map (fun m => if m.line = e.line then { m with resp := m.resp.map e.over } else m) } }))) ∧
       (s.cycles c < e.last + 256 → ∃ t, exec (.wcbIdleDrain core line) s = .next t ∧ s.onlyCore t c k)) ∧
     (∀ (core : CoreId) (line : BitVec 41),
       let c := core.val
       let k := s.core c
       ((∀ m ∈ k.mem.miss, m.line ≠ line.toNat) → exec (.l1Fill core line) s = .next s) ∧
       (∀ m r, k.mem.miss = [m] → m.line = line.toNat → m.resp = some r → k.mem.loads = [] →
         ∃ t, exec (.l1Fill core line) s = .next t ∧
           (t.core c).mem.miss = (if m.n = 3 then [] else [{ m with n := m.n + 1 }]) ∧
           { t.core c with mem := k.mem } = k ∧ (∀ n, n ≠ c → t.core n = s.core n) ∧ { t with cores := s.cores } = s) ∧
       (∀ m w, k.mem.miss = [m] → m.line = line.toNat → m.resp = none → m.n = 0 → m.first < 4 →
         k.mem.loads = [w] → w.got = none → w.pa / 32 = 4 * m.line + m.first →
         let own := s.granOwner (.dram 0 (128 * m.line)) = some (s.owner (c / 8))
         (¬ own → stIH (tregs k (k.target 0x07)) = false →
           ∃ t k', exec (.l1Fill core line) s = .next t ∧ s.onlyCore t c k' ∧
             { k with pc := w.pc, lp := w.lp, mem := { k.mem with miss := [], loads := [] } }.enters k' (k.target 0x07) w.pc ⟨0x07, w.va, 0⟩) ∧
         ∀ s2 d0 p0 d p, own → s.l2Read (128 * m.line + 32 * m.first) [0, 1, 2, 3] true = (s2, d0, p0) → s2.core c = k →
           s2.pending = s.pending → s2.overlaid c m.line (d0, p0) = (d, p) →
           let b := lineBytes d (w.pa % 128) (loadBytes w.size)
           (bitAt p m.first = false → ∃ t, exec (.l1Fill core line) s = .next t ∧
             k.wroteReg { t.core c with mem := k.mem } w.rd (loadVal w.size b) ∧
             (t.core c).mem = { k.mem with loads := [], miss := [{ m with n := 1, resp := some (d0, p0) }],
                                           l1 := (t.core c).mem.l1, victim := (t.core c).mem.victim } ∧
             (∀ n, n ≠ c → t.core n = s2.core n) ∧ { t with cores := s2.cores } = s2) ∧
           (bitAt p m.first = true → stIH (tregs k (k.target 0x07)) = false →
             ∃ (t : State) (k1 : Core), exec (.l1Fill core line) s = .next t ∧ k1.enters (t.core c) (k.target 0x07) w.pc ⟨0x07, w.va, 6⟩ ∧
               k1.mem.loads = [] ∧ k1.lp = w.lp ∧
               { k1 with pc := k.pc, lp := k.lp, mem := k.mem, injSync := k.injSync } = k ∧
               (∀ n, n ≠ c → t.core n = s2.core n) ∧ { t with cores := s2.cores, dies := s2.dies, svc := s2.svc } = s2))) ∧
     (∀ (pa : BitVec 48) (req : L2Req) (d a : Nat), locPA pa.toNat = .dram d a →
       let s2 := s.wakeL2 a
       let k := s2.slice (homeDie a) (paSlice a)
       let waits := fun (x : State) => x.setSlice (homeDie a) (paSlice a)
         { x.slice (homeDie a) (paSlice a) with queue := (x.slice (homeDie a) (paSlice a)).queue ++ [⟨a, req⟩] }
       (k.queue.length < 256 → ∀ g, s2.groupAt a = some g →
         s.gives (.l2Access pa .read)
           (s2.emit (.answer a (g.lineAt a).sum (if s2.deadFrame a then 0xF else (g.lineAt a).poison))) ∧
         ∀ mask data, s.gives (.l2Access pa (.write mask data)) (s2.setGroup (homeDie a) { g with wr := true })) ∧
       (s2.groupAt a = none → k.queue.length < 256 →
         (∀ w l, s2.l2Find a = some (w, l) → (∀ i ∈ needSecs a req, bitAt l.valid i = true) →
           s.gives (.l2Access pa req) ((s2.l2Count a true).serveLine a req 0 w l)) ∧
         (s2.l2Find a = none → needSecs a req = [] → k.tracks (a / 128) = none →
           (∀ s3 w l, s2.l2Alloc a = (s3, some (w, l)) → s.gives (.l2Access pa req) (s3.serveLine a req 0 w l)) ∧
           (∀ s3, s2.l2Alloc a = (s3, none) → s.gives (.l2Access pa req) (waits s3))) ∧
         ((∀ w l, s2.l2Find a = some (w, l) → ∃ i ∈ needSecs a req, bitAt l.valid i = false) →
           (s2.l2Find a = none → needSecs a req ≠ [] ∨ k.tracks (a / 128) ≠ none) →
           (∀ i, k.joins (a / 128) = some i → s.gives (.l2Access pa req) (s2.joinMiss a req i)) ∧
           (k.joins (a / 128) = none → k.room a = false → s.gives (.l2Access pa req) (waits s2)) ∧
           (k.joins (a / 128) = none → k.room a = true →
             (∀ s3, s2.openMiss a [⟨a, req⟩] none = (s3, true) → s.gives (.l2Access pa req) s3) ∧
             (∀ s3, s2.openMiss a [⟨a, req⟩] none = (s3, false) → s.gives (.l2Access pa req) (waits s3))))) ∧
       (256 ≤ k.queue.length → s.gives (.l2Access pa req) s2) ∧
       (let l := (s.slice (homeDie a) (paSlice a)).miss.filter (fun m => decide (m.line = a / 128))
        (l = [] → s.gives (.l2Fill pa) s) ∧ (l ≠ [] → s.gives (.l2Fill pa) ((l.foldl State.fillMiss s).promoteAt a))) ∧
       ∀ (die : DieId) (side : Fin 2) (e : CLine),
         let h := ccHalf a
         let half := tget {} (s.die die.val).cc h
         s.deadFrame a = false → (tget [] half.sets (a / 128 % 4096)).find? (fun e => decide (e.line = a / 128)) = some e →
         ∃ t, exec (.controlCacheAccess die side pa) s = .next t ∧ t.out = s.out ++ [.answer a e.data 0] ∧ t.mem = s.mem ∧
           (tget {} (t.die die.val).cc h).hitN = satAdd half.hitN 1 ∧ (tget {} (t.die die.val).cc h).missN = half.missN ∧
           (h ≠ side.val → (tget {} (t.die die.val).cc side.val).link = satAdd (tget {} (s.die die.val).cc side.val).link 1) ∧
           (tget [] (tget {} (t.die die.val).cc h).sets (a / 128 % 4096)).head? = some e)) ∧
  (∀ (s : State) (r : PktRef) (p : Pkt), s.turn r 0x08 p →
     let q := r.queue
     let s1 := s.begun q p
     let a := (p.word 0).toNat
     let n := (p.word 1).toNat
     let row := fun (i : Instr) (op align : Nat) (oneDie : Bool) (f : State → State × Byte) => field (p.word 2) 0 4 = op →
       let fits := a % align = 0 ∧ n % align = 0 ∧ a + n ≤ 0x30000000000 ∧
         (oneDie = true → 0x18000000000 ≤ a ∨ a + n ≤ 0x18000000000)
       (n = 0 → s.ends i q p s1 stOK 0) ∧
       (n ≠ 0 → a % align ≠ 0 → s.ends i q p s1 stBAD_PARAM 0) ∧
       (n ≠ 0 → a % align = 0 → n % align ≠ 0 → s.ends i q p s1 stBAD_PARAM 1) ∧
       (n ≠ 0 → a % align = 0 → n % align = 0 → ¬ fits → s.ends i q p s1 stBAD_PARAM 0) ∧
       (n ≠ 0 → fits → ∀ st, s1.rangeBad p.part (p.word 0) n true false = some st → s.ends i q p s1 st 0) ∧
       (n ≠ 0 → fits → s1.rangeBad p.part (p.word 0) n true false = none → s.ends i q p (f s1).1 (f s1).2 0)
     let locked := (s.die (homeDie a)).locks.any (fun x => decide (x.part = p.part) && decide (x.base = a) && decide (x.len = n))
     row (.flush r) 0 128 false (fun s => (s.flushRange a n, stOK)) ∧
     row (.inval r) 1 128 false (fun s => (s.invalRange a n, stOK)) ∧
     row (.flushInval r) 2 128 false (fun s => ((s.flushRange a n).invalRange a n, stOK)) ∧
     row (.dead r) 3 128 false (fun s => (s.deadRange a n, stOK)) ∧
     row (.lock r) 4 8192 true (fun s => s.lockRange p.part a n) ∧
     row (.unlock r) 5 8192 true (fun s => if locked then (s.freeLock p.part a n false, stOK) else (s, stBAD_PARAM)) ∧
     row (.unlockDiscard r) 6 8192 true (fun s => if locked then (s.freeLock p.part a n true, stOK) else (s, stBAD_PARAM)) ∧
     (let d := homeDie a
      let k := s.die d
      ((k.locks.any (fun x => overlap a n x.base x.len) = true ∨ k.groups.any (fun g => overlap a n g.base g.len) = true) →
        s1.lockRange p.part a n = (s1, stBAD_PARAM)) ∧
      (k.locks.any (fun x => overlap a n x.base x.len) = false → k.groups.any (fun g => overlap a n g.base g.len) = false →
        64 ≤ k.locks.length → s1.lockRange p.part a n = (s1, stNO_RES))))

/-- R228 to R233, Tables 10.4 and 10.5: GROUP_OPEN takes its first failing check's status and word, or opens the group; GROUP_ABORT
ends an open group with RESULT 1, a timeout with RESULT 2; a contribution is refused with the reason of its first failing
check, held or answered with RETRY out of order, or added to its line's sum, element by element; the last one of every line
ends the group with RESULT 0. Which entries may hold a contribution that came out of order, and so when RETRY answers it, is the
model's choice (log 42). -/
def Obligations.ReductionGroups : Prop :=
  ∀ (s : State),
    (∀ (r : PktRef) (p : Pkt), s.turn r 0x08 p →
      let q := r.queue
      let s1 := s.begun q p
      let a := (p.word 0).toNat
      let n := (p.word 1).toNat
      let w := p.word 2
      let d := homeDie a
      let k := s.die d
      let g := field w 24 8
      (field w 0 4 = 8 →
        (n = 0 → s.ends (.groupOpen r) q p s1 stBAD_PARAM 1) ∧
        (n ≠ 0 → ∀ st i, s1.cacheBad p 128 true = some (st, i) → s.ends (.groupOpen r) q p s1 st (BitVec.ofNat 64 i)) ∧
        (n ≠ 0 → s1.cacheBad p 128 true = none →
          let named := k.groups.any (fun h => decide (h.part = p.part) && decide (h.g = g))
          let covered := k.groups.any (fun h => overlap a n h.base h.len) || k.locks.any (fun x => overlap a n x.base x.len)
          let ranks := field w 16 5
          let owned := decide (s.syncOwner d (field (p.word 3) 0 12) = p.part)
          let st := (p.word 4).toNat
          (named = true → s.ends (.groupOpen r) q p s1 stBAD_PARAM 2) ∧
          (named = false → covered = true → s.ends (.groupOpen r) q p s1 stBAD_PARAM 0) ∧
          (named = false → covered = false → (ranks = 0 ∨ 16 < ranks) → s.ends (.groupOpen r) q p s1 stBAD_PARAM 2) ∧
          (named = false → covered = false → 1 ≤ ranks → ranks ≤ 16 →
            (owned = false → s.ends (.groupOpen r) q p s1 stBAD_PARAM 3) ∧
            (owned = true → st % 8 ≠ 0 → s.ends (.groupOpen r) q p s1 stBAD_PARAM 4) ∧
            (owned = true → st % 8 = 0 →
              (∀ e, s1.rangeBad p.part (p.word 4) 8 true true = some e → s.ends (.groupOpen r) q p s1 e 4) ∧
              (s1.rangeBad p.part (p.word 4) 8 true true = none →
                (s1.groupFits d p.part a n = false → s.ends (.groupOpen r) q p s1 stNO_RES 0) ∧
                (s1.groupFits d p.part a n = true →
                  let grp : Group := { part := p.part, g := g, base := a, len := n, ordered := bitAt w 8, ranks := ranks,
                                       step := BitVec.ofNat 32 (field (p.word 3) 32 32), done := field (p.word 3) 0 12,
                                       status := st, timeout := field w 32 16, opened := s.now }
                  s.ends (.groupOpen r) q p (s1.openGroup d grp (bitAt w 9)) stOK 0)))))) ∧
      (field w 0 4 = 9 →
        let d := field w 10 1
        let found := (s.die d).groups.find? (fun h => decide (h.part = p.part) && decide (h.g = g))
        (found = none → s.ends (.groupAbort r) q p s1 stBAD_PARAM 2) ∧
        (∀ h, found = some h → s.ends (.groupAbort r) q p (s1.endGroup d h 1) stOK 0))) ∧
    (∀ (die : DieId) (part : PartId) (g : BitVec 8) (h : Group),
      (s.die die.val).groups.find? (fun h => decide (h.part = part.val) && decide (h.g = g.toNat)) = some h →
      (h.timeout ≠ 0 → h.timeout * 25000 ≤ s.now - h.opened → s.gives (.groupTimeout die part g) (s.endGroup die.val h 2)) ∧
      (h.timeout = 0 ∨ s.now - h.opened < h.timeout * 25000 → s.gives (.groupTimeout die part g) s)) ∧
    (∀ (c : Contribution),
      let part := c.part.val
      let rank := c.rank.toNat
      let bit : BitVec 16 := ones rank 1
      ((∀ d a, locPA c.line.toNat ≠ .dram d a) → s.gives (.contribution c) (s.emit (.contrib 2 2))) ∧
      (∀ d a, locPA c.line.toNat = .dram d a →
        let pa := a / 128 * 128
        let s2 := s.wakeL2 pa
        let refused := fun n => s.gives (.contribution c) ((s2.refuseRed d pa part c.g.toNat n).emit (.contrib 2 n))
        let found := (s2.die d).groups.find? (fun h => decide (h.part = part) && decide (h.g = c.g.toNat) && decide (h.base ≤ pa) &&
          decide (pa < h.base + h.len))
        (s.granOwner (.dram d pa) ≠ some part → s.gives (.contribution c) (s.emit (.contrib 2 1))) ∧
        (s.granOwner (.dram d pa) = some part →
          (found = none → refused 3) ∧
          (∀ g, found = some g →
            let l := g.lineAt pa
            (c.step ≠ g.step → refused 4) ∧
            (c.step = g.step → g.ranks ≤ rank → refused 5) ∧
            (c.step = g.step → rank < g.ranks → l.got.getLsbD rank = true → refused 6) ∧
            (c.step = g.step → rank < g.ranks → l.got.getLsbD rank = false →
              (g.ordered = true → rank ≠ l.nxt →
                (s2.holdRoom d g.part pa = true → s.gives (.contribution c)
                  ((s2.setGroup d (g.setLine pa { l with got := l.got ||| bit, held := l.held ++ [⟨rank, c.mask, c.data⟩] })).emit
                    (.contrib 0 0))) ∧
                (s2.holdRoom d g.part pa = false → ∃ t, exec (.contribution c) s = .next t ∧ t.out = s2.out ++ [.contrib 1 0] ∧
                  (t.die d).groups = (s2.die d).groups)) ∧
              ((g.ordered = true → rank = l.nxt) → (∀ x ∈ l.held, x.rank ≠ rank + 1) →
                let add := addLine l.sum c.mask c.data
                let l' : RedLine := { l with sum := add.1, got := l.got ||| bit, nxt := if g.ordered then rank + 1 else l.nxt }
                let g' : Group := { g.setLine pa l' with ovf := g.ovf || add.2.1, nf := g.nf || add.2.2 }
                let whole := (g'.lines.filter (fun e => decide (e.2.got = ones 0 g'.ranks) && e.2.held.isEmpty)).length = g.len / 128
                (whole → s.gives (.contribution c) ((s2.endGroup d g' 0).emit (.contrib 0 0))) ∧
                (¬ whole → s.gives (.contribution c) ((s2.setGroup d g').emit (.contrib 0 0)))))))))

/-! ## Census, regions, poisoning (R165, R184 to R206) -/

/-- R165, R185, R188, R189, R192, R199: a report marks the region of its task, the first mark keeping core and accumulator; a count
reaches the slot's current or shadow counters, or the unenrolled count of a slot that is off; CENSUS_CFG and CENSUS_READ
take their first failing check's status and word, or act on every slot named and complete; a CENSUS_READ whose buffer covers
a poisoned sector in part writes its result and completes with UNCORRECTED (the model's choice, log 69). -/
def Obligations.CensusCountsAndPackets : Prop :=
  ∀ (s : State),
    (∀ (core : CoreId) (acc : Fin 4) (m : AccMark),
      (s.taskOf core.val = none → s.gives (.harnessReport core acc m) s) ∧
      ∀ x g, s.taskOf core.val = some x → x.region = true → (s.queue x.q).region = some g →
        let first := g.ovf = false ∧ g.nf = false ∧ g.pe = false
        s.gives (.harnessReport core acc m) (s.setQueue x.q { s.queue x.q with region := some { g with
          ovf := g.ovf || decide (m = .ovf), nf := g.nf || decide (m = .nf), pe := g.pe || decide (m = .pe),
          peInj := if m = .pe then false else g.peInj,
          firstCore := if first then core.val else g.firstCore, firstAcc := if first then acc.val else g.firstAcc } })) ∧
    (∀ (die : DieId) (slot : BitVec 10) (part : PartId) (queue : Fin 64) (n : Counts),
      let d := die.val
      let c := s.cslot d slot.toNat
      let mine := decide (s.censusOwner d slot.toNat = part.val) && decide (field c.ctl 23 6 = queue.val)
      let thr := field c.thr 0 32
      let was := c.cur.nonfin + c.shadow.nonfin
      let sum := fun (a : Counts) => ({ elems := satAdd a.elems n.elems, zero := satAdd a.zero n.zero, ufl := satAdd a.ufl n.ufl,
                                        sat := satAdd a.sat n.sat, nonfin := satAdd a.nonfin n.nonfin } : Counts)
      let c' : CSlot :=
        if mine = true ∧ s.regionOn part queue = true then { c with shadow := sum c.shadow }
        else if mine = true then { c with cur := sum c.cur }
        else { c with cur := sum c.cur, flags := c.flags ||| 8 }
      let s2 := s.setCslot d slot.toNat c'
      let crosses := thr ≠ 0 ∧ was < thr ∧ thr ≤ c'.cur.nonfin + c'.shadow.nonfin
      (bitAt c.ctl 0 = false →
        s.gives (.censusCount die slot part queue n) (s.unenrolled d (s.censusOwner d slot.toNat) n.elems)) ∧
      (bitAt c.ctl 0 = true → ¬ crosses → s.gives (.censusCount die slot part queue n) s2) ∧
      (bitAt c.ctl 0 = true → crosses → s.gives (.censusCount die slot part queue n) (s2.censusEvent d slot.toNat 0))) ∧
    (∀ (r : PktRef) (p : Pkt),
      let q := r.queue
      let s1 := s.begun q p
      let w := p.word 0
      let d := field w 10 1
      let n := field w 0 10
      let k := field w 11 11
      let slots := List.range k
      let foreign := ∃ i, i < k ∧ s.censusOwner d (n + i) ≠ p.part
      (s.turn r 0x16 p →
        let evBad := ∃ i, i < k ∧ bitAt (p.newCtl (s.cslot d (n + i))) 35 = true ∧
          s.syncOwner d (field (p.newCtl (s.cslot d (n + i))) 36 12) ≠ p.part
        (k = 0 → s.ends (.censusCfg r) q p s1 stOK 0) ∧
        (k ≠ 0 → 1024 < n + k → s.ends (.censusCfg r) q p s1 stBAD_PARAM 0) ∧
        (k ≠ 0 → n + k ≤ 1024 → foreign → s.ends (.censusCfg r) q p s1 stNO_PERM 0) ∧
        (k ≠ 0 → n + k ≤ 1024 → ¬ foreign → evBad →
          s.ends (.censusCfg r) q p s1 stNO_PERM (if bitAt w 24 = true then 1 else 0)) ∧
        (k ≠ 0 → n + k ≤ 1024 → ¬ foreign → ¬ evBad →
          (slots.any (fun i => s1.cfgWaits p d (n + i)) = true → s.gives (.censusCfg r) s1) ∧
          (slots.any (fun i => s1.cfgWaits p d (n + i)) = false →
            s.ends (.censusCfg r) q p (slots.foldl (fun s i => s.cfgSlot p d (n + i)) s1) stOK 0))) ∧
      (s.turn r 0x17 p →
        let un := bitAt w 28
        let len := 104 * k + if un then 8 else 0
        let dst := (p.word 1).toNat
        let ok := len ≠ 0 ∧ n + k ≤ 1024 ∧ ¬ foreign
        let words := slots.flatMap (fun i => s.slotWords d (n + i)) ++ if un then [tget 0 (s.die d).census.unenr p.part] else []
        (len = 0 → s.ends (.censusRead r) q p s1 stOK 0) ∧
        (len ≠ 0 → 1024 < n + k → s.ends (.censusRead r) q p s1 stBAD_PARAM 0) ∧
        (len ≠ 0 → n + k ≤ 1024 → foreign → s.ends (.censusRead r) q p s1 stNO_PERM 0) ∧
        (ok → dst % 8 ≠ 0 → s.ends (.censusRead r) q p s1 stBAD_PARAM 1) ∧
        (ok → dst % 8 = 0 → ∀ st, s1.rangeBad p.part (p.word 1) len true true = some st → s.ends (.censusRead r) q p s1 st 1) ∧
        (ok → dst % 8 = 0 → s1.rangeBad p.part (p.word 1) len true true = none → dst < 0x30000000000 →
          let put := fun (s : State) => s.writeMem dst (words.flatMap (toBytes 8)) false
          ∀ s2, (s1.edgeBad q p.part dst len = (s2, none) → s.ends (.censusRead r) q p (put s2) stOK (BitVec.ofNat 64 len)) ∧
            ∀ x, s1.edgeBad q p.part dst len = (s2, some x) → s.ends (.censusRead r) q p (put s2) stUNCORR (BitVec.ofNat 64 x))))

/-- R193 to R204, Table 9.10: LAYER_BEGIN takes the first check that applies or opens the region and holds its reply; LAYER_COMMIT
outside a region is BAD_PARAM; inside, it waits for the region's packets, then row by row: a failed packet or a region of
the wrong shape fails the region, a poisoned step closes it as OK_POISONED, no mark commits it, the last rung or the last
attempt fails it, and any other mark replays it, a rung higher for OVF or NF. An acknowledged SIGNAL that its object's
owner accepts sets the object, is answered when no step is open on it, with a record where no step is due, and poisons the
step whose poison object and number it carries. That a LAYER_BEGIN is not counted in LENGTH and UPD skips no LAYER_COMMIT
(log 19), the queue that an arrival with no open step belongs to (log 69) and its record's words (log 18) are the model's
choice. -/
def Obligations.RegionsReplayAndPoison : Prop :=
  ∀ (s : State) (r : PktRef) (p : Pkt),
    let q := r.queue
    let u := s.queue q
    let s1 := s.begun q p
    let p1 := p.begins s
    let w := p.word 0
    let len := field w 0 11
    let block := field w 17 6
    let early := 0x100000000000 ≤ u.qbase.toNat ∨ u.region.isSome = true ∨ u.stepOpen = false
    let badName := 2 < field w 12 2 ∨ s.syncOwner (field w 16 1) (64 * block) ≠ p.part
    let badLen := 1024 < len ∨ 2 ^ field u.cfg 0 5 ≤ len
    (s.turn r 0x12 p →
      (early → s.ends (.layerBegin r) q p s1 stBAD_PARAM 0xE) ∧
      (¬ early → badName → s.ends (.layerBegin r) q p s1 stBAD_PARAM 0) ∧
      (¬ early → ¬ badName → badLen → s.ends (.layerBegin r) q p s1 stBAD_LENGTH 0) ∧
      (¬ early → ¬ badName → ¬ badLen → len = 0 → s.ends (.layerBegin r) q p s1 stOK 0) ∧
      (¬ early → ¬ badName → ¬ badLen → len ≠ 0 → p.sigs = [] → ∃ t g, exec (.layerBegin r) s = .next t ∧
        (t.queue q).region = some g ∧ g.startPos = p.pos ∧ g.len = len ∧ g.rung = field w 12 2 ∧ g.attempt = 0 ∧ g.block = block ∧
        g.beginReply = some (p.reply q.part.val stOK 0) ∧ g.replies = [] ∧ g.ovf = false ∧ g.nf = false ∧ g.pe = false ∧
        (t.queue q).waitRep = u.waitRep ∧ ∀ i, i < 64 → t.objVal (field w 16 1) (64 * block + i) = 0)) ∧
    (s.turn r 0x13 p →
      (u.region = none → p.work = [] → s.ends (.layerCommit r) q p s1 stBAD_PARAM 0xE) ∧
      (∀ g, u.region = some g → g.startPos < p.pos →
        let failed := if p.pos = g.startPos + g.len then g.bad.map (fun e => e.2) else some (stBAD_LENGTH, 0xE)
        let marked := g.ovf || g.nf || g.pe
        let wide := g.ovf || g.nf
        let ends := fun (s : State) (st : Byte) (d : Word) (wait : Bool) =>
          ((s.closeRegion q g).finishCommit q p1 st d wait).pump q
        let fails := fun (row : Nat) (st : Byte) (d : Word) =>
          let inj := decide (row = 5) && g.injected
          let s2 := s1.qlog 0x32 q inj (s1.regionWords q g g.rung st)
          ends (if u.poisoned then s2 else runJobs jobFuel [.poison q (.row row inj)] s2) st d (!u.poisoned)
        (s1.quietFrom q g.startPos p.pos = false → s.gives (.layerCommit r) (s1.pump q)) ∧
        (s1.quietFrom q g.startPos p.pos = true →
          (∀ e, failed = some e → s.gives (.layerCommit r) (fails 1 e.1 e.2)) ∧
          (failed = none → u.poisoned = true → s.gives (.layerCommit r) (ends s1 stPOISONED 0 false)) ∧
          (failed = none → u.poisoned = false → marked = false →
            s.gives (.layerCommit r) (ends s1 (if 0 < g.attempt then stREPLAYED else stOK) 0 false)) ∧
          (failed = none → u.poisoned = false → wide = true → g.rung = 2 → s.gives (.layerCommit r) (fails 4 stPOISONED 0)) ∧
          (failed = none → u.poisoned = false → marked = true → (wide = true → g.rung ≠ 2) → g.attempt = 2 →
            s.gives (.layerCommit r) (fails 5 stLIMIT 0)) ∧
          (failed = none → u.poisoned = false → marked = true → (wide = true → g.rung ≠ 2) → g.attempt ≠ 2 →
            ∃ t, exec (.layerCommit r) s = .next t ∧ (t.queue q).nextPos = g.startPos + 1 ∧
              (t.queue q).region = some { g with
                rung := if wide then g.rung + 1 else g.rung, attempt := g.attempt + 1, ovf := false, nf := false, pe := false,
                peInj := false,
                firstCore := 0, firstAcc := 0, bad := none, replies := [], sigs := [] })))) ∧
    (∀ (src : BitVec 14) (part : PartId) (o : ObjId) (v : Word) (tag : BitVec 16),
      let d := o.die.val
      let i := o.obj.toNat
      let y := (s.die d).sync
      let s2 := (s.setSync d { y with signals := satAdd y.signals 1,
                                      arr := tset none y.arr i (some (src.toNat, none, v)) }).setObj d i v
      let carriers := s2.queues.filter (fun q => (s2.queue q).stepOpen && decide ((s2.queue q).poisonObj = (d, i)))
      let idle := s2.queues.filter (fun q => (decide (q.part = part) || (decide (q.part.val = 0) &&
        decide ((s2.queue q).stepPart = part.val))) && !(s2.queue q).stepOpen)
      let due := fun q => decide (v = (s2.queue q).stepCtr + 1)
      let named := idle.filter (fun q => decide ((s2.queue q).poisonObj = (d, i)) && decide ((s2.queue q).stepPart = part.val) &&
        decide ((s2.queue q).stepCtr ≠ 0))
      let late := if named = [] then
          (if idle.any due then s2 else s2.log 0x36 part.val d false [BitVec.ofNat 64 (part.val * 64 + 2 ^ 16), v, 0])
        else (named.filter (fun q => !due q)).foldl (fun s q =>
          s.log 0x36 q.part.val q.die.val false [BitVec.ofNat 64 (q.part.val * 64 + q.q.val), v, 0]) s2
      (s.syncOwner d i ≠ part.val ∨ s.own.dying = some part.val → s.gives (.acknowledgedSignal src part o v tag)
        (((s.setSync d { y with rrefused := satAdd y.rrefused 1 }).remoteFail d 1 5 part.val src.toNat 2 1).respond src.toNat part.val
          tag.toNat 2 1)) ∧
      (s.syncOwner d i = part.val → s.own.dying ≠ some part.val → src.toNat ≠ s2.devid → carriers = [] → s2.credited d i = [] →
        s.gives (.acknowledgedSignal src part o v tag) (late.respond src.toNat part.val tag.toNat 0 0)) ∧
      (s.syncOwner d i = part.val → s.own.dying ≠ some part.val → ∀ q, carriers.find? (fun q => decide (v = (s2.queue q).stepCtr)) = some q →
        ∃ t, exec (.acknowledgedSignal src part o v tag) s = .next t ∧ (t.queue q).poisoned = true))

/-! ## Fences and sync objects (R238 to R258, R260) -/

/-- R241 to R246, R150: FENCE.M and its forms drain the write-combining buffer, complete once no write or signal of the core is
unanswered (else the core holds issue), and invalidate the caches they name; FENCE.T waits at issue until the tile queue is
empty, and then clears the latches; FENCE.S completes when every context that the core owns is quiet, and until then has no effect.
R101, R103: WFE completes at once when an IP bit is set, and waits otherwise; reaching CTCMP completes a waiting WFE and
changes nothing else. HALT at U ends the task on the core with OK, at S with OK for a zero status and TASK_FAULT for any
other, and at F stops the core. That a fence which waits is sent again, FENCE.S looking at its contexts anew (log 45), and
that FENCE.T so waits at issue (log 67), is the model's choice. -/
def Obligations.FencesOrderAndCoresWait : Prop :=
  (∀ (s : State) (h : Issue), s.ready h.core.val = true → h.rsvz = 0 →
     let c := h.core.val
     let k := s.core c
     let s2 := s.drainWcb c
     let k2 := s2.core c
     let fence := fun (i : Instr) (k' : Core) =>
       (s2.outstanding (.core c) = false → ∃ t, exec i s = .next t ∧ s2.completes t c k') ∧
       (s2.outstanding (.core c) = true → ∃ t, exec i s = .next t ∧ s2.onlyCore t c { k2 with run := .waitResp })
     (s.calm s2 c → fence (.fenceM h) k2 ∧ fence (.fenceMInv h) { k2 with mem := { k2.mem with l1 := [], victim := [] } } ∧
       fence (.fenceI h) { k2 with mem := { k2.mem with icache := [], kcache := [], dcache := [] } }) ∧
     (k.tile.queue = [] → ∃ t, exec (.fenceT h) s = .next t ∧ s.completes t c { k with tile := { k.tile with latch := [] } }) ∧
     (k.tile.queue ≠ [] → exec (.fenceT h) s = .next s) ∧
     ((∀ n ∈ s.owned c, s.ctxQuiet (c / 8) n = true) → ∃ t, exec (.fenceS h) s = .next t ∧ s.completes t c k) ∧
     ((∃ n ∈ s.owned c, s.ctxQuiet (c / 8) n = false) → exec (.fenceS h) s = .next s)) ∧
  (∀ (s : State) (h : Issue) (rs1 : Reg),
     let c := h.core.val
     let k := s.core c
     (s.ready c = true → h.rsvz = 0 →
       (ipOf (s.ctxOf c) k ≠ 0 → ∃ t, exec (.wfe h) s = .next t ∧ s.completes t c k) ∧
       (ipOf (s.ctxOf c) k = 0 → ∃ t, exec (.wfe h) s = .next t ∧ s.onlyCore t c { k with run := .waitEvent }) ∧
       (∃ t, exec (.halt h rs1) s = .next t ∧ s.onlyCore t c { k with run := match k.level with
         | .u => .ending 0x00
         | .s => .ending (if (xget k rs1).toNat % 256 = 0 then 0x00 else 0x23)
         | .f => .halted })) ∧
     (k.run = .waitEvent → k.tc.ctcmp.toNat ≤ s.cycles c →
       ∃ t k', exec (.ctcmpMatch h.core) s = .next t ∧ s.onlyCore t c k' ∧ { k with run := .running }.passed k') ∧
     (k.run ≠ .waitEvent ∨ s.cycles c < k.tc.ctcmp.toNat → ∃ t, exec (.ctcmpMatch h.core) s = .next t ∧ s.onlyCore t c k))

/-- R245 to R251, R254, R260, Table 11.9: a reserved operation raises ILLEGAL_INSN and a bad name SYNC_FAULT with its reason; SYNC.SIG
performs its operation after the release it asks for, and a remote one with acquire order waits for its answer; SYNC.WAIT
completes at once when its condition holds and else waits, its release part being a part of that wait; SYNC.ARM replaces the slot's wait, SYNC.DISARM removes it,
SYNC.RD reads the object; a signal applied by the unit gives the object SET, ADD or MAX of its value, and ends the waits it
satisfies. -/
def Obligations.SyncObjects : Prop :=
  ∀ (s : State),
    (∀ (h : Issue) (rd rs1 rs2 : Reg) (op : BitVec 3) (ord : BitVec 2) (slot : Fin 4), s.ready h.core.val = true → h.rsvz = 0 →
      let c := h.core.val
      let k := s.core c
      let name := xget k rs1
      let v := xget k rs2
      let d := field name 12 1
      let o := field name 0 12
      let malformed := bitAt name 62 = true ∨ field name 13 35 ≠ 0 ∨ (bitAt name 63 = false ∧ field name 48 14 ≠ 0)
      let remote := bitAt name 63 = true ∧ field name 48 14 ≠ s.devid
      let mine := s.syncOwner d o = s.owner (c / 8)
      let acq := bitAt ord 0
      let s2 := if bitAt ord 1 then s.drainWcb c else s
      let k2 := s2.core c
      let released := bitAt ord 1 = true → s2.outstanding (.core c) = false
      let faults := fun (i : Instr) (n : BitVec 32) => s.canTrap c 0x11 = true → ∃ t, exec i s = .next t ∧ s.traps t c ⟨0x11, 0, n⟩
      let illegal := fun (i : Instr) => s.canTrap c 0x01 = true →
        ∃ t, exec i s = .next t ∧ s.traps t c ⟨0x01, (wordOf i).setWidth 64, 0⟩
      let sig := Instr.syncSig h op ord rs1 rs2
      let wait := Instr.syncWait h op ord rs1 rs2
      let arm := Instr.syncArm h slot op rs1 rs2
      let rd_ := Instr.syncRd h rd rs1
      let entry := fun (w : Who) => ({ who := w, obj := o, cond := op.toNat, val := v } : SWait)
      (3 ≤ op.toNat → illegal sig ∧ illegal wait ∧ illegal arm) ∧
      (malformed → (op.toNat < 3 → faults sig 1 ∧ faults wait 1 ∧ faults arm 1) ∧ faults rd_ 1) ∧
      (¬ malformed → remote → (op.toNat < 3 → faults wait 2 ∧ faults arm 2) ∧ faults rd_ 2) ∧
      (¬ malformed → ¬ remote → ¬ mine → (op.toNat < 3 → faults sig 3 ∧ faults wait 3 ∧ faults arm 3) ∧ faults rd_ 3) ∧
      (¬ malformed → remote → op.toNat < 3 → released → s2.noRoute (field name 48 14) = false →
        let s3 := s2.signalRemote (.core c) (s2.owner (c / 8)) (field name 48 14) op.toNat d o v
        s.calm s3 c →
        (acq = false → ∃ t, exec sig s = .next t ∧ s3.completes t c (s3.core c)) ∧
        (acq = true → ∃ t k', exec sig s = .next t ∧ s3.onlyCore t c k' ∧ k'.run = .waitResp ∧ k'.pc = (s3.core c).pc)) ∧
      (¬ malformed → ¬ remote → mine → op.toNat < 3 → released →
        (let s3 := s2.signal d o op.toNat v
         let k3 := s3.core c
         s.calm s3 c → ∃ t, exec sig s = .next t ∧
           s3.completes t c (if acq then { k3 with mem := { k3.mem with l1 := [], victim := [] } } else k3)) ∧
        (s.calm s2 c → k2.run = .running →
          (condHolds op.toNat (s2.objVal d o) v = true → ∃ t k', exec wait s = .next t ∧ s2.onlyCore t c k' ∧
            (if acq then { k2 with mem := { k2.mem with l1 := [], victim := [] } } else k2).passed k') ∧
          (condHolds op.toNat (s2.objVal d o) v = false → ∃ t, exec wait s = .next t ∧
            t.core c = { k2 with run := .waitSync acq } ∧ (∀ n, n ≠ c → t.core n = s2.core n) ∧
            (t.die d).sync.waits = (s2.die d).sync.waits ++ [entry (.core c)] ∧ { t with cores := s2.cores, dies := s2.dies } = s2))) ∧
      (¬ malformed → ¬ remote → mine → op.toNat < 3 → bitAt ord 1 = true → s2.outstanding (.core c) = true →
        ∃ t, exec wait s = .next t ∧ s2.onlyCore t c { k2 with run := .waitSync acq }) ∧
      (¬ malformed → ¬ remote → mine →
        (op.toNat < 3 →
          let s3 := (s.dropWaits (fun w => decide (w = .arm c slot.val))).addWait d (entry (.arm c slot.val))
          s.calm s3 c → ∃ t, exec arm s = .next t ∧ s3.completes t c (s3.core c)) ∧
        ∃ t, exec rd_ s = .next t ∧ s.writesReg t c rd (s.objVal d o)) ∧
      (let s3 := s.dropWaits (fun w => decide (w = .arm c slot.val))
       ∃ t, exec (.syncDisarm h slot) s = .next t ∧ s3.completes t c k)) ∧
    (∀ (o : ObjId) (op : BitVec 3) (v : Word),
      let d := o.die.val
      let i := o.obj.toNat
      let old := s.objVal d i
      (3 ≤ op.toNat → s.gives (.signalApply o op v) s) ∧
      (op.toNat < 3 → (∀ q ∈ s.queues, (s.queue q).stepOpen = false) → s.credited d i = [] →
        let new : Word := if op = 0 then v else if op = 1 then old + v else if old.toNat ≤ v.toNat then v else old
        let done := fun (t : State) (new : Word) => t.objVal d i = new ∧ (∀ n, n ≠ i → t.objVal d n = s.objVal d n) ∧
          (t.die d).sync.waits = (s.die d).sync.waits.filter (fun w => !(decide (w.obj = i) && condHolds w.cond new w.val)) ∧
          (t.die d).sync.signals = satAdd (s.die d).sync.signals 1 ∧ t.mem = s.mem
        (∃ t, exec (.signalApply o op v) s = .next t ∧ done t new) ∧ ∃ t, exec (.synValWrite o v) s = .next t ∧ done t v))

/-! ## Streams and the Tannery (R262 to R283, R338) -/

/-- R263 to R266, R279 to R281, Table 14.5: STREAM BIND and RUN take their first failing check or bind the context (a RUN of N = 0
completes at once); UNBIND waits until the context is quiet, and each of the three makes the context read its program again;
an idle context whose doorbell is ahead takes its next descriptor and runs its program from the first instruction; a run
that has ended and whose effects are performed, its detached receivers served (R278), advances the head object and completes
the RUN that waited for it; OFFLOAD and PREFETCH take their first failing check or queue a transfer, which moves at most
4 KiB at a time, and ends where its partition no longer holds a granule of the chunk (R26). What a fault of the ring read
reports, and that RUN_COMPLETE serves detached receivers, are the model's choice (log 69). -/
def Obligations.StreamsAndTransfersRun : Prop :=
  ∀ (s : State),
    (∀ (r : PktRef) (p : Pkt), s.turn r 0x02 p →
      let q := r.queue
      let p1 := p.begins s
      let w := p.word 0
      let v := p.word 2
      let cl := 8 * field w 38 1 + field w 35 3
      let n := field w 39 5
      let s0 := s.begun q p
      let s1 := s0.setCtx cl n { s0.ctx cl n with lastProg := none }
      let rlog := field v 32 5
      let held := fun (o : Nat) => s.syncOwner (cl / 8) o = p.part
      let foreign := s.owner cl ≠ p.part ∨ asidOk p.part (field w 48 16) = false
      let bound := (s.ctx cl n).st ≠ .unbound ∧ (s.ctx cl n).st ≠ .faulted
      let badRing := s1.rangeBad p.part (p.word 1) (32 * 2 ^ rlog) true false = some stBAD_PARAM
      let checks := fun (i : Instr) =>
        (foreign → s.ends i q p s1 stNO_PERM 0) ∧
        (¬ foreign → bound → s.ends i q p s1 stBAD_PARAM 0) ∧
        (¬ foreign → ¬ bound → (rlog < 4 ∨ 16 < rlog) → s.ends i q p s1 stBAD_PARAM 2) ∧
        (¬ foreign → ¬ bound → 4 ≤ rlog → rlog ≤ 16 → badRing → s.ends i q p s1 stBAD_PARAM 1) ∧
        (¬ foreign → ¬ bound → 4 ≤ rlog → rlog ≤ 16 → ¬ badRing → ¬ (held (field v 52 12) ∧ held (field v 40 12)) →
          s.ends i q p s1 stNO_PERM 2)
      let good := ¬ foreign ∧ ¬ bound ∧ 4 ≤ rlog ∧ rlog ≤ 16 ∧ ¬ badRing ∧ held (field v 52 12) ∧ held (field v 40 12)
      (field w 33 2 = 0 → checks (.streamBind r) ∧ (good → s.ends (.streamBind r) q p (s1.bindCtx p1 none 0) stOK 0)) ∧
      (field w 33 2 = 1 → checks (.streamRun r) ∧
        (good → field v 0 32 ≠ 0 → s.gives (.streamRun r) (s1.bindCtx p1 (some (q, p.pos)) (field v 0 32))) ∧
        (good → field v 0 32 = 0 →
          let s2 := s1.bindCtx p1 (some (q, p.pos)) 0
          s.ends (.streamRun r) q p (s2.setCtx cl n { s2.ctx cl n with pkt := none }) stOK 0)) ∧
      (field w 33 2 = 2 →
        let quiet := (s.ctx cl n).st = .faulted ∨ s1.ctxQuiet cl n = true
        (s.owner cl ≠ p.part → s.ends (.streamUnbind r) q p s1 stNO_PERM 0) ∧
        (s.owner cl = p.part → quiet → s.ends (.streamUnbind r) q p (s1.unbindCtx cl n) stOK 0) ∧
        (s.owner cl = p.part → ¬ quiet → s.gives (.streamUnbind r) s1))) ∧
    (∀ (x : CtxId),
      let cl := x.cluster.val
      let n := x.ctx.val
      let c := s.ctx cl n
      let bell := (s.objVal (cl / 8) (field c.ctl 31 12)).toNat
      (c.st ≠ .idle ∨ bell ≤ c.pos → s.gives (.descriptorRun x) s) ∧
      (c.st = .idle → c.pos < bell →
        (∀ s2 f, s.descriptor cl n c.pos = (s2, .error f) → s.gives (.descriptorRun x)
          ((s2.setCtx cl n { s2.ctx cl n with tag := 0, pc := 0, intr := false }).ctxFault cl n f)) ∧
        (∀ s2 d, s.descriptor cl n c.pos = (s2, .ok d) → c.pos % 16 ≠ 15 →
          let s3 := s2.setCtx cl n { s2.ctx cl n with tag := BitVec.ofNat 16 (field d 48 16), intr := bitAt d 13, pc := 0 }
          let prog : Word := BitVec.ofNat 64 (field d 64 64)
          let len := field d 6 6 + 1
          (badDesc d = true → s.gives (.descriptorRun x) (s3.ctxFault cl n ⟨3, 0, 0⟩)) ∧
          (badDesc d = false → field d 128 64 = 0 → (s2.ctx cl n).lastProg ≠ some (prog, len) →
            (∀ s4 f, s3.ctxRead cl n prog (8 * len) = (s4, .fault f) → s.gives (.descriptorRun x) (s4.ctxFault cl n f)) ∧
            (∀ s4 b, s3.ctxRead cl n prog (8 * len) = (s4, .got b) → ∃ t, exec (.descriptorRun x) s = .next t ∧
              let y := t.ctx cl n
              y.st = .running ∧ y.ended = false ∧ y.depth = 0 ∧ y.progLen = len ∧
              y.reg 7 = BitVec.ofNat 64 (field d 192 64) ∧ (∀ i, i < 7 → y.reg i = 0) ∧
              ∀ i, i < len → tget 0 y.prog i = wordAt b i)))) ∧
      let s0 := s.unicasts cl n
      let c := s0.ctx cl n
      (c.st ≠ .running ∨ c.ended = false ∨ s0.ctxDone cl n = false → s.gives (.runComplete x) s0) ∧
      (c.st = .running → c.ended = true → s0.ctxDone cl n = true →
        let dropped := (s0.stitcher cl).runs.any (fun m => decide (m.ctx = n) && !m.left && m.recvs.any (·.dropped))
        let s2 := ((((s0.setCtx cl n { c with st := .idle, pos := c.pos + 1 }).endRuns cl n).signal (cl / 8) (field c.ctl 19 12) 0
          (BitVec.ofNat 64 (c.pos + 1))).ctxIrq cl n)
        (dropped = true → s.gives (.runComplete x) (s0.ctxFault cl n ⟨9, 0, 0⟩)) ∧
        (dropped = false → c.pkt = none → s.gives (.runComplete x) s2) ∧
        (dropped = false → ∀ q pos y, c.pkt = some (q, pos) →
          (s2.queue q).pkts.find? (fun p => decide (p.pos = pos)) = some y →
          (field (y.word 2) 0 32 ≤ c.pos + 1 →
            s.gives (.runComplete x) ((s2.setCtx cl n { s2.ctx cl n with pkt := none }).finish q y stOK 0)) ∧
          (c.pos + 1 < field (y.word 2) 0 32 → s.gives (.runComplete x) s2)))) ∧
    (∀ (r : PktRef) (p : Pkt),
      let q := r.queue
      let d := q.die.val
      let s1 := s.begun q p
      let n := (p.word 2).toNat
      let row := fun (i : Instr) (pref : Bool) =>
        let okAlign := n ≠ 0 ∧ (p.word 0).toNat % 32 = 0 ∧ (p.word 1).toNat % 32 = 0 ∧ n % 32 = 0
        let from_ := s1.rangeBad p.part (p.word 0) n (!pref) pref
        let to_ := s1.rangeBad p.part (p.word 1) n pref (!pref)
        (n = 0 → s.ends i q p s1 stOK 0) ∧
        (n ≠ 0 → (p.word 0).toNat % 32 ≠ 0 → s.ends i q p s1 stBAD_PARAM 0) ∧
        (n ≠ 0 → (p.word 0).toNat % 32 = 0 → (p.word 1).toNat % 32 ≠ 0 → s.ends i q p s1 stBAD_PARAM 1) ∧
        (n ≠ 0 → (p.word 0).toNat % 32 = 0 → (p.word 1).toNat % 32 = 0 → n % 32 ≠ 0 → s.ends i q p s1 stBAD_PARAM 2) ∧
        (okAlign → ∀ st, from_ = some st → s.ends i q p s1 st 0) ∧
        (okAlign → from_ = none → ∀ st, to_ = some st → s.ends i q p s1 st 1) ∧
        (okAlign → from_ = none → to_ = none → s.gives i (s1.setMoves d ((s.die d).tny.moves ++
          [{ q := q, pos := p.pos, part := p.part, pref := pref, src := p.word 0, dst := p.word 1, len := n }])))
      (s.turn r 0x14 p → row (.offload r) false) ∧ (s.turn r 0x15 p → row (.prefetch r) true)) ∧
    (∀ (die : DieId),
      let d := die.val
      let size := fun (t : Transfer) => min 4096 (t.len - t.next)
      let may := fun (t : Transfer) => s.tokens d t.part (size t) (!t.pref)
      ((∀ t ∈ (s.die d).tny.moves.take 16, may t = none) → s.gives (.tanneryTransfer die) s) ∧
      (∀ l1 t l2 u, (s.die d).tny.moves.take 16 = l1 ++ t :: l2 → (∀ x ∈ l1, may x = none) → may t = some u →
        (∀ i, s.chunkBad t (size t) = some i → s.gives (.tanneryTransfer die) (s.moveEnd d t stNO_PERM (BitVec.ofNat 64 i))) ∧
        (s.chunkBad t (size t) = none →
          (t.pref = true → s.gives (.tanneryTransfer die) (s.preChunk d t (size t))) ∧
          (t.pref = false → s.gives (.tanneryTransfer die) (u.offChunk d t (size t))))))

/-- R267 to R270, R272, R273, R282, R257, Tables 12.2 and 12.3: an instruction of no assigned opcode, or with a nonzero reserved field,
faults its context with REASON 1; NOP goes on, END ends the run, LOOP pushes a level (a zero count skips the body, a level out
of order is REASON 2), SETA, PAT, STRD and IND set what they name; COPY and EMIT move what they have read, PREF asks L2 for
its lines, WAIT holds until its condition, SIG signals once everything issued before has been performed. The reason of a WRAP or
STRIDE that is no multiple of 32, EMIT's SUB 1, and that PREF of a remote or host address asks for nothing, are the model's
choice (log 46). -/
def Obligations.ChroupInstructionsRun : Prop :=
  ∀ (s : State) (x : CtxId),
    let cl := x.cluster.val
    let n := x.ctx.val
    let c := s.ctx cl n
    let w := tget 0 c.prog c.pc
    let op := field w 58 6
    let next := fun (s : State) (c : SCtx) => s.ctxNext cl n c
    let here := fun (s : State) => next s (s.ctx cl n)
    let sz := 32 * (field w 46 8 + 1)
    c.st = .running → c.ended = false →
    let row := fun (i : Instr) (o : Nat) (fields : Word) =>
      (op ∉ [0, 1, 2, 3, 4, 5, 6, 0x10, 0x11, 0x12, 0x13, 0x14, 0x18, 0x19] → s.gives i (s.ctxFault cl n ⟨1, 0, 0⟩)) ∧
      (op ∈ [0, 1, 2, 3, 4, 5, 6, 0x10, 0x11, 0x12, 0x13, 0x14, 0x18, 0x19] → op ≠ o → s.gives i s) ∧
      (op = o → w &&& ~~~fields ≠ 0 → s.gives i (s.ctxFault cl n ⟨1, 0, 0⟩))
    let runs := fun (o : Nat) (fields : Word) => op = o ∧ w &&& ~~~fields = 0
    (row (.chroupNop x) 0 0xFC00000000000000 ∧ (runs 0 0xFC00000000000000 → s.gives (.chroupNop x) (next s c) ∧
      (c.depth = 0 → c.pc + 1 < c.progLen → ∃ t, exec (.chroupNop x) s = .next t ∧ t.ctx cl n = { c with pc := c.pc + 1, addrs := [] }) ∧
      (c.depth = 0 → c.progLen ≤ c.pc + 1 →
        ∃ t, exec (.chroupNop x) s = .next t ∧ t.ctx cl n = { c with ended := true, addrs := [] }) ∧
      (∀ l, c.depth = l + 1 →
        let v := tget {} c.loops l
        (c.pc ≠ v.stop → c.pc + 1 < c.progLen →
          ∃ t, exec (.chroupNop x) s = .next t ∧ t.ctx cl n = { c with pc := c.pc + 1, addrs := [] }) ∧
        (c.pc = v.stop → v.idx + 1 < v.count → v.start < c.progLen → ∃ t, exec (.chroupNop x) s = .next t ∧
          t.ctx cl n = { c with loops := tset {} c.loops l { v with idx := v.idx + 1 }, pc := v.start, addrs := [] })))) ∧
    (row (.chEnd x) 1 0xFC00000000000000 ∧
      (runs 1 0xFC00000000000000 → s.gives (.chEnd x) (s.setCtx cl n { c with ended := true }))) ∧
    (row (.chroupLoop x) 2 0xFFFF1E00FFFFFFFF ∧ (runs 2 0xFFFF1E00FFFFFFFF →
      let lvl := field w 55 3
      let len := field w 48 7
      let count := if bitAt w 44 then field (c.reg (field w 41 3)) 0 32 else field w 0 32
      let sound := lvl = c.depth ∧ c.pc + len < c.progLen ∧ (c.depth = 0 ∨ c.pc + len ≤ (tget {} c.loops (c.depth - 1)).stop)
      (5 < lvl ∨ len = 0 ∨ 63 < len → s.gives (.chroupLoop x) (s.ctxFault cl n ⟨1, 0, 0⟩)) ∧
      (lvl ≤ 5 → 1 ≤ len → len ≤ 63 → ¬ sound → s.gives (.chroupLoop x) (s.ctxFault cl n ⟨2, 0, 0⟩)) ∧
      (lvl ≤ 5 → 1 ≤ len → len ≤ 63 → sound → count = 0 →
        s.gives (.chroupLoop x) (s.setCtx cl n (c.after (c.pc + len)))) ∧
      (lvl ≤ 5 → 1 ≤ len → len ≤ 63 → sound → count ≠ 0 → s.gives (.chroupLoop x) (s.setCtx cl n { c with
        loops := tset {} c.loops lvl { idx := 0, count := count, start := c.pc + 1, stop := c.pc + len },
        depth := c.depth + 1, pc := c.pc + 1 })))) ∧
    (row (.seta x) 3 0xFFFCFFFFFFFFFFFF ∧ (runs 3 0xFFFCFFFFFFFFFFFF →
      let imm : Word := (BitVec.ofNat 48 (field w 0 48)).signExtend 64
      let a := c.reg (field w 52 3) + imm
      let put := fun (s : State) (v : Word) => next s { s.ctx cl n with a := tset 0 (s.ctx cl n).a (field w 55 3) v }
      (field w 50 2 = 0 → s.gives (.seta x) (put s a)) ∧ (field w 50 2 = 2 → s.gives (.seta x) (put s imm)) ∧
      (field w 50 2 = 1 → a.toNat % 8 ≠ 0 → s.gives (.seta x) (s.ctxFault cl n ⟨6, 0, a⟩)) ∧
      (field w 50 2 = 1 → a.toNat % 8 = 0 → ∀ s2 b, s.ctxRead cl n a 8 = (s2, .got b) →
        s.gives (.seta x) (put s2 (wordAt b 0))) ∧
      (field w 50 2 = 3 → s.gives (.seta x) (s.ctxFault cl n ⟨1, 0, 0⟩)))) ∧
    (row (.pat x) 4 0xFFE000FFFFFFFFFF ∧ (runs 4 0xFFE000FFFFFFFFFF →
      (field w 0 40 % 32 ≠ 0 → s.gives (.pat x) (s.ctxFault cl n ⟨1, 0, 0⟩)) ∧
      (field w 0 40 % 32 = 0 → s.gives (.pat x) (next s { c with
        pats := tset {} c.pats (field w 56 2) { base := field w 53 3, wrap := field w 0 40 } })))) ∧
    (row (.strd x) 5 0xFFE000FFFFFFFFFF ∧ (runs 5 0xFFE000FFFFFFFFFF →
      let t := tget ({} : Pat) c.pats (field w 56 2)
      let t' : Pat := { t with stride := tset 0 t.stride (field w 53 3) (BitVec.ofNat 40 (field w 0 40)) }
      (field w 0 40 % 32 ≠ 0 ∨ 5 < field w 53 3 → s.gives (.strd x) (s.ctxFault cl n ⟨1, 0, 0⟩)) ∧
      (field w 0 40 % 32 = 0 → field w 53 3 ≤ 5 →
        s.gives (.strd x) (next s { c with pats := tset {} c.pats (field w 56 2) t' })))) ∧
    (row (.ind x) 6 0xFFFF800000000000 ∧ (runs 6 0xFFFF800000000000 →
      let t := tget ({} : Pat) c.pats (field w 56 2)
      let t' : Pat := { t with ind := bitAt w 47, ibase := field w 53 3, iw64 := bitAt w 52, ish := field w 48 4 }
      s.gives (.ind x) (next s { c with pats := tset {} c.pats (field w 56 2) t' }))) ∧
    (row (.chroupCopy x) 0x10 0xFFFFC00000000000 ∧ (runs 0x10 0xFFFFC00000000000 →
      ∀ s1 src s2 dst s3 l s4 m s5, s.moveAddr cl n 0 (field w 56 2) = (s1, .got src) →
        s1.moveAddr cl n 1 (field w 54 2) = (s2, .got dst) → s2.ctxResolve cl n .load src sz = (s3, .ok l) →
        s3.ctxResolve cl n .store dst sz = (s4, .ok m) → s4.piecesBlocked cl n m = (s5, none) →
        ∀ s6 b, s5.piecesRead cl n l = (s6, .got b) →
          s.gives (.chroupCopy x) (here ((s6.piecesWrite cl n m b).stcBytes cl sz)))) ∧
    (row (.emit x) 0x11 0xFFFFF80000000000 ∧ (runs 0x11 0xFFFFF80000000000 →
      let core := 8 * cl + field w 43 3
      ∀ s1 src s2 off, s.moveAddr cl n 0 (field w 56 2) = (s1, .got src) → s1.moveAddr cl n 1 (field w 54 2) = (s2, .got off) →
        (lbSize (s2.core core) < off.toNat + sz → s.gives (.emit x) (s2.ctxFault cl n ⟨5, 1, off⟩)) ∧
        (off.toNat + sz ≤ lbSize (s2.core core) → ∀ s3 b, s2.ctxRead cl n src sz = (s3, .got b) →
          s.gives (.emit x) (here ((s3.landPut core off.toNat b).stcBytes cl sz))))) ∧
    (row (.pref x) 0x14 0xFF3FC00000000000 ∧ (runs 0x14 0xFF3FC00000000000 →
      ∀ s1 src s2 l, s.moveAddr cl n 0 (field w 56 2) = (s1, .got src) → s1.ctxResolve cl n .load src sz = (s2, .ok l) →
        s.gives (.pref x) (here (l.foldl (fun s p => match p.loc with
          | .dram _ pa => (pieces (p.len / 128 + 2) pa p.len).foldl (fun s e => s.prefLine cl e.1) s
          | _ => s) s2)))) ∧
    (let name := c.reg (field w 55 3)
     let v : Word := if bitAt w 51 then c.reg (field w 48 3) else BitVec.ofNat 64 (field w 0 32)
     let d := field name 12 1
     let o := field name 0 12
     let k := field w 52 3
     (row (.chroupWait x) 0x18 0xFFFF0000FFFFFFFF ∧ (runs 0x18 0xFFFF0000FFFFFFFF →
       (2 < k → s.gives (.chroupWait x) (s.ctxFault cl n ⟨1, 0, 0⟩)) ∧
       (k ≤ 2 → s.nameFault (s.owner cl) true name ≠ none → s.gives (.chroupWait x) (s.ctxFault cl n ⟨7, 0, 0⟩)) ∧
       (k ≤ 2 → s.nameFault (s.owner cl) true name = none → s.gives (.chroupWait x)
         ((s.setCtx cl n { c with st := .held }).addWait d { who := .ctx cl n, obj := o, cond := k, val := v })))) ∧
     (row (.chroupSig x) 0x19 0xFFFF0000FFFFFFFF ∧ (runs 0x19 0xFFFF0000FFFFFFFF →
       (2 < k → s.gives (.chroupSig x) (s.ctxFault cl n ⟨1, 0, 0⟩)) ∧
       (k ≤ 2 → s.nameFault (s.owner cl) false name ≠ none → s.gives (.chroupSig x) (s.ctxFault cl n ⟨7, 0, 0⟩)) ∧
       (k ≤ 2 → s.nameFault (s.owner cl) false name = none → s.ctxDone cl n = false → s.gives (.chroupSig x) s) ∧
       (k ≤ 2 → s.nameFault (s.owner cl) false name = none → s.ctxDone cl n = true →
         let dev := field name 48 14
         let s1 := next s c
         (s.pairRemote name = false → s.gives (.chroupSig x) (s1.signal d o k v)) ∧
         (s.pairRemote name = true → s1.noRoute dev = false →
           s.gives (.chroupSig x) (s1.signalRemote (.ctx cl n) (s1.owner cl) dev k d o v)) ∧
         (s.pairRemote name = true → s1.noRoute dev = true →
           s.gives (.chroupSig x) (s1.rnak (cl / 8) (s1.owner cl) dev 6 0))))))

/-- R271, R275 to R278: MCAST without a window of its own takes one (or holds while all four are taken), and with one holds while
the slack window is full or fetches its buffer and delivers it as credit allows; the detached receivers having been served, a
context held for DETACH µs detaches the receivers that lack the oldest buffer; RED issues the contributions of its lines, and
one that received RETRY is sent again, a remote one that is due first, also while its context holds, and then the local one
of a running context. SUB 1 of a buffer beyond the landing buffer and how RED goes on after a RETRY (log 46), and the service of detached
receivers (log 69), are the model's choice. -/
def Obligations.MulticastAndReductionStreams : Prop :=
  ∀ (s : State) (x : CtxId),
    let cl := x.cluster.val
    let n := x.ctx.val
    let c := s.ctx cl n
    let w := tget 0 c.prog c.pc
    let op := field w 58 6
    let sz := 32 * (field w 46 8 + 1)
    let k := s.stitcher cl
    let mine := k.runs.find? (fun m => decide (m.ctx = n) && decide (m.pc = c.pc) && !m.left)
    let s0 := s.unicasts cl n
    let c0 := s0.ctx cl n
    let held := (s0.stitcher cl).runs.find? (fun m => decide (m.ctx = n) && decide (m.pc = c0.pc) && !m.left)
    let due := fun (e : Nat × Option FReq) => match e.2 with
      | some r => decide (r.who = .ctx cl n) && (match r.kind with | .red _ d => d | _ => false)
      | none => false
    (c.st = .running → c.ended = false → op = 0x12 → w &&& ~~~0xFFFFFF0000000000#64 = 0 →
      (mine = none → 4 ≤ k.runs.length → s.gives (.mcast x) (s.setCtx cl n { c with st := .held })) ∧
      (mine = none → k.runs.length < 4 → ∀ s1 g, s.readGroup cl n (c.reg (field w 43 3)) = (s1, .got g) →
        let k1 := s1.stitcher cl
        let m : McRun := { id := (k1.runs.map (·.id)).foldl max 0 + 1, ctx := n, pc := c.pc, detach := g.1, recvs := g.2 }
        let s2 := s1.setStitcher cl { k1 with runs := k1.runs ++ [m] }
        s.gives (.mcast x) ((s2.setCtx cl n { s2.ctx cl n with st := .running }).mcExec cl n w m)) ∧
      (∀ m, mine = some m → m.room = false →
        s.gives (.mcast x) ((s.setRun cl { m with since := m.since <|> some s.now }).setCtx cl n { c with st := .held })) ∧
      (∀ m, mine = some m → m.room = true → ∀ s1 src s2 off, s.moveAddr cl n 0 (field w 56 2) = (s1, .got src) →
        s1.moveAddr cl n 1 (field w 54 2) = (s2, .got off) →
        let short := m.recvs.any (fun r => !s2.recvRemote r && decide (lbSize (s2.core r.core) < off.toNat + sz))
        (short = true → s.gives (.mcast x) (s2.ctxFault cl n ⟨5, 1, off⟩)) ∧
        (short = false → ∀ s3 b, s2.ctxRead cl n src sz = (s3, .got b) →
          let buf : McBuf :=
            { idx := m.next, seqNo := (c.reg (field w 40 3)).toNat, off := off.toNat, src := src, len := sz, data := b }
          let s4 := s3.stcBytes cl sz
          let r := (s4.ctxNext cl n { s4.ctx cl n with st := .running }).mcPump cl { m with next := m.next + 1, bufs := m.bufs ++ [buf], since := none }
          s.gives (.mcast x) (runJobs jobFuel r.2 r.1)))) ∧
    (∀ m since, held = some m → m.since = some since → c0.st = .held → 25 * m.detach ≤ s0.now - since →
      ∃ t, exec (.mcastDetach x) s = .next t ∧ (t.ctx cl n).st = .running ∧
        ∀ y ∈ (t.stitcher cl).runs, y.id = m.id → y.since = none ∧
          ∀ r ∈ y.recvs, r.dropped = false → r.got ≤ m.next - 8 → r.detached = true) ∧
    ((∀ m since, held = some m → m.since = some since → c0.st ≠ .held ∨ s0.now - since < 25 * m.detach) →
      s.gives (.mcastDetach x) s0) ∧
    (c.st = .running → c.ended = false → c.red = [] → op = 0x13 → w &&& ~~~0xFFFFFFFF80000000#64 = 0 →
      ∀ s1 src s2 dst s3 l s4 m s5 b, s.moveAddr cl n 0 (field w 56 2) = (s1, .got src) →
        s1.moveAddr cl n 1 (field w 54 2) = (s2, .got dst) → s2.ctxResolve cl n .load src sz = (s3, .ok l) →
        s3.ctxResolve cl n .store dst sz = (s4, .ok m) → s4.piecesRead cl n l = (s5, .got b) →
        s.gives (.red x) (State.redGo cl n (redLines (s5.ownerId cl) w (BitVec.ofNat 32 (field (c.reg (field w 31 3)) 0 32)) m b)
          (s5.stcBytes cl sz))) ∧
    (∀ (y : Contribution) (l : List (Option Nat × Contribution)), s.fab.reqs.find? due = none → c.st = .running →
      c.red = (none, y) :: l →
      ∀ s2, s.contribute y = (s2, .retry) →
        let s3 := s2.redRetried cl
        let z := s3.ctx cl n
        (s3.retryLim cl ≤ z.retries + 1 → s.gives (.redRetry x) (s3.ctxFault cl n ⟨8, 0, 0⟩)) ∧
        (z.retries + 1 < s3.retryLim cl → s.gives (.redRetry x)
          (s3.setCtx cl n { z with red := (none, y) :: l, retries := z.retries + 1 }))) ∧
    (let goes := fun (s1 : State) =>
       let c1 := s1.ctx cl n
       if c1.st = .running ∧ c1.red ≠ [] then State.redGo cl n c1.red s1 else s1
     (s.fab.reqs.find? due = none → s.gives (.redRetry x) (goes s)) ∧
     (∀ t r i, s.fab.reqs.find? due = some (t, some r) → r.kind = .red i true →
        (s.noRoute r.frame.dst = true → s.gives (.redRetry x) (goes ((s.dropReq t).redRefused cl))) ∧
        (s.noRoute r.frame.dst = false → s.gives (.redRetry x)
          (goes ((s.addReq t { r with kind := .red i false, sent := s.now }).send r.frame)))))

/-! ## Steps and queues (R285 to R289, R302 to R313) -/

/-- R286 to R289, R34, Tables 9.10 and 14.5: STEP_BEGIN takes its first failing check, STEP_SKEW where the number does not follow the
queue's (its signals are not performed and the queue stops), or opens the step with its number, poison object and list; it
opens poisoned where the object already holds the number. STEP_END does not begin before the earlier packets have completed
and every poisoning SIGNAL is acknowledged; it closes the census slots of the queue and then the step, and its status tells of that
step: OK_POISONED, OK_REPLAYED or OK.
R302 to R313, R195, Tables 14.1 and 14.4: a write of HRN_QTAIL or HRN_QRDONE sets the register of a queue that exists and takes
its doorbells from registers, and else nothing; HRN_QRESUME restarts a stopped queue at a position between its head and its
doorbell; the queue reads the packet at its next position once no earlier one waits, stops on a wrong SEQ, and writes its
oldest reply while the ring has room, advancing RTAIL; it reads and writes no slot in a granule that its partition does not
hold (R26). That a read waits while an earlier packet waits to begin (log 14), what a slot in a granule no longer held does
(log 47), and which slots STEP_END closes and what it may begin after (log 49), are the model's choice. -/
def Obligations.StepsAndQueues : Prop :=
  (∀ (s : State) (r : PktRef) (p : Pkt),
     let q := r.queue
     let u := s.queue q
     let s1 := s.begun q p
     let p1 := p.begins s
     let n := p.word 0
     let a := p.word 1
     let w := p.word 2
     let len := field w 16 7
     let die := field w 12 1
     let obj := field w 0 12
     let skewed := fun (i : Instr) =>
       let s2 := s1.setQueue q { s1.queue q with stop := true, cause := 1 }
       s.gives i ((s2.log 0x37 q.part.val q.die.val false
         [BitVec.ofNat 64 (q.part.val * 64 + q.q.val), BitVec.ofNat 64 p.op, n, u.stepCtr]).finishMute q p1 stSKEW u.stepCtr)
     (s.turn r 0x10 p →
       let i := Instr.stepBegin r
       let shape := n ≠ 0 ∧ len ≤ 64
       let place := s.syncOwner die obj = p.part
       let range := s1.rangeBad p.part a (8 * len) true true
       (u.stepOpen = true → s.ends i q p s1 stBAD_PARAM 0xE) ∧
       (u.stepOpen = false → n = 0 → s.ends i q p s1 stBAD_PARAM 0) ∧
       (u.stepOpen = false → n ≠ 0 → 64 < len → s.ends i q p s1 stBAD_PARAM 2) ∧
       (u.stepOpen = false → shape → a.toNat % 8 ≠ 0 → s.ends i q p s1 stBAD_PARAM 1) ∧
       (u.stepOpen = false → shape → a.toNat % 8 = 0 → ¬ place → s.ends i q p s1 stBAD_PARAM 2) ∧
       (u.stepOpen = false → shape → a.toNat % 8 = 0 → place →
         (range = some stBAD_PARAM → s.ends i q p s1 stBAD_PARAM 1) ∧
         (range ≠ some stBAD_PARAM → s1.rangeBad p.part a (8 * len) true false ≠ none → s.ends i q p s1 stNO_PERM 1) ∧
         (range ≠ some stBAD_PARAM → s1.rangeBad p.part a (8 * len) true false = none →
           (bitAt w 24 = true → u.stepCtr ≠ 0 → s.ends i q p s1 stBAD_PARAM 2) ∧
           (bitAt w 24 = false → n.toNat ≠ u.stepCtr.toNat + 1 → skewed i) ∧
           ((bitAt w 24 = true ∧ u.stepCtr = 0) ∨ (bitAt w 24 = false ∧ n.toNat = u.stepCtr.toNat + 1) →
             ∀ s2 b, s1.blkRead q p.pos p.part a.toNat (8 * len) = (s2, .bytes b) →
               let list := (chunks 8 (len + 1) b).map (fun e => BitVec.ofNat 64 (ofBytes e))
               (s2.objVal die obj ≠ n → s.ends i q p (s2.setQueue q { s2.queue q with
                 stepCtr := n, stepOpen := true, stepPart := p.part, pobj := BitVec.ofNat 13 (field w 0 13), plen := len, plist := list,
                 poisoned := false, replayed := false, undeliv := 0 }) stOK 0) ∧
               (s2.objVal die obj = n → ∃ t, exec i s = .next t ∧ (t.queue q).poisoned = true))))) ∧
     (s.turn r 0x11 p →
       let i := Instr.stepEnd r
       (u.stepOpen = false → s.ends i q p s1 stBAD_PARAM 0xE) ∧
       (u.stepOpen = true → n ≠ u.stepCtr → skewed i) ∧
       (u.stepOpen = true → n = u.stepCtr →
         let s2 := (s1.allEnrolled q).foldl (fun s e => s.censusClose e.1 e.2 n) s1
         let u2 := s2.queue q
         let s3 := s2.setQueue q { u2 with stepOpen := false, poisoned := false }
         (u2.poisoned = true → s.gives i (s3.finish q p1 stPOISONED (BitVec.ofNat 64 u2.undeliv))) ∧
         (u2.poisoned = false → s.gives i (s3.finish q p1 (if u2.replayed then stREPLAYED else stOK) 0)))) ∧
     ((p ∈ u.pkts ∧ p.pos = r.pos.toNat ∧ p.op = 0x11 ∧ p.st = .waiting) →
       (∀ x ∈ u.pkts, x.asked = true ∧ (x.pos = p.pos → x = p)) → u.stepOpen = true → n = u.stepCtr → u.region = none →
       (s.quietBefore q p.pos = false ∨ u.psnTags ≠ []) → s.gives (.stepEnd r) s)) ∧
  (∀ (s : State) (q : QId) (v : Word),
     let u := s.queue q
     let exists_ := bitAt u.cfg 15
     let byObject := bitAt u.cfg 16
     let bell := if byObject then (s.objVal q.die.val (field u.cfg 40 12)).toNat else u.tail.toNat
     let taken := if byObject then (s.objVal q.die.val (field u.cfg 28 12)).toNat else u.rdone.toNat
     let head := match u.region with
       | some g => g.startPos
       | none => ((u.pkts.find? (fun p => decide (p.st = .waiting))).map (·.pos)).getD u.nextPos
     (exists_ = true → byObject = false → s.gives (.hrnQtailWrite q v) (s.setQueue q { u with tail := v }) ∧
       s.gives (.hrnQrdoneWrite q v) (s.setQueue q { u with rdone := v })) ∧
     (exists_ = false ∨ byObject = true → s.gives (.hrnQtailWrite q v) s ∧ s.gives (.hrnQrdoneWrite q v) s) ∧
     (exists_ = true → u.stop = true → u.killed = false → head ≤ v.toNat → v.toNat ≤ bell → s.gives (.hrnQresumeWrite q v)
       (s.setQueue q { u with stop := false, cause := 0, nextPos := v.toNat,
                              pkts := u.pkts.filter (fun p => decide (p.st = .begun)) })) ∧
     (exists_ = false ∨ u.stop = false ∨ u.killed = true ∨ v.toNat < head ∨ bell < v.toNat → s.gives (.hrnQresumeWrite q v) s) ∧
     (let reads := exists_ = true ∧ u.killed = false ∧ u.stop = false ∧ u.waitRep.length < 16 ∧ (∀ p ∈ u.pkts, p.st = .begun) ∧
        u.nextPos < bell
      let a := u.qbase.toNat + 64 * (u.nextPos % 2 ^ field u.cfg 0 5)
      (¬ reads → s.gives (.packetRead q) (s.pump q)) ∧
      (reads → s.ringHeld q a 64 = false → s.gives (.packetRead q) (s.forget (.ring q))) ∧
      (reads → s.ringHeld q a 64 = true → a < 0x30000000000 → ∀ s2 b, s.ccBytes q.die.val 0 a 64 = (s2, b, none) →
        let word := fun i => BitVec.ofNat 64 (ofBytes ((b.drop (8 * i)).take 8))
        let p : Pkt := { pos := u.nextPos, h0 := word 0, h1 := word 1,
                         w := (List.range (min 6 (2 * field (word 0) 32 8))).map (fun i => word (i + 2)) }
        let s3 := s2.forget (.ring q)
        (field (word 0) 16 16 = u.nextPos % 65536 → s.gives (.packetRead q)
          ((s3.setQueue q { s3.queue q with pkts := (s3.queue q).pkts ++ [p], nextPos := u.nextPos + 1 }).pump q)) ∧
        (field (word 0) 16 16 ≠ u.nextPos % 65536 → s.gives (.packetRead q)
          (s3.stopAt q { p with h0 := putField p.h0 40 8 q.part.val, h1 := 0 } 2 stBAD_PARAM 0xE)))) ∧
     (let size := 2 ^ field u.cfg 8 5
      (u.waitRep = [] → s.gives (.replyWrite q) s) ∧
      (∀ r rest, u.waitRep = r :: rest →
        let held := taken + size ≤ u.rtail ∨ s.outstanding (.pkt q r.pos) = true
        (held → s.gives (.replyWrite q) s) ∧
        let a := u.qrbase.toNat + 32 * (u.rtail % size)
        (¬ held → s.ringHeld q a 32 = false ∨ a < 0x30000000000 →
          let e := u.mapReply r
          let s2 := if s.ringHeld q a 32 = true then s.ccWrite q.die.val 0 a (s.entryBytes q e) else s
          let s3 := s2.setQueue q { s2.queue q with waitRep := rest, rtail := u.rtail + 1 }
          (s.entryBytes q e).length = 32 ∧ s.gives (.replyWrite q) ((s3.replyIrq q e).pump q)))))

/-! ## Packets of the steward (R23 to R29, R222, R298, R319, R320, and chapters 16 to 19) -/

/-- R27, R28, R316, R319, R320, R9: PART_CREATE and PART_DESTROY run one at a time; PART_CREATE completes with the first check that
fails, at the offset of its field, and grants nothing, or makes the partition, which holds every resource that its bitmaps
name and its queues; PART_DESTROY of a partition that does not exist is BAD_PARAM, else it waits for the packets that it has
still to read from host memory, for a task that R256 does not yet let end, and for replies behind signals still to be applied,
then its seven steps run and no resource is left to it; MAP and UNMAP check their list whole, then write every entry and drop the
ASID's translations, and complete with MEM_FAULT where a write failed. NO_PERM at word 1 for MAP's ASID (log 50), the order of
PART_CREATE's checks (log 51) and what PART_DESTROY waits for (log 69) are the model's choice. -/
def Obligations.PartitionsAreMadeAndDestroyed : Prop :=
  ∀ (s : State),
    (∀ (r : PktRef) (p : Pkt), p.work = [] → s.opPkts [0x20, 0x21] = [] →
      let q := r.queue
      let p2 : Pkt := { p.begins s with work := [0x100000001] }
      let s2 := (s.begun q p).setPkt q p2
      let at_ := fun (o : Nat) => BitVec.ofNat 64 (o * 2 ^ 32 + 0xF)
      (s.turn r 0x20 p →
        let a := p.word 0
        let ends := fun (t : State) (st : Byte) (d : Word) => s.gives (.partCreate r) (t.finish q p2 st d)
        let range := s2.rangeBad p.part a 0x9C0 true true
        (∀ st, range = some st → ends s2 st 0) ∧
        (range = none → ∀ s3 b, s2.blkRead q p.pos p.part a.toNat 0x9C0 = (s3, .bytes b) →
          let nq := field (blkWord b 0x30) 0 7
          let all := s3.rangeBad p.part a (0x9C0 + 32 * nq) true true
          (64 < nq → ends s3 stBAD_PARAM (at_ 0x30)) ∧
          (nq ≤ 64 → ∀ st, all = some st → ends s3 st 0) ∧
          (nq ≤ 64 → all = none → ∀ s4 e, s3.blkRead q p.pos p.part (a.toNat + 0x9C0) (32 * nq) = (s4, .bytes e) →
            let k : PartBlk := { bytes := b ++ e }
            (∀ o, s4.partHeadBad k = some o → ends s4 stBAD_PARAM (at_ o)) ∧
            (s4.partHeadBad k = none → ∀ o, s4.partQueueBad k = some o → ends s4 stBAD_PARAM (at_ o)) ∧
            (s4.partHeadBad k = none → s4.partQueueBad k = none →
              (∀ st o, (s4.partGrant k).partRingBad k = some (st, o) → ends s4 st (at_ o)) ∧
              ((s4.partGrant k).partRingBad k = none → ∀ o, s4.partShort k = some o → ends s4 stNO_RES (at_ o)) ∧
              ((s4.partGrant k).partRingBad k = none → s4.partShort k = none → ends (s4.partMake k) stOK 0))))) ∧
      (s.turn r 0x21 p →
        let t := field (p.word 0) 0 5
        let ends := fun (x : State) (st : Byte) (d : Word) => s.gives (.partDestroy r) (x.finish q p2 st d)
        let gone := t = 0 ∨ 16 < t ∨ s.exists_ t = false
        (gone → ends s2 stBAD_PARAM 0) ∧
        (¬ gone → ∀ s0 s1 waits busy, s2.destroy1 t = (s0, waits) → s0.destroy2 t = (s1, busy) →
          (waits = true ∨ busy = true ∨ s1.repliesHeld t = true → s.gives (.partDestroy r) s1) ∧
          (waits = false → busy = false → s1.repliesHeld t = false →
            let s3 := (s1.destroy3 t).dropAgents t
            let s4 := ((List.range 128).filter (fun c => decide (s3.owner (c / 8) = t))).foldl
              (fun s c => s.setCore c (wipeCore (s.core c))) s3
            ends ((s4.destroy5 t).destroy6 t) stOK 0)))) ∧
    (∀ (k : PartBlk), k.target ≠ 0 →
      let g := s.partGrant k
      let t := k.target
      (∀ c, c < 16 → g.owner c = if k.cluster c = true then t else s.owner c) ∧
      (∀ n, n < 3072 → tget 0 g.own.gran n = if k.bit 0x40 n = true then t else tget 0 s.own.gran n) ∧
      (∀ n, n < 16384 → tget 0 g.own.hgran n = if k.bit 0x1C0 n = true then t else tget 0 s.own.hgran n) ∧
      (∀ n, n < 128 → tget 0 g.own.sync n = if k.bit 0x10 n = true then t else tget 0 s.own.sync n) ∧
      (∀ n, n < 128 → tget 0 g.own.census n = if k.bit 0x20 n = true then t else tget 0 s.own.census n)) ∧
    (∀ t, t ≠ 0 →
      let x := s.destroy6 t
      x.exists_ t = false ∧ (∀ c, c < 16 → x.owner c ≠ t) ∧ (∀ n, tget 0 x.own.gran n ≠ t) ∧ (∀ n, tget 0 x.own.hgran n ≠ t) ∧
        (∀ n, tget 0 x.own.sync n ≠ t) ∧ ∀ n, tget 0 x.own.census n ≠ t) ∧
    (∀ (r : PktRef) (p : Pkt),
      let q := r.queue
      let s1 := s.begun q p
      let n := field (p.word 1) 32 13
      let asid := field (p.word 1) 0 16
      let row := fun (i : Instr) (size : Nat) =>
        let range := s1.rangeBad p.part (p.word 0) (size * n) true true
        (n = 0 → s.ends i q p s1 stOK 0) ∧
        (4096 < n → s.ends i q p s1 stBAD_LENGTH 1) ∧
        (n ≠ 0 → n ≤ 4096 → asid / 2048 ≠ p.part → s.ends i q p s1 stNO_PERM 1) ∧
        (n ≠ 0 → n ≤ 4096 → asid / 2048 = p.part →
          (∀ st, range = some st → s.ends i q p s1 st 0) ∧
          (range = none → ∀ s2 b, s1.blkRead q p.pos p.part (p.word 0).toNat (size * n) = (s2, .bytes b) →
            let list := (List.range n).map (fun i => (size * i, blkWord b (size * i), if size = 16 then blkWord b (size * i + 8) else 0))
            let bad := fun (e : Nat × Word × Word) => if e.2.1.toNat % 8 ≠ 0 then some stBAD_PARAM
              else s2.rangeBad p.part e.2.1 8 true true
            (∀ l1 e l2 st, list = l1 ++ e :: l2 → (∀ x ∈ l1, bad x = none) → bad e = some st →
              s.ends i q p s2 st (BitVec.ofNat 64 (e.1 * 2 ^ 32 + 0xF))) ∧
            ((∀ x ∈ list, bad x = none) →
              let put := list.foldl (fun (a : State × Option Nat) e =>
                let (s, f) := a.1.memWr q p.pos p.part e.2.1.toNat (toBytes 8 e.2.2.toNat)
                (s, a.2.merge min f)) (s2, none)
              let s3 := put.1.mapInv p.part asid
              (put.2 = none → s.ends i q p s3 stOK 0) ∧ ∀ a, put.2 = some a → s.ends i q p s3 stMEM (BitVec.ofNat 64 a))))
      (s.turn r 0x22 p → row (.map r) 16) ∧ (s.turn r 0x23 p → row (.unmap r) 8))

/-- R361, R362, R375, R383, R387, R389, R392, R393, R399, R401, R411, Tables 14.5, 16.5 and 19.8: LINK_QUERY, HEALTH, LOG_READ and
CAL_READ write what they report; LINK_CTRL acts on every port that it names and completes when they are UP (DOWN at once), or
with LINK_DOWN after a second; POWER_SET sets the request and the cap and completes at the new point; CAL_WRITE checks the set,
clears its VALID marker and programs the bytes, and in a second step writes the header; FW_UPDATE erases its slot, and in a
second step checks the image and programs it (the two steps are the model's, log 54); ATTEST signs with the next leaf, and holds the
signature back while no leaf is reserved; INJECT arms the block of its target. The layout of the calibration set and of the report's first 8
bytes is the model's choice (log 34). -/
def Obligations.StewardPacketsComplete : Prop :=
  ∀ (s : State) (r : PktRef) (p : Pkt),
    let q := r.queue
    let s1 := s.begun q p
    let p1 := p.begins s
    let a := p.word 0
    let here := a.toNat < 0x30000000000
    let reports := fun (s1 : State) (ends : State → Byte → Word → Prop) (len : Nat) (bytes : List Byte) (d : Word) =>
      (∀ st, s1.rangeBad p.part a len true true = some st → ends s1 st 0) ∧
      (s1.rangeBad p.part a len true true = none → here → bytes ≠ [] → ends (s1.writeMem a.toNat bytes false) stOK d) ∧
      (s1.rangeBad p.part a len true true = none → bytes = [] → ends s1 stOK d)
    let reads := fun (s1 : State) (ends : State → Byte → Word → Prop) (w : Word) (i len : Nat) (go : State → List Byte → Prop) =>
      (∀ st, s1.rangeBad p.part w len true true = some st → ends s1 st (BitVec.ofNat 64 i)) ∧
      (s1.rangeBad p.part w len true true = none → ∀ s2 b, s1.memRd q p.pos p.part w.toNat len = (s2, .bytes b) → go s2 b)
    (s.turn r 0x30 p →
      let ports := (List.range 8).filter (fun n => bitAt (p.word 1) n)
      (ports = [] → s.ends (.linkQuery r) q p s1 stOK 0) ∧
      (ports ≠ [] → reports s1 (s.ends (.linkQuery r) q p) (32 * ports.length)
        (ports.flatMap (fun n => [(s.fport n).pstate.toNat, (s.fport n).crcerr, (s.fport n).nak, (s.fport n).retrain].flatMap
          (toBytes 8))) (BitVec.ofNat 64 (32 * ports.length)))) ∧
    (s.turn r 0x31 p →
      let ports := (List.range 8).filter (fun n => bitAt a n)
      ∀ e ∈ [(Instr.linkCtrlDown r, 0), (.linkCtrlUp r, 1), (.linkCtrlRetrain r, 2), (.linkCtrlHalf r, 3), (.linkCtrlFull r, 4)],
        let s2 := ports.foldl (fun s n => s.linkCtrl e.2 n) s1
        let up := ∀ n ∈ ports, (s2.fport n).st = .up
        (ports = [] → s.ends e.1 q p s1 stOK 0) ∧
        (ports ≠ [] → field a 8 4 = e.2 → (e.2 = 0 ∨ up) → s.ends e.1 q p s2 stOK 0) ∧
        (ports ≠ [] → field a 8 4 = e.2 → e.2 ≠ 0 → ¬ up → s.gives e.1 s2)) ∧
    (p ∈ (s.queue q).pkts → p.pos = r.pos.toNat → p.op = 0x31 → (∀ x ∈ (s.queue q).pkts, x.pos = p.pos → x = p) → p.st = .begun →
      p.work.head? ≠ some commitWork →
      let down := ((List.range 8).filter (fun n => bitAt a n)).filter (fun n => !decide ((s.fport n).st = .up))
      (p.began + 25000000 ≤ s.now → down ≠ [] → s.gives (.linkCtrlTimeout r)
        (s.finish q p stLINK_DOWN (BitVec.ofNat 64 (down.map (fun n => 2 ^ n)).sum))) ∧
      (s.now < p.began + 25000000 ∨ down = [] → s.gives (.linkCtrlTimeout r) s)) ∧
    (s.turn r 0x38 p →
      let cap := field (p.word 1) 0 16
      let bad := cap ≠ 0 ∧ (cap < 1000 ∨ 2800 < cap)
      let s2 : State := { s1 with pwr := { s1.pwr with req := field a 0 2, cap := if cap = 0 then 2800 else cap } }
      (bad → s.ends (.powerSet r) q p s1 stBAD_PARAM 1) ∧
      (¬ bad → s2.pwr.eff = s2.effPoint → s.ends (.powerSet r) q p s2 stOK 0) ∧
      (¬ bad → s2.pwr.eff ≠ s2.effPoint → s.gives (.powerSet r) s2)) ∧
    (s.turn r 0x39 p → s.healthReport p.part ≠ [] ∧
      reports s1 (s.ends (.health r) q p) 65792 (s1.healthReport p.part) 0) ∧
    (s.turn r 0x3A p →
      let n := (p.word 1).toNat
      let l := (s.svc.spill ++ s.svc.pend).filter (fun x => decide ((p.word 2).toNat ≤ x.seqNo) &&
        (decide (p.part = 0) || decide (x.part = p.part)))
      let b := (l.take (n / 64)).flatMap LogRec.bytes
      (n = 0 → s.ends (.logRead r) q p s1 stOK 0) ∧
      (n ≠ 0 → reports s1 (s.ends (.logRead r) q p) n b (BitVec.ofNat 64 b.length))) ∧
    (s.turn r 0x4A p →
      let u := injOwner (field a 0 8) (field a 16 16)
      let b := s1.injBlk u
      let s2 := (s1.setInj u { b with point := a &&& 0xFFFF00FF#64, arg := p.word 1, bad := false }).injGo u
      let s3 := s2.setInj u { s2.injBlk u with bad := (s2.injBlk u).bad || b.bad }
      ((s2.injBlk u).bad = true → s.ends (.inject r) q p s3 stBAD_PARAM 0) ∧
      ((s2.injBlk u).bad = false → s.ends (.inject r) q p s3 stOK 0)) ∧
    (s.turn r 0x48 p → p.work = [] →
      let ends := s.ends (.attest r) q p
      (s.pins.dbgen = true → ends s1 stNO_PERM 0xE) ∧
      (s.pins.dbgen = false → (∀ st, s1.rangeBad p.part a 3860 true true = some st → ends s1 st 0) ∧
        (s1.rangeBad p.part a 3860 true true = none → reads s1 ends (p.word 1) 1 32 (fun s2 b =>
          let leaf := s2.sec.next
          let m := s2.report p.part leaf b
          (2 ^ 40 ≤ leaf → ends s2 stBUDGET 0) ∧
          (leaf < 2 ^ 40 → s2.sec.tree < leaf / 2 ^ 20 → s.gives (.attest r) s2) ∧
          let m' := m ++ hssSign leaf m
          let s3 : State := { s2 with sec := { s2.sec with next := leaf + 1 } }
          let may := leaf < 2 ^ 40 ∧ leaf / 2 ^ 20 ≤ s2.sec.tree
          (may → s2.sec.fin < leaf → s.gives (.attest r) s2) ∧
          (may → s2.sec.fin = leaf → s.gives (.attest r) (s3.leafStart.holdSig q p1 m')) ∧
          (may → leaf < s2.sec.fin → here → m' ≠ [] → ends (s3.writeMem a.toNat m' false) stOK 0))))) ∧
    (p.work = [] →
      let p2 : Pkt := { p1 with work := [0x100000001] }
      let s2 := s1.setPkt q p2
      let off := (p.word 1).toNat
      let n := (p.word 2).toNat
      (s.turn r 0x40 p → s.opPkts [0x40, 0x41] = [] →
        let ends := fun (t : State) (st : Byte) (d : Word) => s.gives (.calRead r) (t.finish q p2 st d)
        (n = 0 → ends s2 stOK 0) ∧
        (n ≠ 0 → 0x40000 < off + n → ends s2 stBAD_PARAM 1) ∧
        (n ≠ 0 → off + n ≤ 0x40000 → s.sec.calBad = true → ends s2 stCAL 0) ∧
        (n ≠ 0 → off + n ≤ 0x40000 → s.sec.calBad = false →
          reports s2 ends n (flashRead s.flash.cal off n) (BitVec.ofNat 64 n))) ∧
      (s.turn r 0x41 p → s.opPkts [0x40, 0x41] = [] →
        let ends := fun (t : State) (st : Byte) (d : Word) => s.gives (.calWrite r) (t.finish q p2 st d)
        (n = 0 → ends s2 stOK 0) ∧
        (n ≠ 0 → (off < 0x100 ∨ 0x40000 < off + n) → ends s2 stBAD_PARAM 1) ∧
        (n ≠ 0 → 0x100 ≤ off → off + n ≤ 0x40000 → reads s2 ends a 0 n (fun s3 b =>
          let t := flashPut s3.flash.cal off b
          (calAllowed t = false → ends s3 stBAD_PARAM 0) ∧
          (calAllowed t = true →
            let s4 : State := { s3 with flash := { s3.flash with cal := flashPut t 0x40 (toBytes 8 0) },
                                        sec := { s3.sec with calBad := true, calProg := some (off, n) } }
            s.gives (.calWrite r) (s4.setPkt q { p2 with work := [0x100000001, 2] }))))) ∧
      (s.turn r 0x49 p → s.opPkts [0x49] = [] →
        let ends := fun (t : State) (st : Byte) (d : Word) => s.gives (.fwUpdate r) (t.finish q p2 st d)
        (off < 4096 ∨ 2 ^ 25 < off → ends s2 stBAD_LENGTH 1) ∧
        (4096 ≤ off → off ≤ 2 ^ 25 → (∀ st, s2.rangeBad p.part a off true true = some st → ends s2 st 0) ∧
          (s2.rangeBad p.part a off true true = none →
            let s3 : State := { s2 with
              flash := { s2.flash with slots := tset [] s2.flash.slots (1 - s2.sec.slot) (flashOf []) },
              sec := { s2.sec with fwProg := some off } }
            s.gives (.fwUpdate r) (s3.setPkt q { p2 with work := [0x100000001, 2] }))))) ∧
    (∀ t, (p ∈ (s.queue q).pkts ∧ p.pos = r.pos.toNat ∧ p.st = .begun ∧ p.work = [t, 2]) →
      (∀ x ∈ (s.queue q).pkts, x.asked = true ∧ (x.pos = p.pos → x = p)) →
      let s2 := s.setPkt q p
      let first := fun (ops : List Nat) => ∀ e ∈ s2.opPkts ops, t.toNat ≤ (e.2.work.headD 0).toNat
      (p.op = 0x41 → first [0x40, 0x41] →
        let f := flashPut s2.flash.cal 0 (calHeader (flashRead s2.flash.cal 0x100 (0x40000 - 0x100)))
        let s3 : State := { s2 with flash := { s2.flash with cal := f }, sec := { s2.sec with calBad := false, calProg := none } }
        s.gives (.calWrite r) ((s3.log 0x74 31 2 false [p.word 1, p.word 2]).finish q p stOK 0)) ∧
      (p.op = 0x49 → first [0x49] →
        let n := (p.word 1).toNat
        4096 ≤ n → n ≤ 2 ^ 25 → s2.rangeBad p.part a n true true = none →
        ∀ s3 b, s2.memRd q p.pos p.part a.toNat n = (s3, .bytes b) →
          let slot := 1 - s3.sec.slot
          let put := fun (l : List Byte) =>
            ({ s3 with flash := { s3.flash with slots := tset [] s3.flash.slots slot (flashOf l) },
                       sec := { s3.sec with fwProg := none } } : State)
          let gen := (s3.sec.gen + 1) % 2 ^ 32
          (imgBad s3.flash.minsvn (flashOf b) true false ≠ none →
            s.gives (.fwUpdate r) ((put []).finish q p stBAD_PARAM 0)) ∧
          (imgBad s3.flash.minsvn (flashOf b) true false = none → s.gives (.fwUpdate r)
            (((put (b.take 8 ++ toBytes 8 gen ++ b.drop 16)).log 0x72 31 2 false
              [BitVec.ofNat 64 slot, BitVec.ofNat 64 gen, BitVec.ofNat 64 (imgSvn (flashOf b))]).finish q p stOK 0))))

/-! ## Host ports and main memory (R326 to R339, R382) -/

/-- R333, R334, R336, R338, R339: an access of the host reaches what its function may: the aperture performs it at L2 at HPT_APER.BASE
where R26 allows it and completes as UR elsewhere; the queue page reaches the partition's own queues (the PF's every
partition's), the function page its registers; a poisoned TLP is counted and marks its sectors; a root port or a port
whose link is down presents no function; an MSI write of an attached device ADDs 1 to its object, and a link that
trains from stage 2 of the boot on shows in HPT_LINK. An access that reaches a die ends the idle time of its L2 half (R370). The
model's choices: the offsets of the function page (log 35); UR for a bad width on a queue page and for an aperture access past
4 GiB or one that R26 refuses, and the poisoned register write that is counted and dropped (log 61). -/
def Obligations.HostAccessesReachTheirFunction : Prop :=
  ∀ (s : State) (port : Fin 4) (f : PartId),
    let n := port.val
    let p := s.hport n
    let serves := p.root = false ∧ p.up = true ∧ s.pmem.lost = false
    let s1 := s.setHport n { p with urca := satAdd p.urca 1 }
    let ep := fun (t : State) => t.setHport n { t.hport n with ep := satAdd (t.hport n).ep 1 }
    let ur : HostAcc → State := fun a => match a with
      | .read _ => { s1 with out := s1.out ++ [.hostAnswer n f.val .ur] }
      | .write _ e => if e then ep s1 else s1
    let answers := fun (s : State) (b : List Byte) => ({ s with out := s.out ++ [.hostAnswer n f.val (.ok b)] } : State)
    let size : HostAcc → Nat := fun a => match a with
      | .read k => k
      | .write b _ => b.length
    (∀ off a, ¬ serves → s.gives (.hostApertureAccess port f off a) s) ∧
    (∀ off a, ¬ serves → s.gives (.hostQueuePageAccess port f off a) s) ∧
    (∀ lpa b e, ¬ serves → s.gives (.inboundHostWrite port f lpa b e) s) ∧
    (serves → s.sec.st ≠ .recovery → ∀ (off : BitVec 32) (a : HostAcc),
      let w := tget 0 s.aper f.val
      let at_ := field w 30 18 * 2 ^ 30 + off.toNat
      let good := bitAt w 0 = true ∧ off.toNat + size a ≤ 2 ^ 32 ∧ s.rangeBad f.val (BitVec.ofNat 64 at_) (size a) true false = none
      let i := Instr.hostApertureAccess port f off a
      let sd := s.dieAsked (homeDie at_)
      (¬ good → s.gives i (ur a)) ∧
      (good → (∀ b, a = .write b false → s.gives i (sd.writeMem at_ b false)) ∧
        (∀ b, a = .write b true → s.gives i ((ep sd).writeMem at_ b true)) ∧
        (∀ k t b, a = .read k → sd.readMem at_ k = (t, b, none) → s.gives i (answers t b)) ∧
        (∀ k t b x, a = .read k → sd.readMem at_ k = (t, b, some x) →
          let t := t.consume 10 n f.val (homeDie x) x
          s.gives i { t with out := t.out ++ [.hostAnswer n f.val .ep] }))) ∧
    (serves → s.sec.st = .recovery → ∀ (off : BitVec 32) (a : HostAcc),
      let good := f = 0 ∧ (∀ m, m < n → (s.hport m).root = true) ∧ off.toNat + size a ≤ 2 ^ 25
      let i := Instr.hostApertureAccess port f off a
      (¬ good → s.gives i (ur a)) ∧
      (good → (∀ k, a = .read k → s.gives i (answers s ((List.range k).map (fun j => tget 0 s.sec.buf (off.toNat + j))))) ∧
        (∀ b e, a = .write b e → ∃ buf : Tbl Byte,
          (let t := if e then ep s else s; s.gives i { t with sec := { t.sec with buf := buf } }) ∧
          ∀ j, tget 0 buf j = if off.toNat ≤ j ∧ j < off.toNat + b.length then b.getD (j - off.toNat) 0 else tget 0 s.sec.buf j))) ∧
    (serves → ∀ (lpa : BitVec 48) (b : List Byte) (e : Bool),
      let bad := s.rangeBad f.val (lpa.setWidth 64) b.length true false
      let i := Instr.inboundHostWrite port f lpa b e
      let sd := s.dieAsked (homeDie lpa.toNat)
      (bad ≠ none → s.gives i (ur (.write b e))) ∧
      (bad = none → s.gives i ((if e then ep sd else sd).writeMem lpa.toNat b e))) ∧
    (serves → ∀ (off : BitVec 23) (a : HostAcc),
      let i := Instr.hostQueuePageAccess port f off a
      let fits := (size a = 4 ∨ size a = 8) ∧ off.toNat % size a = 0
      let word : Word → Word := fun w => BitVec.ofNat 64 (w.toNat / 2 ^ (8 * (off.toNat % 8)) % 2 ^ (8 * size a))
      let v : List Byte → Word := fun b => BitVec.ofNat 64 (ofBytes b * 2 ^ (8 * (off.toNat % 8)))
      let m : Word := BitVec.ofNat 64 ((2 ^ (8 * size a) - 1) * 2 ^ (8 * (off.toNat % 8)))
      let reg := fun (t : State) (w : Word) (put : Word → Word → State) =>
        (∀ k, a = .read k → s.gives i (answers t (toBytes k (word w).toNat))) ∧ (∀ b, a = .write b false → s.gives i (put (v b) m))
      let q := if f = 0 then off.toNat / 0x40000 else f.val
      let page := if f = 0 then off.toNat - 0x440000 else off.toNat - 0x40000
      let inQueues := if f = 0 then off.toNat < 0x440000 else off.toNat < 0x40000
      let inPage := ¬ inQueues ∧ page < 0x40000
      (∀ b, a = .write b true → s.gives i (ep s)) ∧
      ((∀ b, a ≠ .write b true) → (¬ fits ∨ (¬ inQueues ∧ ¬ inPage) → s.gives i (ur a)) ∧
        (fits → inQueues → ∀ k : QId, k.part.val = q → k.q.val = off.toNat / 0x1000 % 64 → (s.queue k).v = true →
          (k.die = 1 → (s.queue { k with die := 0 }).v = false) →
          let sd := s.dieAsked k.die.val
          reg sd (sd.queueReg k (off.toNat % 0x1000 / 8 * 8)) (sd.queueRegW k (off.toNat % 0x1000 / 8 * 8))) ∧
        (fits → inPage → page / 8 = 0 → reg s (tget 0 s.aper f.val) (s.aperWrite f.val)) ∧
        (fits → inPage → f = 0 → 0x1000 ≤ page → page < 0x21000 →
          reg s (tget 0 (s.hport ((page - 0x1000) / 0x8000)).wxlat ((page - 0x1000) % 0x8000 / 8))
            (s.wxlatWrite ((page - 0x1000) / 0x8000) ((page - 0x1000) % 0x8000 / 8))) ∧
        (fits → inPage → page / 8 ≠ 0 → (f ≠ 0 ∨ page < 0x1000 ∨ 0x21000 ≤ page) → s.gives i (ur a)))) ∧
    (∀ addr : Word,
      let die := field p.msi 12 1
      let obj := field p.msi 0 12
      let good := p.root = true ∧ p.up = true ∧ field addr 32 32 = 0 ∧ field addr 16 16 = field p.msi 32 16 ∧
        s.syncOwner die obj = field p.msi 13 5
      (good → s.gives (.msiWrite port addr) ((s.dieAsked die).signal die obj 1 1)) ∧ (¬ good → s.gives (.msiWrite port addr) s)) ∧
    (let trains := s.sec.st = .ready ∨ s.sec.st = .hold ∨ (s.sec.st = .firmware ∧ s.sec.booted = true) ∨
       (s.sec.st = .recovery ∧ p.root = false ∧ ∀ m, m < n → (s.hport m).root = true)
     ∀ (w r : BitVec 3) (cxl : Bool), s.pmem.lost = false → w.toNat ≤ 4 → r.toNat ≤ 5 →
      (¬ trains → s.gives (.hostLinkUp port w r cxl) s) ∧
      (trains → ∃ l : Word, s.gives (.hostLinkUp port w r cxl) (s.setHport n { p with link := l }) ∧ bitAt l 0 = true ∧
        field l 1 3 = w.toNat ∧ field l 4 3 = r.toNat ∧ bitAt l 7 = cxl ∧ field l 8 56 = 0)) ∧
    s.gives (.hostLinkDown port) (s.setHport n { p with link := 0 })

/-- R337, R338, Table 15.6: an access to a window whose granule has no translation reaches nothing; a write is sent to the host-side
address, at most 512 bytes in a message (Table 15.4), or finds the link down, which is counted and logged; a read is sent and waits for its completion. A completion
answers the read that its tag names; one with UR, CA or EP, and 10 ms without one, fail the read, are counted, logged and
leave the tag free; whoever asked then has the answer. The model's choices: the agent of a window access is its partition's own, which takes its answer when the access is
issued again (log 39); a completion with an unknown tag or another number of bytes has no effect (log 61). -/
def Obligations.HostWindowReadsAndWritesComplete : Prop :=
  ∀ (s : State) (port : Fin 4),
    let n := port.val
    let p := s.hport n
    (∀ (part : PartId) (pa : BitVec 48) (a : HostAcc) (size o : Nat),
      size = (match a with | .read k => k | .write b _ => b.length) → 1 ≤ size → pa.toNat % 4096 + size ≤ 4096 →
      pa.toNat = 0x100000000000 + 0x40000000000 * n + o → o < 0x40000000000 →
      s.rangeBad part.val (pa.setWidth 64) size false true = none →
      let w := tget 0 p.wxlat (o / 2 ^ 30)
      let haddr := field w 30 34 * 2 ^ 30 + o % 2 ^ 30
      let i := Instr.hostWindowAccess part pa a
      let down := (s.setHport n { p with linkdn := satAdd p.linkdn 1 }).hostFail n 0 3 part.val pa.toNat false
      (bitAt w 0 = false → (∀ k, a = .read k → s.gives i (s.forget (.sync part.val))) ∧ (∀ b e, a = .write b e → s.gives i s)) ∧
      (bitAt w 0 = true → p.up = true → ∀ b e, a = .write b e →
        let sent := (chunks 512 (size + 1) b).zipIdx
        s.gives i { s with out := s.out ++ sent.map (fun c => .hostWrite n (haddr + 512 * c.2) part.val c.1 e) } ∧
          sent.flatMap (fun c => c.1) = b ∧ ∀ c ∈ sent, c.1.length ≤ 512) ∧
      (bitAt w 0 = true → p.up = false → ∀ b e, a = .write b e → s.gives i down) ∧
      (bitAt w 0 = true → (∀ x ∈ s.answers, x.who ≠ .sync part.val) →
        (∀ x ∈ p.reqs, ∀ r, x.2 = some r → r.who ≠ .sync part.val) → ∀ k, a = .read k →
        (p.up = false → s.gives i { down with answers := s.answers }) ∧
        (p.up = true → ∃ tag, tget none p.reqs tag = none ∧ s.gives i
          (let t := s.setHport n { p with reqs := tset none p.reqs tag (some ⟨.sync part.val, pa.toNat, k, part.val, s.now⟩) }
           { t with out := t.out ++ [.hostRead n tag haddr part.val k] })))) ∧
    (∀ tag, tget none p.reqs tag = none →
      (∀ c, s.gives (.hostCompletion port tag c) s) ∧ s.gives (.hostCompletionTimeout port tag) s) ∧
    (∀ tag (r : HostReq), tget none p.reqs tag = some r →
      let ends := fun (i : Instr) (p2 : HPort) (b : List Byte) (f : Option ReadFail) (svc : Service) =>
        ∃ t : State, s.gives i (t.answered r.who) ∧ t.hport n = { p2 with reqs := tset none p.reqs tag none } ∧
          (∀ m, m ≠ n → t.hport m = s.hport m) ∧
          t.answers = s.answers ++ [{ who := r.who, addr := r.pa, len := r.len, bytes := b, fail := f }] ∧ t.svc = svc ∧
          { t with hosts := s.hosts, answers := s.answers, svc := s.svc, freeCtr := s.freeCtr } = s
      let logged := fun (kind : Nat) => (s.hostFail n kind (agentKind r.who) r.part r.pa false).svc
      (s.hostComp n = none →
        (∀ b : List Byte, b.length = r.len → ends (.hostCompletion port tag (.ok b)) p b none s.svc) ∧
        (∀ b : List Byte, b.length ≠ r.len → s.gives (.hostCompletion port tag (.ok b)) s) ∧
        ends (.hostCompletion port tag .ur) { p with urca := satAdd p.urca 1 } [] (some .host) (logged 2) ∧
        ends (.hostCompletion port tag .ca) { p with urca := satAdd p.urca 1 } [] (some .host) (logged 3) ∧
        ∃ off, (32 ≤ r.len → off < r.len) ∧ off % 32 = 0 ∧
          ends (.hostCompletion port tag .ep) { p with ep := satAdd p.ep 1 } [] (some (.poisoned off))
            (s.log 0x8E r.part 2 false [BitVec.ofNat 64 n, 4, BitVec.ofNat 64 (agentKind r.who), BitVec.ofNat 64 r.pa, 1]).svc) ∧
      (r.sent + 250000 ≤ s.now →
        ends (.hostCompletionTimeout port tag) { p with cto := satAdd p.cto 1 } [] (some .host) (logged 1)) ∧
      (s.now < r.sent + 250000 → s.gives (.hostCompletionTimeout port tag) s)) ∧
    (∀ (t : State) (a : Agent), (∀ c, a ≠ .core c) → t.answered a = t) ∧
    (∀ (t : State) (c : Nat), let k := t.core c
      k.run = .waitResp → t.outstanding (.core c) = false →
      (∀ x ∈ t.hosts, ∀ e ∈ x.2.reqs, ∀ r, e.2 = some r → r.who ≠ .core c) →
      t.answered (.core c) = t.setCore c { k with run := .running })

/-- R328, R329, R330: a scrub read moves to the next burst of its sub-channel, writes a corrected burst back and nothing
where it finds poison, and is no request of the channel; it and refresh pause in self-refresh, which a channel enters
when it has been idle for MIO_SREF.IDLE ticks or its controllers are parked, and leaves for the request served after. The
model's choices: a scrub read is no request and consumes as kind 11, and REFRESH counts only while the channel is active (log
62); reading and repairing are one step, so the repair write is never dropped (log 32). -/
def Obligations.ChannelsScrubRefreshAndRest : Prop :=
  ∀ (s : State) (die : DieId) (ch : Fin 128), s.pmem.lost = false →
    let k := 128 * die.val + ch.val
    let c := s.chan k
    (∀ sub : Fin 2,
      let i := tget 0 c.pos sub.val
      let next := (i + 1) % (16 * 196608 * 64)
      let runs := field c.scrub 0 16 ≠ 0 ∧ c.state = 1 ∧ c.sleep = false
      let c1 : Chan := { c with
        pos := tset 0 c.pos sub.val next
        pins := if next = 0 then tclear c.pins (16 * sub.val) 16 else c.pins }
      let s1 := s.setChan k c1
      let pa := burstAddr die.val ch.val sub.val i
      let idle := fun (t : State) => t.setChan (chanKey pa) { t.chan (chanKey pa) with lastReq := (s1.chan (chanKey pa)).lastReq }
      (¬ runs → s.gives (.patrolScrub die ch sub) s) ∧
      (runs → ∀ t d bad fixed, s1.memRead pa = (t, d, bad, fixed) → s.gives (.patrolScrub die ch sub)
        (idle (if bad = true then t.consume 11 (chanKey pa) 31 (homeDie pa) pa
               else if fixed = true then t.memWrite pa d false else t)))) ∧
    (∀ (sub : Fin 2) (bank : Fin 16),
      let b := 16 * sub.val + bank.val
      (c.sleep = false → c.state = 1 → s.gives (.refresh die ch sub bank)
        (s.setChan k { c with refr := tset 0 c.refr b (tget 0 c.refr b + 1) })) ∧
      (c.sleep = true ∨ c.state ≠ 1 → s.gives (.refresh die ch sub bank) s)) ∧
    (let idle := field c.sref 0 20
     let rests := ((idle ≠ 0 ∧ c.lastReq + idle ≤ s.now) ∨ s.dom (12 * die.val + 11) = .parked) ∧ c.state = 1
     (rests → c.sleep = false → s.gives (.selfRefreshEntry die ch) (s.setChan k { c with sleep := true, sleptAt := s.now })) ∧
     (rests → c.sleep = true → s.gives (.selfRefreshEntry die ch) (s.setChan k c)) ∧
     (¬ rests → s.gives (.selfRefreshEntry die ch) s)) ∧
    (c.sleep = true → s.gives (.selfRefreshExit die ch)
      (s.setChan k { c with sleep := false, slept := c.slept + (s.now - c.sleptAt), lastReq := s.now })) ∧
    (c.sleep = false → s.gives (.selfRefreshExit die ch) s)

/-! ## The Lumette fabric (R254, R341 to R360) -/

/-- R254, R347, R348, R350: a request frame acts at its target and is answered. PUT writes its masked sectors, each at its home L2, and
GET answers with the sectors, where the frame's partition holds the granule; REDUCE makes its line a contribution;
SIGNAL applies its operation where the partition holds the object, and with PSN arrives at the receiver's Harness; MCAST
fills the landing buffers of all its cores or of none. A refusal is logged and counted and names its reason. A frame for
another device, of another type or broken under Table 16.2 does nothing. A request ends the idle time of the L2 half of each die
that it comes to (R370), and what arrives for a partition that PART_DESTROY takes apart is refused (R28). The model's choices: both
sides of a refusal write a record (log 52), and the layout of its payload (log 18). -/
def Obligations.FramesActAtTheirTarget : Prop :=
  ∀ (s : State) (f : Frame),
    let rows : List (Instr × Nat) := [(.put f, 1), (.get f, 2), (.getr f, 3), (.reduce f, 4), (.signal f, 5), (.mcastFrame f, 6), (.resp f, 7)]
    (∀ e ∈ rows, f.type ≠ e.2 ∨ f.dst ≠ s.devid ∨ frameOk f = false → s.gives e.1 s) ∧
    (frameOk f = true → f.dst = s.devid →
      let w : Nat → Word := fun n => BitVec.ofNat 64 n
      let a := field f.h2 0 48
      let answer := fun (t : State) (code reason : Nat) =>
        t.send (t.mkFrame 7 1 f.src f.part 0 f.tag (w (code + 256 * reason)) (w t.devid) [])
      let refuse := fun (t : State) (die reason : Nat) =>
        answer (t.log 0x55 f.part die false [w 1, w f.type, w f.part, w f.src, w (2 + 256 * reason)]) 2 reason
      let lives := s.own.dying ≠ some f.part
      let held := tget 0 s.own.gran (a / 2 ^ 30) = f.part ∧ lives
      let sd := s.dieAsked (homeDie a)
      let memory := fun (i : Instr) (t : State) =>
        (0x30000000000 ≤ a → s.gives i (refuse sd 1 2)) ∧ (a < 0x30000000000 → ¬ held → s.gives i (refuse sd (homeDie a) 1)) ∧
        (a < 0x30000000000 → held → s.gives i t)
      (f.type = 1 → memory (.put f) (answer ((f.payload.zipIdx).foldl (fun t e =>
        if bitAt f.h3 e.2 then t.writeMem (a + 32 * e.2) (toBytes 32 e.1.toNat) false else t) sd) 0 0)) ∧
      (f.type = 2 → memory (.get f) (match sd.readMem a (32 * f.h3.toNat) with
        | (t, b, none) => t.send (t.mkFrame 3 1 f.src f.part 0 f.tag (w a) 0 (sectorsOf b))
        | (t, _, some x) => refuse (t.consume 8 f.src f.part (homeDie a) x) (homeDie a) 8)) ∧
      (f.type = 4 → ((16 < f.part ∨ ¬ lives) → s.gives (.reduce f) (refuse sd (homeDie a) 1)) ∧
        ∀ c : Contribution, lives → c.line.toNat = a → c.mask.toNat = field f.h3 48 4 → c.part.val = f.part → c.g.toNat = field f.h3 56 8 →
          c.rank.toNat = field f.h3 52 4 → c.step.toNat = field f.h3 0 32 → (∀ i, i < 4 → lineSec c.data i = f.payload.getD i 0) →
          s.gives (.reduce f) (match sd.contribute c with
            | (t, .accept) => answer t 0 0
            | (t, .retry) => answer t 1 0
            | (t, .refuse r) => refuse t (homeDie a) r)) ∧
      (f.type = 5 →
        let die := field f.h2 12 1
        let obj := field f.h2 0 12
        let sd := s.dieAsked die
        let u := (s.die die).sync
        let counted := sd.setSync die { u with rrefused := satAdd u.rrefused 1 }
        let ours := s.syncOwner die obj = f.part ∧ lives
        (¬ ours → s.gives (.signal f) (refuse counted die 1)) ∧
        (ours → bitAt f.h0 0 = false →
          s.gives (.signal f) (answer (sd.signal die obj (field f.h2 13 3) f.h3) 0 0)) ∧
        (ours → bitAt f.h0 0 = true →
          s.gives (.signal f) (runJobs jobFuel [.arrive f.src none f.part die obj f.h3 f.tag] sd))) ∧
      (f.type = 6 →
        let off := field (f.payload.headD 0) 0 32
        let b := (f.payload.drop 1).flatMap (fun d => toBytes 32 d.toNat)
        let cores := (List.range 128).filter (fun c => bitAt (if c < 64 then f.h2 else f.h3) (c % 64))
        let sd := ((cores.map (· / 64)).eraseDups).foldl (fun (t : State) d => t.dieAsked d) s
        let fits := fun c => s.owner (c / 8) = f.part ∧ lives ∧ s.clDead (c / 8) = false ∧
          off + b.length ≤ 65536 * field (s.core c).cr.lbcfg 0 2
        ((∀ c ∈ cores, fits c) → s.gives (.mcastFrame f)
          (answer (cores.foldl (fun t c => t.landPut c off b) sd) 0 0)) ∧
        (∀ c ∈ cores, ¬ fits c → s.gives (.mcastFrame f) (refuse sd (cores.headD 0 / 64) 7))))

/-- R254, R271, R349, R351, Table 16.4: a response ends the request that carries its tag, and one that comes after its request
ended is counted. The data of a GETR join their read; a refusal or a loss is logged on the requester's side and reaches the
agent: a read fails, a store's core keeps it as REMOTE_FAULT, a packet as its status, a context as reason 9, a signal in
SYN_RNAK; a contribution told to RETRY is due again, up to STC_RETRYLIM. No response within FAB_E2E loses the request; a
poisoning SIGNAL that was lost is sent again after 10 ms, three times, unless HELD has come. A context that has faulted since, or
was bound anew, does not fault for it. The fresh tag of a resend and the codes of the records are the model's choice (log 52). -/
def Obligations.ResponsesReachTheirRequester : Prop :=
  ∀ (s : State) (f : Frame),
    let tag := f.tag
    let ok := frameOk f = true ∧ f.dst = s.devid
    let late : State := { s with fab := { s.fab with late := satAdd s.fab.late 1 } }
    let code := field f.h2 0 8
    let reason := field f.h2 8 8
    let s1 := s.dropReq tag
    let logged := fun (t : State) (r : FReq) (c n : Nat) => t.log 0x55 r.frame.part (agentDie r.who) false
      [0, BitVec.ofNat 64 r.frame.type, BitVec.ofNat 64 r.frame.part, BitVec.ofNat 64 r.frame.dst, BitVec.ofNat 64 (c + 256 * n)]
    (ok → tget none s.fab.reqs tag = none → (f.type = 7 → s.gives (.resp f) late) ∧ (f.type = 3 → s.gives (.getr f) late)) ∧
    (∀ r, tget none s.fab.reqs tag = some r → ok →
      let ends := fun (i : Instr) (t : State) => s.gives i (t.answered r.who)
      (f.type = 3 → ∀ addr total off len, r.kind = .read addr total off len → ends (.getr f)
        (s1.joinAns r.who addr total off ((f.payload.flatMap (fun d => toBytes 32 d.toNat)).take len) none)) ∧
      (f.type = 7 → ∀ addr total off len, r.kind = .read addr total off len →
        (code = 2 → reason ≠ 8 → ends (.resp f) ((logged s1 r 2 reason).joinAns r.who addr total off [] (some (.refuse reason)))) ∧
        (code = 3 → ends (.resp f) ((logged s1 r 3 reason).joinAns r.who addr total off [] (some .undeliv)))) ∧
      (f.type = 7 → ∀ va, r.kind = .write va →
        (code = 0 → ends (.resp f) s1) ∧
        (code = 2 ∨ code = 3 →
          let t := logged s1 r code reason
          let fail : ReadFail := if code = 2 then .refuse reason else .undeliv
          (∀ c, r.who = .core c → ends (.resp f)
            { t with answers := t.answers ++ [{ who := .core c, addr := va.toNat, len := 0, bytes := [], fail := some fail }] }) ∧
          (∀ cl n, r.who = .ctx cl n →
            let live := r.stale = false ∧ ((s.ctx cl n).st = .running ∨ (s.ctx cl n).st = .held)
            (live → ends (.resp f) (t.ctxFault cl n ⟨9, 0, va⟩)) ∧ (¬ live → ends (.resp f) t)) ∧
          (∀ q pos p, r.who = .pkt q pos → (s.queue q).pkts.find? (fun p => decide (p.pos = pos)) = some p → p.work.getD 1 1 = 0 →
            let st : Byte := if code = 3 then stPARTNER else if reason = 2 then stBAD_PARAM else stNO_PERM
            let d : Word := if code = 2 then 1 else BitVec.ofNat 64 r.frame.dst
            ends (.resp f) (t.setPkt q { p with work := [1, st.setWidth 64, d] })))) ∧
      (f.type = 7 → r.kind = .signal →
        (code = 0 → (∀ q pos, r.who = .pkt q pos → ends (.resp f) (runJobs jobFuel [.sigs q] s1)) ∧
          ((∀ q pos, r.who ≠ .pkt q pos) → ends (.resp f) s1)) ∧
        (code = 2 ∨ code = 3 → (∀ q pos, r.who ≠ .pkt q pos) →
          let u := (s1.die (agentDie r.who)).sync
          ends (.resp f) ((s1.setSync (agentDie r.who) { u with rnak := satAdd u.rnak 1 }).log 0x55 r.frame.part (agentDie r.who) false
            [0, 5, BitVec.ofNat 64 r.frame.part, BitVec.ofNat 64 r.frame.dst, BitVec.ofNat 64 (code + 256 * reason)]))) ∧
      (f.type = 7 → ∀ n due cl x, r.kind = .red n due → r.who = .ctx cl x →
        let k := s.stitcher cl
        (code = 0 → ends (.resp f) s1) ∧
        (code = 1 →
          let t := (s1.addReq tag { r with kind := .red (n + 1) true }).setStitcher cl { k with retry := satAdd k.retry 1 }
          let lim := max 1 (field k.retrylim 0 16)
          (n + 1 < lim → ends (.resp f) t) ∧
          (lim ≤ n + 1 → r.stale = false → ends (.resp f) ((t.dropReq tag).ctxFault cl x ⟨8, 0, 0⟩)) ∧
          (lim ≤ n + 1 → r.stale = true → ends (.resp f) (t.dropReq tag))) ∧
        (code = 2 ∨ code = 3 → ends (.resp f) ((logged s1 r code reason).setStitcher cl { k with redref := satAdd k.redref 1 }))) ∧
      (f.type = 7 → ∀ n h, r.kind = .psn n h true → s.gives (.resp f) late) ∧
      (f.type = 7 → ∀ n h, r.kind = .psn n h false →
        let held := s1.addReq tag { r with kind := .psn n true false }
        let ends := fun (i : Instr) (t : State) => ends i t.pumpAll
        (code = 4 → s.noRoute r.frame.dst = false → ends (.resp f) held) ∧
        (code = 4 → s.noRoute r.frame.dst = true → ends (.resp f) (runJobs jobFuel [.acked tag true] held)) ∧
        (code = 3 → n < 3 → ends (.resp f) (s1.addReq tag { r with kind := .psn n false true, sent := s.now })) ∧
        (code = 0 → ends (.resp f) (runJobs jobFuel [.acked tag false] (s1.addReq tag r))) ∧
        (code = 2 ∨ (code = 3 ∧ 3 ≤ n) → ends (.resp f)
          (runJobs jobFuel [.acked tag true] (logged (s1.addReq tag r) r code reason))))) ∧
    (∀ (tag : BitVec 16),
      let t := tag.toNat
      let limit := 25000 * max 1 (field s.fab.e2e 0 16)
      (tget none s.fab.reqs t = none → s.gives (.fabE2eTimeout tag) s ∧ s.gives (.psnSignalResend tag) s) ∧
      (∀ r, tget none s.fab.reqs t = some r →
        (s.now < r.sent + limit → s.gives (.fabE2eTimeout tag) s) ∧
        ((∃ n, r.kind = .red n true) ∨ (∃ n h d, r.kind = .psn n h d ∧ (h = true ∨ d = true)) → s.gives (.fabE2eTimeout tag) s) ∧
        (r.sent + limit ≤ s.now → (∀ n, r.kind ≠ .red n true) → (∀ n h d, r.kind ≠ .psn n h d) →
          s.gives (.fabE2eTimeout tag) (s.reqDone t r (.lost 5 0))) ∧
        (r.sent + limit ≤ s.now → ∀ n, r.kind = .psn n false false → n < 3 → s.gives (.fabE2eTimeout tag)
          ((((s.dropReq t).addReq t { r with kind := .psn n false true, sent := s.now }).pumpAll).answered r.who)) ∧
        ((∀ n, r.kind ≠ .psn n false true) ∨ s.now < r.sent + 250000 → s.gives (.psnSignalResend tag) s) ∧
        (∀ n, r.kind = .psn n false true → r.sent + 250000 ≤ s.now →
          let r2 : FReq := { r with kind := .psn (n + 1) false false, sent := s.now }
          (s.noRoute r.frame.dst = false → ∀ q, r.who = .ring q →
            let x := (s.dropReq t).newTag
            let g : Frame := { r.frame with h1 := BitVec.ofNat 64 (x.1 * 65536) }
            s.gives (.psnSignalResend tag) (((x.2.retag q t x.1).addReq x.1 { r2 with frame := g }).send g)) ∧
          (s.noRoute r.frame.dst = true → s.gives (.psnSignalResend tag) (s.reqDone t r2 (.lost 6 0))))))

/-- R343, R345, R346, R354, R357, R358, Tables 16.5 and 16.10: a port that is DISABLED or in TRAINING takes no frame; a codeword or
CRC that fails is counted, as are the codewords corrected; such a frame and one out of sequence are discarded, and the first
discard after a frame that was not sends a NAK, the eighth of them in a row retraining the port. A frame in
sequence is expected no more, returns its credit, frees what it acknowledges and is delivered, or passed on. A NAK has
every frame from its number on sent again, and the eighth that names one number retrains the port. Training chooses the
width (the frames of a retrain that has taken more than 100 ms are handled anew first), FEC lock leads to HELLO, a HELLO of the wired partner to UP and any other to MISWIRED; 3 ms without HELLO and loss of
lock lead back. The model's choices (log 52): the eighth NAK sent retrains the port, credit goes back when a frame is taken up, and
a loss of lock keeps the retry state as the partner's retrain would; the layout of HELLO is log 31's. -/
def Obligations.LinksDeliverInOrderAndTrain : Prop :=
  ∀ (s : State) (port : Fin 8),
    let n := port.val
    let p := s.fport n
    let put := fun (q : FPort) => s.setFport n q
    let discards := fun (i : Instr) (t : State) =>
      let q := t.fport n
      let u := (t.setFport n { q with nakSent := true, nak := satAdd q.nak 1, sentN := q.sentN + 1 }).transmit n
        (t.linkFrame n 1 q.rxSeq [])
      (q.st = .up → q.nakSent = false → q.sentN < 7 → s.gives i u) ∧
      (q.st = .up → q.nakSent = false → 7 ≤ q.sentN → s.gives i (u.leave n .training lostRetry true)) ∧
      (q.st ≠ .up ∨ q.nakSent = true → s.gives i t)
    let retry := fun (q : FPort) (f : Frame) => { f with h1 := putField f.h1 32 16 q.rxSeq.toNat }
    (∀ (f : Frame) (crc : Bool) (fixed lost : Nat),
      let i := Instr.frameReceive port f crc ⟨fixed, lost⟩
      let t := s.fecFixed n fixed
      let p := t.fport n
      let lsa := f.type = 0 ∧ field f.h2 56 8 = 3
      ((s.fport n).st = .disabled ∨ (s.fport n).st = .training → s.gives i s) ∧
      ((s.fport n).st ≠ .disabled → (s.fport n).st ≠ .training →
        (p = { s.fport n with feccorr := if fixed = 0 then p.feccorr else satAdd (s.fport n).feccorr fixed }) ∧
        (lost ≠ 0 → discards i (t.setFport n { p with fecunc := satAdd p.fecunc lost })) ∧
        (lost = 0 → crc = false → discards i (t.setFport n { p with crcerr := satAdd p.crcerr 1 })) ∧
        (lost = 0 → crc = true → p.st ≠ .up → (f.type ≠ 0 ∨ lsa) → s.gives i t) ∧
        (lost = 0 → crc = true → p.st = .up → (f.type ≠ 0 ∨ lsa) → f.lseq ≠ p.rxSeq → discards i t) ∧
        (lost = 0 → crc = true → p.st = .up → f.type ≠ 0 → f.lseq = p.rxSeq →
          let bad := !frameOk f
          let s1 := (t.rxCount n f bad).setFport n { p with rxSeq := p.rxSeq + 1, nakSent := false, sentN := 0 }
          let s2 := (s1.onLack n f.lack).onCredit n f.cvc f.ccnt
          let q := s2.fport n
          let s3 := s2.setFport n { q with owed := tmod 0 q.owed f.vc (· + (1 + f.len)) }
          s.gives i ((if bad = true then s3 else if f.dst = s3.devid then s3.deliver f else s3.forward (n / 2) f).returnCredit n 16)))) ∧
    (∀ (t : State) (lack : BitVec 16), let q := t.fport n
      ∃ l, (t.onLack n lack) = t.setFport n { q with retry := l, hurt := q.hurt && decide (l.length = q.retry.length) } ∧
        ∀ f, f ∈ l ↔ f ∈ q.retry ∧ (lack = f.lseq ∨ 32768 ≤ (lack - f.lseq).toNat)) ∧
    (∀ (vc : BitVec 3) (m : BitVec 13),
      s.gives (.credit port vc m) ((put { p with used := tmod 0 p.used vc.toNat (fun x => x - m.toNat) }).drainPort n 4096)) ∧
    (∀ seq : BitVec 16,
      let k := if p.nakSeq = seq then p.nakN + 1 else 1
      let t := put { p with nakSeq := seq, nakN := k }
      (p.st ≠ .up → s.gives (.nak port seq) s) ∧
      (p.st = .up → 8 ≤ k → s.gives (.nak port seq) (t.leave n .training lostRetry true)) ∧
      (p.st = .up → k < 8 → s.gives (.nak port seq)
        ((p.retry.filter (fun f => decide ((f.lseq - seq).toNat < 32768))).foldl (fun u f => u.wire n (retry (u.fport n) f)) t))) ∧
    (let sends := p.st = .hello ∨ p.st = .up ∨ p.st = .miswired
     (sends → s.gives (.helloSend port) (s.transmit n (s.linkFrame n 2 0 [s.helloPayload n]))) ∧ (¬ sends → s.gives (.helloSend port) s)) ∧
    (∀ pl : Sector,
      let dev := field pl 0 14
      let pp := field pl 16 3
      let good := s.partner s.devid n = some (dev, pp) ∧ field pl 32 20 = field s.fabCfg 0 20
      let seen : FPort := { p with heard := s.now }
      let lost := put { seen with st := .miswired, pdev := dev, pport := pp }
      let e := (s.partner s.devid n).getD (0, 0)
      let waits := p.st = .hello ∨ p.st = .check ∨ p.st = .miswired
      let i := Instr.hello port pl
      (p.st = .up → s.gives i (put { seen with pdev := dev, pport := pp })) ∧
      (p.st = .disabled ∨ p.st = .training → s.gives i s) ∧
      (waits → good → s.gives i ((put seen).enterUp n dev pp (BitVec.ofNat 16 (field pl 64 16)))) ∧
      (waits → ¬ good → p.st = .miswired → s.gives i lost) ∧
      (waits → ¬ good → p.st ≠ .miswired → s.gives i (lost.log 0x52 31 (4 + n / 2) false
        [BitVec.ofNat 64 n, BitVec.ofNat 64 e.1, BitVec.ofNat 64 e.2, BitVec.ofNat 64 dev, BitVec.ofNat 64 pp]))) ∧
    (p.st = .up → p.heard + 75000 ≤ s.now → s.gives (.helloTimeout port) (s.leave n .training lostHello false)) ∧
    (p.st ≠ .up ∨ s.now < p.heard + 75000 → s.gives (.helloTimeout port) s) ∧
    (∀ lanes : LaneMask,
      let t := match p.left with
        | some since => if since + 2500000 < s.now then s.flushPort n else s
        | none => s
      let q := t.fport n
      let l := lanes &&& ~~~q.dead
      let w := if l = 0xFFFF ∧ q.half = false then 3 else if l &&& 0xFF = 0xFF then 1 else if l &&& 0xFF00 = 0xFF00 then 2 else 0
      (p.st = .training → s.gives (.trainingAttempt port lanes) (t.setFport n { q with width := w })) ∧
      (p.st ≠ .training → s.gives (.trainingAttempt port lanes) s)) ∧
    (p.st = .training → p.width ≠ 0 → s.gives (.fecLock port) (put { p with st := .hello })) ∧
    (p.st ≠ .training ∨ p.width = 0 → s.gives (.fecLock port) s) ∧
    (p.st ≠ .disabled → p.st ≠ .training → s.gives (.lossOfLock port) (s.leave n .training lostLock true)) ∧
    (p.st = .disabled ∨ p.st = .training → s.gives (.lossOfLock port) s) ∧
    (∀ (st : PortSt) (cause : Nat) (again : Bool), p.st ≠ .up →
      let t := put { p with st := st, width := 0, retrain := if again = true ∧ cause ≠ lostLock then satAdd p.retrain 1 else p.retrain }
      (st ≠ .disabled ∨ p.left = none → s.leave n st cause again = t) ∧
      (st = .disabled → p.left ≠ none → s.leave n st cause again = t.flushPort n))

/-- R356, R359, R360, Table 16.9: a link-state advertisement newer than the one held for its origin is stored and passed on by
every other UP port; the entry of a destination follows the advertisements: primary routing where every link of its path is
usable, else the intermediate device with the fewest hops, the lowest DEVID on a tie, else unreachable; an update writes every
entry that changes and one record of them, and ends the poisoning SIGNALs held for a destination that is gone. The payload of an
LSA (log 31), that only UP ports carry it, and the one record of all the changes (log 52) are the model's choice. -/
def Obligations.RoutesFollowTheLinkState : Prop :=
  ∀ (s : State),
    (∀ (port : Fin 8) (pl : Sector),
      let dev := field pl 0 14
      let ver := field pl 32 32
      let v : BitVec 16 := BitVec.ofNat 16 (field pl 64 16)
      let newer := ∀ w x, tget none s.fab.lsas dev = some (w, x) → w < ver
      let t : State := { s with fab := { s.fab with lsas := tset none s.fab.lsas dev (some (ver, v)), lastLsa := (dev, ver) } }
      ((s.fport port.val).st = .up → newer → s.gives (.lsa port pl) (t.floodLsa dev ver v (some port.val))) ∧
      ((s.fport port.val).st ≠ .up ∨ ¬ newer → s.gives (.lsa port pl) s)) ∧
    (∀ org : BitVec 14,
      let l := s.newRoutes
      let named := ((tget none s.fab.lsas org.toNat).map (fun x => (org.toNat, x.1))).getD s.fab.lastLsa
      let t := l.foldl (fun (t : State) x =>
        let u : State := { t with fab := { t.fab with rtab := tset 0x8000 t.fab.rtab x.1 x.2 } }
        if bitAt x.2 15 then u.dropHeld x.1 else u) s
      (l = [] → s.gives (.routeUpdate org) s) ∧
      (l ≠ [] → s.gives (.routeUpdate org) (t.log 0x54 31 2 false [BitVec.ofNat 64 named.1, BitVec.ofNat 64 named.2,
        BitVec.ofNat 64 l.length, BitVec.ofNat 64 (l.filter (fun x => bitAt x.2 15)).length]))) ∧
    (∀ d e, (d, e) ∈ s.newRoutes ↔ d < 2 ^ s.dimLo 4 ∧ d ≠ s.devid ∧ e = s.route d ∧ e ≠ tget 0x8000 s.fab.rtab d) ∧
    (∀ d,
      let valid := s.badCfg = false ∧ d < 2 ^ s.dimLo 4
      let path := fun (a b k : Nat) => s.pathLen 64 a b = some k
      let via := fun (i k : Nat) => i < 2 ^ s.dimLo 4 ∧ ∃ x y, path s.devid i x ∧ path i d y ∧ k = x + y
      (¬ valid → s.route d = 0x8000) ∧
      (valid → ∀ k, path s.devid d k → s.route d = 0) ∧
      (valid → (∀ k, ¬ path s.devid d k) → (∀ j k, ¬ via j k) → s.route d = 0x8000) ∧
      (valid → (∀ k, ¬ path s.devid d k) → ∀ j k, via j k → (∀ j' k', via j' k' → k < k' ∨ (k = k' ∧ j ≤ j')) →
        j < 2 ^ 14 → s.route d = BitVec.ofNat 64 (2 ^ 14 + j)))

/-- R363, R364, R365: a ring pair whose turn it is sends the frame of its next descriptor with its own MAC address as the source
and its FCS, counts it, and SETs TXHEAD to its new position; a frame received goes to the pair it is addressed to, or to every pair
for a broadcast or multicast: into the next buffer, with its length and bit 15 in the descriptor and RXHEAD SET, or it is
dropped and counted where no buffer is free or the next is too small. A frame with a bad FCS, of a length or type that no
MAC frame has, or one to a pair whose area is not enabled reaches no buffer. Lengths and byte order are the model's (log 40). -/
def Obligations.EthernetSendsAndReceives : Prop :=
  ∀ (s : State) (eth : Fin 2),
    let n := eth.val
    let e := s.eport n
    let w : Nat → Word := fun x => BitVec.ofNat 64 x
    let mac : Nat → List Byte := fun p => (List.range 6).map (fun i => BitVec.ofNat 8 ((Config.macBase.toNat + 32 * n + p) / 256 ^ (5 - i)))
    (∀ r : BitVec 2, (r = 3 ∨ s.lkOut (2 * n) = true → s.gives (.ethernetLinkChange eth r) s) ∧
      (r ≠ 3 → s.lkOut (2 * n) = false → s.gives (.ethernetLinkChange eth r) (s.setEport n { e with rate := r.toNat }))) ∧
    (∀ (part : PartId),
      let p := part.val
      let i := Instr.ethernetTransmit eth part
      let s1 := s.ethRefresh n p
      let pair := s1.epair n p
      let slot := pair.txb + w (16 * (pair.tpos % 2 ^ field pair.ctl 8 4))
      let sent := fun (t : State) (b : Nat) =>
        let q := t.epair n p
        let t1 := (t.setEpair n p { q with tpos := q.tpos + 1 }).forget (.eth n p)
        (t1.setEport n { t1.eport n with last := p }).signal n (64 * b + 61) 0 (w (q.tpos + 1))
      (s1.ethPlace n p = none ∨ (s1.eport n).rate = 0 ∨ s1.ethTurn n ≠ some p → s.gives i s1) ∧
      (∀ a b, s1.ethPlace n p = some (a, b) → (s1.eport n).rate ≠ 0 → s1.ethTurn n = some p →
        (bitAt pair.ctl 0 = true ∧ pair.tpos < pair.txdb.toNat) ∧
        ∀ t l, s1.ethGet n p slot 16 = (t, .bytes l) →
          let len := ofBytes (l.drop 8) % 2 ^ 14
          (len < 60 ∨ 9212 < len → s.gives i (sent t b)) ∧
          (60 ≤ len → len ≤ 9212 → ∀ t2 f, t.ethGet n p (w (ofBytes (l.take 8))) len = (t2, .bytes f) →
            let g := f.take 6 ++ mac p ++ f.drop 12
            let t3 := sent ({ t2 with out := t2.out ++ [.eth n (g ++ toBytes 4 (crc32 g).toNat)] } : State) b
            s.gives i (t3.setEport n { t3.eport n with tx := satAdd (t3.eport n).tx 1 })))) ∧
    (∀ (frame : List Byte) (fcs : BitVec 32),
      let i := Instr.ethernetReceive eth frame fcs
      let good := decide (fcs = crc32 frame)
      let dropped := fun (t : State) => t.setEport n { t.eport n with drop := satAdd (t.eport n).drop 1 }
      let fits := 60 ≤ frame.length ∧ frame.length ≤ 9212 ∧ (frame.drop 12).take 2 ≠ [0x88, 0x08]
      (e.rate = 0 → s.gives i s) ∧
      (e.rate ≠ 0 → good = false → s.gives i (s.setEport n { e with fcs := satAdd e.fcs 1 })) ∧
      (e.rate ≠ 0 → good = true → ¬ fits → s.gives i (dropped s)) ∧
      (e.rate ≠ 0 → good = true → fits →
        let all := bitAt (frame.headD 0) 0
        let l := (List.range 17).filter (fun p => all || decide (frame.take 6 = mac p))
        let r := l.foldl (fun (x : State × Bool) p => ((x.1.ethAsk n p).1, x.2 || (x.1.ethAsk n p).2)) (s, false)
        (r.2 = true → s.gives i r.1) ∧
        (r.2 = false → s.gives i
          (l.foldl (fun t p => t.ethInto n p frame) (r.1.setEport n { r.1.eport n with rx := satAdd (r.1.eport n).rx 1 }))))) ∧
    (∀ (t0 : State) (frame : List Byte) (p : Nat),
      let s1 := t0.ethRefresh n p
      let pair := s1.epair n p
      let slot := pair.rxb + w (16 * (pair.rpos % 2 ^ field pair.ctl 16 4))
      let dropped := fun (t : State) => t.setEport n { t.eport n with drop := satAdd (t.eport n).drop 1 }
      (s1.ethPlace n p = none ∨ bitAt pair.ctl 0 = false → t0.ethInto n p frame = s1) ∧
      (∀ a b, s1.ethPlace n p = some (a, b) → bitAt pair.ctl 0 = true →
        (pair.rxdb.toNat ≤ pair.rpos → t0.ethInto n p frame = dropped s1) ∧
        (pair.rpos < pair.rxdb.toNat → ∀ t l, s1.ethGet n p slot 16 = (t, .bytes l) →
          let size := w (ofBytes (l.drop 8))
          let buf := w (ofBytes (l.take 8))
          (field size 0 14 < frame.length → t0.ethInto n p frame = (dropped t).forget (.eth n p)) ∧
          (frame.length ≤ field size 0 14 → t.rangeBad p buf frame.length true true = none →
            let t1 := t.ethPut n p buf frame
            let t2 := t1.ethPut n p (slot + 8) (toBytes 8 (putField (putField size 0 14 frame.length) 15 1 1).toNat)
            t0.ethInto n p frame = ((t2.setEpair n p { pair with rpos := pair.rpos + 1 }).forget (.eth n p)).signal n (64 * b + 63) 0
              (w (pair.rpos + 1))))))

/-! ## Power, clocks and temperature (R366 to R377) -/

/-- R366 to R375 and Table 17.1: an input sample sets PWR_INPUT (units of 10 mV and 10 mA), starts or ends the fast current limit
at ILIM, and an excursion outside 64 to 80 V of more than 1 ms is logged when it ends; 10 µs outside 60 to 82 V remove
power from every domain but STW.AON. An idle cluster enters OFF and keeps no state but ENGMASK, an idle L2 half is
flushed before it does, and with both halves OFF the die's memory controllers are PARKED. The point in force comes to
the effective point; the cap steps down above CAP and up after 100 evaluations below 0.95 CAP, each step 10 ms apart. The model's
choices (log 53): the power that counts is the mean of the input samples of 10 ms, an excursion is recorded when it ends, inrush
clamps a sample to 5 A, and parked controllers put their channels into self-refresh; what a loss of power leaves for ALERT# is
log 54's. -/
def Obligations.PowerFollowsItsInputs : Prop :=
  ∀ (s : State),
    (∀ mv ma : BitVec 16,
      let v := s.inputMv mv.toNat
      let first := s.pmem.inrush = true ∧ mv.toNat < 6400
      let amp := if first then min ma.toNat 500 else ma.toNat
      let lim := 100 * min s.pwr.ilim 45
      let out := v < 6400 ∨ 8000 < v
      ∃ t : State, s.gives (.inputSample mv ma) t ∧ t.pwr = { s.pwr with mv := v, ma := amp } ∧
        (t.pmem.inrush = true ↔ first) ∧
        t.pmem.power = (s.now, v * amp) :: s.pmem.power.filter (fun e => decide (s.now < e.1 + 250000)) ∧
        t.pmem.inOvr = overNow s.now s.pmem.inOvr ∧
        t.pmem.fcl = (s.pmem.fcl || decide (lim < amp)) ∧
        t.pmem.below = (if lim < amp then none else if s.pmem.fcl = true ∧ amp < lim - 200
          then some (s.pmem.below.getD s.now) else none) ∧
        t.pmem.badIn = (if v < 6000 ∨ 8200 < v then some (s.pmem.badIn.getD s.now) else none) ∧
        t.pmem.outIn = (if out then some (s.pmem.outIn.getD s.now) else none) ∧
        (out → t.pmem.extreme = if s.pmem.outIn = none then v else if v < 6400 then min s.pmem.extreme v else max s.pmem.extreme v) ∧
        t.svc = (match s.pmem.outIn with
          | some b => if ¬ out ∧ b + 25000 < s.now
              then (s.log 0x60 31 2 s.pmem.inOvr.isSome [BitVec.ofNat 64 s.pmem.extreme, BitVec.ofNat 64 (s.now - b)]).svc else s.svc
          | none => s.svc) ∧
        { t with pwr := s.pwr, pmem := s.pmem, svc := s.svc } = s) ∧
    (let off : State := { s.cold with
       pwr := { s.cold.pwr with dom := offDoms, tcrit := s.pwr.tcrit }
       svc := { s.cold.svc with health := s.svc.health }
       pmem := { s.cold.pmem with lost := true } }
     let due := ∃ b, s.pmem.badIn = some b ∧ b + 250 ≤ s.now
     (due → s.pins.pwrgd = true → s.gives .powerLoss { off with pins := { s.pins with pwrgd := false } }) ∧
     (¬ due ∨ s.pins.pwrgd = false → s.gives .powerLoss s) ∧
     (off.mem = {} ∧ off.cores = [] ∧ off.pins = s.pins ∧ off.pwr.temps = s.pwr.temps ∧ off.svc.health = s.svc.health ∧ off.pmem.trip = s.pmem.trip ∧
       (s.sec.fwProg = none → s.sec.calProg = none → s.svc.uncom = [] → off.flash = s.flash) ∧
       (s.flushDue = false → off.svc.spill = s.svc.spill.filter (fun r => decide (r.crc = r.sum))) ∧
       ∀ n, n < 30 → off.dom n = if n = 24 then .on else .off)) ∧
    (let due := s.pmem.fcl = true ∧ ∃ b, s.pmem.below = some b ∧ b + 2500 ≤ s.now
     (due → s.gives .fastCurrentLimitEnd { s with pmem := { s.pmem with fcl := false, below := none } }) ∧
     (¬ due → s.gives .fastCurrentLimitEnd s)) ∧
    (∀ c : Fin 16,
      let due := s.clusterQuiet c.val = true ∧ ∃ b, tget none s.pmem.clIdle c.val = some b ∧
        b + 25 * max 1 (field s.pwr.clctl 16 16) ≤ s.now
      (¬ due → s.gives (.clusterOff c) s) ∧
      (due → ∃ t : State, s.gives (.clusterOff c) t ∧ t.dom (12 * (c.val / 8) + c.val % 8) = .off ∧
        (∀ i, i < 8 → t.core (8 * c.val + i) = { Core.reset with
          cr := { Core.reset.cr with engmask := (s.core (8 * c.val + i)).cr.engmask }
          cycBase := (s.die (c.val / 8)).cyc }) ∧
        (∀ i, i / 8 ≠ c.val → t.core i = s.core i) ∧ t.stitcher c.val = {} ∧ (t.cluster c.val).tlb = [] ∧ t.mem = s.mem ∧
        t.out = s.out)) ∧
    (∀ (die : DieId) (half : Fin 2),
      let d := die.val
      let me := 12 * d + 8 + half.val
      let due := s.halfQuiet d = true ∧ s.dom me = .on ∧ ∃ b, tget none s.pmem.l2Idle d = some b ∧
        b + 25000 * max 1 (field s.pwr.clctl 32 8) ≤ s.now
      let t := s.flushHalf d half.val
      let dom1 := tset .on t.pwr.dom me .off
      let both := tget .on dom1 (12 * d + 8 + (1 - half.val)) = .off
      (¬ due → s.gives (.l2HalfOff die half) s) ∧
      (due → ¬ both → s.gives (.l2HalfOff die half) { t with pwr := { t.pwr with dom := dom1 } }) ∧
      (due → both → s.gives (.l2HalfOff die half)
        { t.parkChans d with pwr := { t.pwr with dom := tset .on dom1 (12 * d + 11) .parked } }) ∧
      (∀ n, n < 128 → (t.parkChans d).chan (128 * d + n) =
        if (t.chan (128 * d + n)).state = 1 then (t.chan (128 * d + n)).rest t.now else t.chan (128 * d + n))) ∧
    (∀ n : Fin 30,
      let d := n.val / 12
      let cl := n.val < 24 ∧ n.val % 12 < 8
      let dark := s.pmem.lost = true ∨
        (n.val < 24 ∧ n.val % 12 < 10 ∧ (s.pmem.held = true ∨ s.modsLeft (1 + d) = 0)) ∨
        (s.pmem.held = true ∧ s.sec.st ≠ .hold ∧ ((n.val < 24 ∧ 10 ≤ n.val % 12) ∨ 26 ≤ n.val)) ∨
        (cl ∧ (s.cluster (8 * d + n.val % 12)).retired = true) ∨ (26 ≤ n.val ∧ s.modsLeft (n.val - 23) = 0)
      let t : State := { s with
        pwr := { s.pwr with dom := tset .on s.pwr.dom n.val .on }
        pmem := { s.pmem with upAt := tset 0 s.pmem.upAt n.val s.now } }
      (s.dom n.val = .on ∨ dark → s.gives (.domainWake n) s) ∧
      (s.dom n.val ≠ .on → ¬ dark → ¬ cl → s.gives (.domainWake n) t) ∧
      (s.dom n.val ≠ .on → ¬ dark → cl → s.gives (.domainWake n) ((List.range 8).foldl (fun u i =>
        u.setCore (8 * (8 * d + n.val % 12) + i) { u.core (8 * (8 * d + n.val % 12) + i) with cycBase := (s.die d).cyc }) t))) ∧
    s.gives .dvfsChange { s with
      pwr := { s.pwr with eff := max (max s.pwr.req s.pwr.capPt) (max s.pwr.therm (if s.pwr.calMax then 1 else 0)) } } ∧
    (let l := s.pmem.power.filter (fun e => decide (s.now < e.1 + 250000))
     let sum := (l.map Prod.snd).sum
     let cap := 10000 * l.length * s.pwr.cap
     let k := if 100 * sum < 95 * cap then s.pmem.lowN + 1 else 0
     let due := s.pmem.capAt + 25000 ≤ s.now
     let gives := fun (pt steps hold : Nat) => s.gives (.capEvaluation ()) { s with
       pwr := { s.pwr with avgw := sum / (10000 * l.length), capPt := pt, capSteps := steps }
       pmem := { s.pmem with lowN := k, hold := hold, capAt := s.now } }
     let up := satAdd s.pwr.capSteps 1
     (¬ due → s.gives (.capEvaluation ()) s) ∧
     (due → s.now < s.pmem.hold → gives s.pwr.capPt s.pwr.capSteps s.pmem.hold) ∧
     (due → s.pmem.hold ≤ s.now → cap < sum → s.pwr.capPt < 3 → gives (s.pwr.capPt + 1) up (s.now + 250000)) ∧
     (due → s.pmem.hold ≤ s.now → sum ≤ cap → 100 ≤ k → 0 < s.pwr.capPt → gives (s.pwr.capPt - 1) up (s.now + 250000)) ∧
     (due → s.pmem.hold ≤ s.now → (cap < sum → 3 ≤ s.pwr.capPt) → (k < 100 ∨ s.pwr.capPt = 0) →
       gives s.pwr.capPt s.pwr.capSteps s.pmem.hold))

/-- R376, R377, Table 17.4: the readings are kept; one of 120 °C or more removes power, latches its sensor and drives THERMTRIP#;
else, while there is power, the hottest sensor, the lowest-numbered on a tie, and the hottest package decide whether the
thermal point steps down, at once and then each 1 ms, or up after 100 ms of cool; reaching TCRIT is logged. That the trip compares the
raw readings and the throttle the overridden ones is the model's choice (log 53), as is what a loss of power keeps (log 54). -/
def Obligations.TemperatureLimitsThePoint : Prop :=
  ∀ (s : State),
    (∀ (l : List (BitVec 16)) (lp : BitVec 16), l.length = 42 →
      let i := Instr.sensorRead l lp
      let r := fun n => l.getD n 0
      (∀ n, n < 42 → (1920 : Int) ≤ (r n).toInt → (∀ m, m < n → (r m).toInt < 1920) → ∃ t : State, s.gives i t ∧
        t.pmem.lost = true ∧ t.pmem.trip = some (n, r n) ∧ t.pmem.tripInj = false ∧ t.pins = { s.pins with trip := true } ∧
        t.pwr.dom = offDoms ∧ (∀ m, m < 42 → tget 0 t.pwr.temps m = s.sensed m (r m)) ∧ t.pwr.tcrit = s.pwr.tcrit ∧
        t.svc.health = s.svc.health ∧ (s.sec.fwProg = none → s.sec.calProg = none → s.svc.uncom = [] → t.flash = s.flash) ∧ t.mem = {}) ∧
      ((∀ n, n < 42 → (r n).toInt < 1920) → s.pmem.lost = true → ∃ t : State, s.gives i t ∧
        (∀ n, n < 42 → tget 0 t.pwr.temps n = s.sensed n (r n)) ∧
        t = { s with pwr := { s.pwr with temps := t.pwr.temps, lpddr := lp }, pmem := { s.pmem with sensOvr := t.pmem.sensOvr } }) ∧
      ((∀ n, n < 42 → (r n).toInt < 1920) → s.pmem.lost = false →
        let v := fun n => s.sensed n (r n)
        ∀ h, h < 42 → (∀ n, n < 42 → (v n).toInt ≤ (v h).toInt) → (∀ n, n < h → (v n).toInt < (v h).toInt) →
          let x := (v h).toInt
          let lpC := lp.toInt
          let thr : Int := s.pwr.tthrot
          let crt : Int := s.pwr.tcrit
          let hot := 16 * thr ≤ x ∨ 95 ≤ lpC
          let cool := x < 16 * (thr - 5) ∧ lpC < 90
          let crit := 16 * crt ≤ x ∨ (s.pmem.crit = true ∧ 16 * (crt - 5) ≤ x)
          ∃ t : State, s.gives i t ∧ (∀ n, n < 42 → tget 0 t.pwr.temps n = v n) ∧
            t.pwr = { s.pwr with temps := t.pwr.temps, lpddr := lp } ∧ (t.pmem.hot = true ↔ hot) ∧ (t.pmem.crit = true ↔ crit) ∧
            (∀ n, n < 42 → tget none t.pmem.sensOvr n = overNow s.now (tget none s.pmem.sensOvr n)) ∧
            (t.pmem.logged = true ↔ s.pmem.logged = true ∧ hot) ∧
            (cool → t.pmem.cool = some (s.pmem.cool.getD s.now)) ∧ (¬ cool → t.pmem.cool = none) ∧
            (hot → t.pmem.stepAt = s.pmem.stepAt) ∧ (¬ hot → t.pmem.stepAt = none) ∧
            (crit → s.pmem.crit = false → t.svc = (s.log 0x62 31 2 (overNow s.now (tget none s.pmem.sensOvr h)).isSome
              [BitVec.ofNat 64 h, BitVec.ofNat 64 (sensorDie h), (v h).signExtend 64]).svc) ∧
            (¬ crit ∨ s.pmem.crit = true → t.svc = s.svc) ∧ { t with pwr := s.pwr, pmem := s.pmem, svc := s.svc } = s)) ∧
    (let m := s.pmem
     let due := ∀ b, m.stepAt = some b → b + 25000 ≤ s.now
     let steps := fun (pt : Nat) (m' : PwrMem) =>
       ({ s with pwr := { s.pwr with therm := pt, thSteps := satAdd s.pwr.thSteps 1 }, pmem := m' } : State)
     let down := steps (s.pwr.therm + 1) { m with stepAt := some s.now, logged := true }
     let h := s.hottest
     (m.hot = true → s.pwr.therm < 3 → due → m.logged = true → s.gives .thermalStep down) ∧
     (m.hot = true → s.pwr.therm < 3 → due → m.logged = false → s.gives .thermalStep
       (down.log 0x61 31 2 (tget none m.sensOvr h).isSome
         [BitVec.ofNat 64 h, BitVec.ofNat 64 (sensorDie h), (tget (0 : BitVec 16) s.pwr.temps h).signExtend 64,
          BitVec.ofNat 64 (s.pwr.therm + 1)])) ∧
     (m.hot = true → (3 ≤ s.pwr.therm ∨ ¬ due) → s.gives .thermalStep s) ∧
     (m.hot = false → ∀ b, m.cool = some b → b + 2500000 ≤ s.now → 0 < s.pwr.therm →
       s.gives .thermalStep (steps (s.pwr.therm - 1) { m with cool := some s.now })) ∧
     (m.hot = false → (s.pwr.therm = 0 ∨ ∀ b, m.cool = some b → s.now < b + 2500000) → s.gives .thermalStep s))

/-! ## Reset, boot, service and the test port (R377 to R422) -/

/-- R383, R385, R397, R408, R416, R417, R419, R420: PORST# low for 10 µs while PWRGD is high starts the device again with the straps
it samples and the steward alone on; main memory and every register start afresh, the flash and the programmed records
whose CRC holds stay, as do committed retirements, a slot being programmed is left with no GEN, and a shorter pulse does all that or nothing (free,
log 5). Power-up starts STW.AON and nothing else, with PORST# low and inrush limited. That PORST does nothing while PWRGD is low, that
POWER_UP starts the always-on time at 0, and that the sensor readings stay over a reset are the model's choice (log 54). -/
def Obligations.ResetStartsTheDevice : Prop :=
  ∀ (s : State) (ticks : Nat) (fcfg : BitVec 30) (hmode : BitVec 4) (dbgen : Bool),
    let i := Instr.porst ticks fcfg hmode dbgen
    let kept := fun (t : State) =>
      (s.sec.fwProg = none → s.sec.calProg = none → s.svc.uncom = [] → t.flash = s.flash) ∧
      (∀ e ∈ s.flash.retire, bitAt e 31 = false → ∃ x ∈ t.flash.retire, field x 0 30 = field e 0 30 ∧ bitAt x 31 = false) ∧
      (∀ n, s.sec.fwProg = some n → 4096 ≤ n → imgGen (t.flash.slot (1 - s.sec.slot)) = 0xFFFFFFFF) ∧
      (s.flushDue = false → t.svc.spill = s.svc.spill.filter (fun r => decide (r.crc = r.sum))) ∧
      (∀ r ∈ t.svc.spill, r.crc = r.sum ∧ r.seqNo < t.svc.seqNo)
    let again := fun (t : State) =>
      t.mem = {} ∧ t.cores = [] ∧ t.clusters = [] ∧ t.own = {} ∧ t.tasks = [] ∧ t.aper = [] ∧ t.answers = [] ∧ t.fab = {} ∧
      t.sec = {} ∧ kept t ∧ t.svc.pend = [] ∧ t.svc.health = 0 ∧
      (∀ n, n < 30 → t.dom n = if n = 24 ∨ n = 25 then .on else .off) ∧ t.pmem.held = true ∧ t.pmem.lost = false ∧
      t.pmem.trip = s.pmem.trip ∧ tget 0 t.pmem.upAt 25 = s.now ∧
      t.pins = { s.pins with fcfg := fcfg, hmode := hmode, dbgen := dbgen, low := false, trip := false } ∧
      (∀ n, n < 4 → t.hport n = { root := bitAt hmode n }) ∧ t.now = s.now ∧ t.out = s.out ∧
      t.pwr = { dom := t.pwr.dom, temps := s.pwr.temps } ∧ t.svc.evalAt = s.now
    (s.pins.pwrgd = false → s.gives i s) ∧
    (s.pins.pwrgd = true → 250 ≤ ticks → ∃ t : State, s.gives i t ∧ again t) ∧
    (s.pins.pwrgd = true → ticks < 250 → ∃ t : State, s.gives i t ∧
      (t = { s with freeCtr := s.freeCtr + 1 } ∨ again t)) ∧
    (let up := s.pins.pwrgd = false ∧ s.pmem.lost = true
     (¬ up → s.gives .powerUp s) ∧
     (up → ∃ t : State, s.gives .powerUp t ∧ t.now = 0 ∧ t.svc.evalAt = 0 ∧ t.pmem = { lost := true, inrush := true } ∧ kept t ∧ t.mem = {} ∧
       t.cores = [] ∧ t.sec = {} ∧ (∀ n, n < 30 → t.dom n = if n = 24 then .on else .off) ∧
       t.pins = { s.pins with pwrgd := true, low := true, trip := false }))

/-- R377, R381, R382, R384 to R388, R391: the ROM tries the slot with the higher GEN first, A on a tie, runs the first that passes
its checks with its measurements, records every rejection, and with neither valid enters RECOVERY, where SEC_RECOV has the
buffered image checked, written to slot A with GEN 1, or cleared. Firmware loads the calibration set or its defaults, takes
the signing position of the newer valid record, powers the link dies and the memory, trains the channels, reports a trip,
and holds while the junctions are hot; then it applies the retirements, releases every cluster that is not out of service
and has its engines tested. READY comes once those tests have run; it makes the boot queue, starts the wired ports, commits MINSVN
and records BOOT. A signature that needs a leaf record is released once the record is programmed, which is completed even where
PART_DESTROY has ended its ATTEST. The model's choices: how an image's fields compare, when each domain is powered, where the boot
queue lies, and which ports READY starts (log 54); the layouts of the set and of the records (log 34). -/
def Obligations.BootRunsItsStages : Prop :=
  ∀ (s : State),
    let f := s.flash
    let img := fun n => imgBad f.minsvn (f.slot n) false false
    (s.sec.st ≠ .rom ∨ s.pmem.lost = true → s.gives .romBoot s) ∧
    (s.sec.st = .rom → s.pmem.lost = false → s.svc.bootSlot = 0 → ∀ a b, a + b = 1 →
      (a = 0 ↔ imgGen (f.slot 1) ≤ imgGen (f.slot 0)) →
      let reject := fun (t : State) (n c : Nat) =>
        ({ t with sec := { t.sec with rejA := t.sec.rejA || decide (n = 0), rejB := t.sec.rejB || decide (n = 1) } } : State).log 0x71 31 2
          false [BitVec.ofNat 64 n, BitVec.ofNat 64 c]
      (img a = none → s.gives .romBoot (s.runSlot a)) ∧
      (∀ c, img a = some c → img b = none → s.gives .romBoot ((reject s a c).runSlot b)) ∧
      (∀ c d, img a = some c → img b = some d →
        let t := reject (reject s a c) b d
        s.gives .romBoot { t with sec := { t.sec with st := .recovery } })) ∧
    (∀ n, let t := s.runSlot n
      t.sec.st = .firmware ∧ t.sec.slot = n ∧ t.sec.gen = imgGen (f.slot n) ∧ t.sec.svn = imgSvn (f.slot n) % 256 ∧
        t.sec.commit = imgCommit (f.slot n) ∧ (∀ k ∈ [0, 1, 3], ∃ d, tget 0 t.sec.meas k =
          digest (toBytes 32 (tget (0 : BitVec 256) s.sec.meas k).toNat ++ d)) ∧ tget 0 t.sec.meas 2 = tget 0 s.sec.meas 2) ∧
    (∀ v : Word,
      let b := (List.range (2 ^ 25)).map (fun i => tget 0 s.sec.buf i)
      let bad := imgBad f.minsvn (flashOf b) true false
      let good := flashOf (b.take 8 ++ toBytes 8 1 ++ ((b.drop 16).take (4080 + imgLen (flashOf b))))
      (s.sec.st ≠ .recovery → s.gives (.secRecovWrite v) s) ∧
      (s.sec.st = .recovery → bad ≠ none → s.gives (.secRecovWrite v) { s with sec := { s.sec with buf := [] } }) ∧
      (s.sec.st = .recovery → bad = none → s.gives (.secRecovWrite v) { s with
        flash := { f with slots := tset [] f.slots 0 good }
        sec := { s.sec with st := .rom, buf := [], rejA := false, rejB := false } })) ∧
    (let s2 := s.bootStage2
     let held := fun (t : State) => ({ t with sec := { t.sec with st := .hold } } : State)
     (s.sec.st = .firmware → s.sec.booted = false →
       (s2.tooHot = true → s.gives .firmwareBoot (held s2)) ∧ (s2.tooHot = false → s.gives .firmwareBoot s2.bootRelease)) ∧
     (s.sec.st = .hold → (s.tooHot = true → s.gives .firmwareBoot (held s)) ∧ (s.tooHot = false → s.gives .firmwareBoot s.bootRelease)) ∧
     ((s.sec.st = .firmware ∧ s.sec.booted = true) ∨ (s.sec.st ≠ .firmware ∧ s.sec.st ≠ .hold) → s.gives .firmwareBoot s) ∧
     (s.tooHot = true ↔ ∃ n, n < 42 ∧ (1760 : Int) ≤ (tget (0 : BitVec 16) s.pwr.temps n).toInt) ∧
     (let good := s.svc.bootCal = false ∧ calCheck f.cal = none
      let from_ := fun n => s2.sec.next = n ∧ s2.sec.fin = n
      (s2.sec.calV = true ↔ good) ∧ (s2.sec.calBad = true ↔ ¬ good) ∧ (s2.pwr.calMax = true ↔ ¬ good) ∧
      (good → s2.pwr.tthrot = calThrot f.cal ∧ s2.pwr.tcrit = calCrit f.cal) ∧ (¬ good → s2.pwr.tthrot = 100 ∧ s2.pwr.tcrit = 110) ∧
      (∀ n r, f.leaf n = some r ↔ tget none f.leafs n = some r ∧ r.crc = crc32 (toBytes 8 r.seqNo ++ toBytes 8 r.fin)) ∧
      (∀ a b, f.leaf 0 = some a → f.leaf 1 = some b → from_ (if a.seqNo < b.seqNo then b.fin else a.fin)) ∧
      (∀ a, f.leaf 0 = some a → f.leaf 1 = none → from_ a.fin) ∧ (∀ b, f.leaf 0 = none → f.leaf 1 = some b → from_ b.fin) ∧
      (f.leaf 0 = none → f.leaf 1 = none → from_ 0) ∧
      (s.pmem.held = true → ∀ n ∈ [10, 11, 22, 23, 26, 27, 28, 29], s2.dom n = .on) ∧
      (∀ n, n < 256 → (s2.chan n).state = if Config.chanFails n then 3 else 1) ∧ s2.pmem.trip = none) ∧
     (let t := s.bootRelease
      let dom := fun (c : Nat) => t.dom (12 * (c / 8) + c % 8)
      t.sec.booted = true ∧ t.sec.st = .firmware ∧ t.pmem.held = false ∧
      (∀ e ∈ f.retire, bitAt e 31 = false → ∀ c, field e 0 30 = 0x38000000 + c → (t.cluster c).retired = true) ∧
      (∀ c, c < 16 → (t.cluster c).retired = true → dom c = .off) ∧
      (s.pmem.held = true → ∀ c, c < 16 → (t.cluster c).retired = false → t.modsLeft (1 + c / 8) ≠ 0 → dom c = .on) ∧
      (∀ n, n < 512 → (n ∈ t.svc.katEng ↔ (t.cluster (n / 32)).retired = false ∧ t.modsLeft (1 + n / 256) ≠ 0 ∧
        bitAt (t.core (n / 4)).cr.engmask (n % 4) = true)))) ∧
    (s.sec.st ≠ .firmware ∨ s.sec.booted = false ∨ (∃ c, c < 128 ∧ s.katBusy c = true) → s.gives .ready s) ∧
    (s.sec.st = .firmware → s.sec.booted = true → (∀ c, c < 128 → s.katBusy c = false) → ∃ t : State, s.gives .ready t ∧ t.sec = { s.sec with st := .ready } ∧
      t.flash.minsvn = (if s.sec.commit = true ∧ f.minsvn < s.sec.svn then s.sec.svn else f.minsvn) ∧
      (∀ n, n < 4 → (s.hport n).root = false → (∀ m, m < n → (s.hport m).root = true) →
        t.queue ⟨0, 0, 0⟩ = { cfg := 0x8808, qbase := BitVec.ofNat 64 (0x100000000000 + 0x40000000000 * n),
                              qrbase := BitVec.ofNat 64 (0x100000000000 + 0x40000000000 * n + 0x4000) }) ∧
      (s.badCfg = false → ∀ n, n < 8 → (s.partner s.devid n).isSome = true → (s.fport n).st = .disabled →
        s.modsLeft (3 + n / 2) ≠ 0 → (t.fport n).st = .training) ∧
      t.mem = s.mem ∧ t.out = s.out) ∧
    (let up := s.sec.tree ≤ s.sec.next / 2 ^ 20
     let t : State := { s with sec := { s.sec with tree := s.sec.tree + 1 } }
     let signed := fun (e : QId × Pkt) => e.2.work.head? = some 1
     (¬ up → s.gives .bottomTreeBuilt s) ∧ (up → (∀ e ∈ t.opPkts [0x48], signed e) → s.gives .bottomTreeBuilt t) ∧
     (∀ l q p l2, up → t.opPkts [0x48] = l ++ (q, p) :: l2 → (∀ e ∈ l, signed e) → ¬ signed (q, p) →
       s.gives .bottomTreeBuilt (t.attest q p))) ∧
    (let signed := fun (e : QId × Pkt) => e.2.work.head? = some 1
     let fin := s.sec.fin + 1024
     (s.sec.leafProg = none → s.gives .leafReserve s) ∧
     (∀ k n, s.sec.leafProg = some (k, n) →
       let rec_ : LeafRec := { seqNo := n, fin := fin, crc := crc32 (toBytes 8 n ++ toBytes 8 fin) }
       let t : State := { s with
         flash := { f with leafs := tset none f.leafs k (some rec_) }
         sec := { s.sec with fin := fin, leafProg := none } }
       let u := t.log 0x75 31 2 false [BitVec.ofNat 64 n, BitVec.ofNat 64 fin]
       ((∀ e ∈ u.opPkts [0x48], ¬ signed e) → s.gives .leafReserve u) ∧
       (∀ l q p l2, u.opPkts [0x48] = l ++ (q, p) :: l2 → (∀ e ∈ l, ¬ signed e) → signed (q, p) →
         s.gives .leafReserve (u.putResult q p (p.word 0).toNat
           (((p.work.drop 1).flatMap (fun w => toBytes 8 w.toNat)).take 3860) 0))) ∧
     s.leafStart = { s with
       flash := { f with leafs := tset none f.leafs f.leafOld none }
       sec := { s.sec with leafProg := some (f.leafOld, f.leafSeq) } } ∧
     (∀ a b, f.leaf 0 = some a → f.leaf 1 = some b → f.leafOld = (if a.seqNo < b.seqNo then 0 else 1) ∧
       f.leafSeq = max a.seqNo b.seqNo + 1))

/-- R395, R396, R397, R401 to R410, Tables 19.4 and 19.6: a record takes the next SEQ, or is counted as lost while 255 are pending; a
flush programs them and says how many were lost. A bad injection sets BAD and arms nothing, a good one replaces what is
armed. A known-answer test runs those of a core's engines whose test is due and wakes their cluster: an engine fails a pass where a
cell that the pass writes reads otherwise than MUL or the image's table has it; one that failed is tested again, and a second
failure in a row retires it, with its first failing pass and cell in the record; the test that follows a RESET ends it. A commit programs the oldest entry, records it and lets
HEALTH report it. The
reports of corrected errors of a unit make at most one record a second, and a connection whose last module is lost takes
its die or its ports out of service. The health
state follows its triggers. RESET leaves a core that runs a task alone and starts any other at F; RESTART resumes a halted
core; DBGREQ pends IP bit 5. The model's choices: which rows and ticks fire what, and what HEALTH counts from when (log 55); the
words of the records (log 18); the table of the complex passes and the lanes of the patterns (logs 6, 71). -/
def Obligations.ServiceRecordsInjectsAndRetires : Prop :=
  ∀ (s : State),
    (∀ (type : Byte) (part : BitVec 5) (src : BitVec 3) (l : List Word), l.length ≤ 5 →
      let i := Instr.logRecord type part src l
      let time := if src.toNat ≤ 1 then s.now - (s.die src.toNat).unc else if src = 2 then s.now
        else s.now - tget 0 s.pmem.upAt (22 + src.toNat)
      let r : LogRec := { seqNo := s.svc.seqNo, type := type, inj := false, part := part.toNat, src := src.toNat, time := time,
                          payload := l }
      let t : State := { s with svc :=
        if s.svc.pend.length < 255 then { s.svc with pend := s.svc.pend ++ [r], seqNo := s.svc.seqNo + 1 }
        else { s.svc with lost := min (s.svc.lost + 1) (2 ^ 64 - 1), lostRec := s.svc.lostRec + 1 } }
      let c := (l.headD 7).toNat
      let u : State := { t with svc := { t.svc with mods := tset 0 t.svc.mods c (min (modules c) (tget 0 t.svc.mods c + 1)) } }
      (type ≠ 0x80 → type ≠ 0x86 ∨ 6 < c → s.gives i t) ∧
      (type = 0x86 → l ≠ [] → c ≤ 6 →
        (u.modsLeft c ≠ 0 ∨ c = 0 → s.gives i u.healthCheck) ∧
        (u.modsLeft c = 0 → 1 ≤ c → c ≤ 2 → s.gives i
          ((List.range 8).foldl (fun v x => v.clusterDown (8 * (c - 1) + x)) u).healthCheck) ∧
        (u.modsLeft c = 0 → 3 ≤ c → ∃ v : State, s.gives i v.healthCheck ∧
          (v.fport (2 * (c - 3))).st = .disabled ∧ (v.fport (2 * (c - 3) + 1)).st = .disabled ∧
          (c % 2 = 1 → (tget {} v.fab.eth ((c - 3) / 2)).rate = 0) ∧ (c % 2 = 0 → v.dom (26 + (c - 3)) = .off))) ∧
      (∀ kind inst n addr : Word, type = 0x80 → l = [kind, inst, n, addr] →
        let key := 65536 * (kind.toNat + 1) + inst.toNat % 65536
        let old := tget (none, 0) s.svc.coal key
        let recent := ∃ x, old.1 = some x ∧ s.now - x < 25000000
        let keep := fun (x : Option Nat × Nat) =>
          ({ s with svc := { s.svc with coal := tset (none, 0) s.svc.coal key x } } : State)
        (recent → s.gives i (keep (old.1, old.2 + n.toNat))) ∧
        (¬ recent → s.gives i ((keep (some s.now, 0)).log 0x80 part.toNat src.toNat false
          [kind, inst, BitVec.ofNat 64 (old.2 + n.toNat), addr])))) ∧
    (let due := s.svc.flushAt + 25000000 ≤ s.now ∨ 255 ≤ s.svc.pend.length ∨ ∃ r ∈ s.svc.pend, severe r.type = true
     let t : State := { s with svc := { s.svc with
       spill := (s.svc.pend.map (fun r => { r with crc := r.sum })).foldl spillAdd s.svc.spill
       pend := []
       flushAt := s.now
       lostRec := 0 } }
     (¬ due → s.gives .logFlush s) ∧ (due → s.svc.lostRec = 0 → s.gives .logFlush t) ∧
     (due → s.svc.lostRec ≠ 0 → s.gives .logFlush (t.log 0x8D 31 2 false [BitVec.ofNat 64 s.svc.lostRec])) ∧
     (∀ (l : List LogRec) (r : LogRec), spillAdd l r =
       (if r.seqNo % 64 = 0 then l.drop (l.length - (1043456 - 64)) else l) ++ [r])) ∧
    (∀ (u : Fin 8) (v : Word), u.val ≠ 3 →
      let b := s.injBlk u.val
      let point := field b.point 0 8
      let inst := field b.point 16 16
      let full := (point = 5 ∨ point = 6 ∨ point = 7 ∨ point = 9) ∧ 256 ≤ b.kept.length
      let ok := injValid u.val point inst b.arg = true ∧ ¬ full
      let old := match b.armed with
        | some a => if a.hit then s else s.log 0x8C 31 u.val true [BitVec.ofNat 64 a.point, BitVec.ofNat 64 a.inst, a.arg, 1]
        | none => s
      let n := if point = 8 then field b.arg 16 16 else if point = 0xB ∨ point = 0xC then b.arg.toNat else 1
      let t := old.setInj u.val { b with
        armed := if n = 0 then none else some { point := point, inst := inst, arg := b.arg, left := n } }
      (¬ ok → s.gives (.injGoWrite u v) (s.setInj u.val { b with bad := true })) ∧
      (ok → firesNow point = false → s.gives (.injGoWrite u v) t) ∧
      (ok → firesNow point = true → s.gives (.injGoWrite u v) (t.injNow u.val point inst b.arg))) ∧
    (∀ (core : CoreId) (cells : List KatCell) (scalar vector : Bool),
      let c := core.val
      let i := Instr.knownAnswerTest core ⟨cells, scalar, vector⟩
      let wrong := fun (e p : Nat) (x : KatCell) => x ∈ cells ∧ x.engine.val = e ∧ x.pass.val = p ∧
        katWrites p x.cell.toNat = true ∧ x.read ≠ katAnswer p x.cell.toNat
      let mine := fun (t : State) n => n < 512 ∧ n / 4 = c ∧ bitAt (t.core c).cr.engmask (n % 4) = true
      let l := s.katTests c
      let t1 := l.foldl (fun t n => t.katEngine n (katFirst cells (n % 4))) (s.wakeCluster (c / 8))
      let fails := scalar = true ∨ vector = true
      let again := fails ∧ tget 0 t1.svc.katFail (5 * c + 4) = 0
      let noted := if fails then t1.katNote (512 + c / 8) (if scalar then 0 else 1, 0) else t1
      let t2 := noted.katResult c 4 (scalar || vector)
      let t3 : State := if again then { t2 with svc := { t2.svc with katEng := t2.svc.katEng ++ l } } else t2
      let reset := c ∈ t3.svc.katDue ∧ ¬ again ∧ ∀ n, mine t3 n → n ∉ t3.svc.katEng
      let dom := 12 * (c / 64) + c / 8 % 8
      let idle := (s.core c).task ≠ none ∨ s.katBusy c = false ∨ (s.dom dom ≠ .on ∧ s.noPower dom = true)
      (s.katBusy c = true ↔ (c ∈ s.svc.katDue ∨ l ≠ []) ∧ (s.cluster (c / 8)).retired = false ∧ s.modsLeft (1 + c / 64) ≠ 0) ∧
      (∀ e, e < 4 → (katFirst cells e = none ↔ ∀ p x, ¬ wrong e p x) ∧
        ∀ p n, katFirst cells e = some (p, n) ↔ (∃ x, wrong e p x ∧ x.cell.toNat = n) ∧ (∀ x, wrong e p x → n ≤ x.cell.toNat) ∧
          ∀ p' x, p' < p → ¬ wrong e p' x) ∧
      (∀ n, n ∈ l ↔ mine s n ∧ (c ∈ s.svc.katDue ∨ n ∈ s.svc.katEng)) ∧
      (idle → s.gives i s) ∧
      (¬ idle → ¬ reset → s.gives i t3) ∧
      (¬ idle → reset → s.armedAt (c / 64) 0x13 = none → ∃ w : Word, s.gives i
        (({ t3 with svc := { t3.svc with katDue := t3.svc.katDue.erase c } } : State).log 0x8A 31 (c / 64) false
          [BitVec.ofNat 64 c, w]) ∧
        (∀ e p, e < 4 → p < 10 → (bitAt w (10 * e + p) = true ↔ ∃ x, wrong e p x)) ∧ bitAt w 40 = scalar ∧ bitAt w 41 = vector ∧
        field w 42 22 = 0) ∧
      (∀ (n : Nat) (bad : Option (Nat × Nat)), n < 512 → s.armedAt (n / 256) 0x13 = none →
        let t := s.katEngine n bad
        (bad = none → n ∉ t.svc.katEng ∧ tget 0 t.svc.katFail (5 * (n / 4) + n % 4) = 0 ∧ t.cores = s.cores) ∧
        (bad ≠ none → tget 0 s.svc.katFail (5 * (n / 4) + n % 4) = 0 → n ∈ t.svc.katEng ∧ t.cores = s.cores) ∧
        (bad ≠ none → tget 0 s.svc.katFail (5 * (n / 4) + n % 4) ≠ 0 → n ∉ t.svc.katEng ∧
          bitAt (t.core (n / 4)).cr.engmask (n % 4) = false) ∧
        (∀ v, bad = some v → tget (0, 0) t.svc.katPass n = v)) ∧
      (∀ e, e < 4 → tget 0 s.svc.katFail (5 * c + e) ≠ 0 →
        ((s.katResult c e true).core c).cr.engmask = (s.core c).cr.engmask &&& ~~~(1#4 <<< e) ∧
        tget 0 (s.katResult c e true).svc.katFail (5 * c + e) = 0) ∧
      (∀ e, e < 4 → tget 0 s.svc.katFail (5 * c + e) = 0 → (s.katResult c e true).cores = s.cores ∧
        tget 0 (s.katResult c e true).svc.katFail (5 * c + e) = 1) ∧
      (∀ e, tget 0 (s.katResult c e false).svc.katFail (5 * c + e) = 0 ∧ (s.katResult c e false).cores = s.cores)) ∧
    (s.svc.uncom = [] → s.gives .retirementCommit s) ∧
    (∀ e l, s.svc.uncom = e :: l →
      let n := field e 0 30
      let c := e &&& 0x7FFFFFFF#32
      let same := fun (x : BitVec 32) => decide (field x 0 30 = n) && !bitAt x 31
      let t : State := { s with
        flash := { s.flash with retire := if (∃ x ∈ s.flash.retire, same x = true)
          then s.flash.retire.map (fun x => if same x then c else x) else s.flash.retire ++ [c] }
        svc := { s.svc with uncom := l } }
      let d := if 4096 * n < 0x18000000000 then 0 else 1
      (0x38000000 ≤ n → s.gives .retirementCommit (t.log 0x88 31 ((n - 0x38000000) / 8 % 2) false
        [BitVec.ofNat 64 ((n - 0x38000000) / 8), BitVec.ofNat 64 ((n - 0x38000000) % 8),
          BitVec.ofNat 64 (tget (0, 0) s.svc.katPass (512 + (n - 0x38000000))).1]).healthCheck) ∧
      (0x30000000 ≤ n → n < 0x38000000 → ∀ x, tget (0, 0) s.svc.katPass (n - 0x30000000) = x → s.gives .retirementCommit
        (t.log 0x87 31 ((n - 0x30000000) / 256 % 2) false
          [BitVec.ofNat 64 (n - 0x30000000), BitVec.ofNat 64 x.1, BitVec.ofNat 64 x.2]).healthCheck) ∧
      (n < 0x30000000 → s.gives .retirementCommit (t.log 0x84 31 d false [BitVec.ofNat 64 d, BitVec.ofNat 64 (4096 * n),
        if bitAt e 30 then 0 else 1, BitVec.ofNat 64 (tget [] s.mem.retired d).length, 0]).healthCheck)) ∧
    (∀ n, s.reported n = true ↔ (∀ e ∈ s.svc.uncom, field e 0 30 ≠ n) ∨ ∃ e ∈ s.flash.retire, field e 0 30 = n ∧ bitAt e 31 = false) ∧
    (∀ n, s.engShown n = true ↔ bitAt (s.core (n / 4)).cr.engmask (n % 4) = false ∧ s.reported (0x30000000 + n) = true) ∧
    (∀ c, s.clShown c = true ↔ (s.cluster c).retired = true ∧ s.reported (0x38000000 + c) = true) ∧
    (∀ d r, r ∈ s.framesShown d → (∀ e ∈ s.svc.uncom, field e 0 30 ≠ r.frame) ∨ ∃ e ∈ s.flash.retire, field e 0 30 = r.frame ∧ bitAt e 31 = false) ∧
    (let t : State := { s with svc := { s.svc with
       events := s.svc.events.filter (fun e => decide (s.now - e.2 ≤ 2160000000000))
       evalAt := s.now } }
     let hour := 90000000000
     (s.svc.evalAt + hour ≤ s.now →
       s.gives .healthEvaluation ({ t with svc := { t.svc with rates := t.rateTrig } } : State).healthCheck) ∧
     (s.now < s.svc.evalAt + hour → s.gives .healthEvaluation s)) ∧
    (∃ hold : Nat × Nat, (∀ k, hold.1.testBit k = (s.trig.1.testBit k && [0, 1, 2, 3, 4, 8, 9, 11].contains k)) ∧
      (∀ k, hold.2.testBit k = (s.trig.2.testBit k && [0, 1, 2, 3, 4, 8, 9, 11].contains k)) ∧
      let u : State := { s with svc := { s.svc with stuck := hold } }
      let n := u.healthNow
      (n = s.svc.health → s.healthCheck = u) ∧ (n ≠ s.svc.health → s.healthCheck =
        ({ u with svc := { u.svc with health := n } } : State).log 0x8B 31 2 false
          [BitVec.ofNat 64 s.svc.health, BitVec.ofNat 64 n, BitVec.ofNat 64 u.triggers])) ∧
    (∀ core : CoreId,
      let c := core.val
      let k := s.core c
      (k.task ≠ none ∨ s.dom (12 * (c / 64) + c / 8 % 8) ≠ .on → s.gives (.dbgReset core) s) ∧
      (k.task = none → s.dom (12 * (c / 64) + c / 8 % 8) = .on → ∃ t : State, s.gives (.dbgReset core) t ∧
        t.core c = { Core.reset with
          cr := { Core.reset.cr with engmask := k.cr.engmask }
          cycBase := (s.die (c / 64)).cyc } ∧
        (∀ n, n ≠ c → t.core n = s.core n) ∧
        t.svc.katDue = (if c ∈ s.svc.katDue then s.svc.katDue else s.svc.katDue ++ [c]) ∧ t.mem = s.mem ∧ (∀ x ∈ t.answers, x.who ≠ .core c)) ∧
      (k.run = .halted → s.gives (.dbgRestart core) (s.setCore c { k with run := .running, pc := k.pc + 4 })) ∧
      (k.run ≠ .halted → s.gives (.dbgRestart core) s) ∧
      s.gives (.dbgreq core) (s.setCore c (wakeWfe (s.ctxOf c) { k with tc := { k.tc with ip := k.tc.ip ||| 0x20 } })))

/-- R4 to R7, R422, Tables 20.2 and 20.3: an aligned write of 8 or 4 bytes in a register space writes that register or half, any
other nothing; IDCODE, BYPASS and SAMPLE shift out what they name, PRELOAD sets the boundary register, EXTEST drives it while
PORST# is low, and REGACC reads or writes a register at level F, or shifts out ones unless DBGEN was sampled as 1; an access
wakes the domain that holds the register (R368). The model's choices: the order of the boundary register (log 33), what BYPASS and
the others answer (log 64), REGACC of no register as all ones (log 56), and that a register which only the steward writes
ignores REGACC's write (log 69). -/
def Obligations.TestPortAndRegisterWrites : Prop :=
  ∀ (s : State),
    let tap := fun (i : Tap) => ({ s with pins := { s.pins with tap := i } } : State)
    let tdo := fun (t : State) (w : Word) => ({ t with out := t.out ++ [.tdo w] } : State)
    (∃ id : Word, s.gives .idcode (tdo (tap .idcode) id) ∧ field id 0 12 = 0x38F ∧ field id 12 16 = 0x0C03 ∧
      field id 28 4 = Config.stepping.toNat % 16 ∧ field id 32 32 = 0) ∧
    s.gives .bypass (tdo (tap .bypass) 0) ∧
    (∃ w : Word, s.gives (.samplePreload none) (tdo (tap .sample) w) ∧ (∀ n, n < 30 → bitAt w n = bitAt s.pins.fcfg n) ∧
      (∀ n, n < 4 → bitAt w (30 + n) = bitAt s.pins.hmode n) ∧ bitAt w 34 = s.pins.dbgen ∧ bitAt w 35 = !s.pins.low) ∧
    (∀ l, s.gives (.samplePreload (some l)) { s with pins := { s.pins with tap := .sample, bsr := l } }) ∧
    (s.pins.low = true → s.gives .extest { tap .extest with out := s.out ++ [.drive s.pins.bsr] }) ∧
    (s.pins.low = false → s.gives .extest (tap .extest)) ∧
    (∀ (addr : BitVec 48) (v : Word),
      let a := addr.toNat
      let reg := fun (sp off : Nat) =>
        (sp < 2 ∧ a = 0xF00000000000 + 0x100000000 * sp + off ∧ off < 0x100000000) ∨ (sp = 2 ∧ a = 0xF01000000000 + off ∧ off < 0x100000000) ∨
        (4 ≤ sp ∧ sp < 8 ∧ a = 0xF02000000000 + 0x100000000 * (sp - 4) + off ∧ off < 0x100000000)
      let ones := tdo (tap .regacc) (BitVec.allOnes 64)
      let half : Word := 0xFFFFFFFF
      (∀ sp off, reg sp off →
        let awake := fun (t : State) => t.regWake sp off
        (off % 8 = 0 → s.gives (.registerWrite addr 8 v) ((awake s).regWrite sp off v (BitVec.allOnes 64))) ∧
        (off % 8 = 0 → s.gives (.registerWrite addr 4 v) ((awake s).regWrite sp off (v &&& half) half)) ∧
        (off % 8 = 4 → s.gives (.registerWrite addr 4 v) ((awake s).regWrite sp (off - 4) (v <<< 32) (half <<< 32))) ∧
        (∀ n, (n ≠ 4 ∧ n ≠ 8) ∨ off % n ≠ 0 → s.gives (.registerWrite addr n v) s) ∧
        (s.pins.dbgen = true → off % 8 = 0 →
          s.gives (.regacc addr none) (tdo (awake (tap .regacc)) ((awake (tap .regacc)).regRead sp off)) ∧
          (stewardOnly sp off = true → s.gives (.regacc addr (some v)) (tap .regacc)) ∧
          (stewardOnly sp off = false → s.gives (.regacc addr (some v))
            ((awake (tap .regacc)).regWrite sp off v (BitVec.allOnes 64)))) ∧
        (s.pins.dbgen = false ∨ off % 8 ≠ 0 → ∀ w, s.gives (.regacc addr w) ones)) ∧
      ((∀ sp off, ¬ reg sp off) → (∀ n, s.gives (.registerWrite addr n v) s) ∧ ∀ w, s.gives (.regacc addr w) ones)) ∧
    (∀ (q : QId) (v : Word), s.gives (.registerWrite (BitVec.ofNat 48 (0xF00000200018 + 0x100000000 * q.die.val + 0x1000 * (64 * q.part.val + q.q.val))) 8 v)
      (s.qtailWrite q v))

/-- R4 to R7, R121 to R123, R422: the commands that answer through the test port, the register writes and VCVT complete, each with
its own effect. IDCODE, BYPASS, SAMPLE/PRELOAD and EXTEST do in every state; so do a register write and REGACC of any address,
width and value; a VCVT does whose operand groups are legal at its effective types, with VSTART at 0, where its census slot
has no threshold to reach. The model's choices: the order of the boundary register (log 33), what the test port answers (log 64),
register accesses (logs 56, 69), and R121's RsvZ of vs2 (log 66). -/
def Obligations.ConversionsAndTestPortComplete : Prop :=
  (∀ (s : State) (h : Issue) (dst : BitVec 4) (vd vs1 vs2 : BitVec 6) (m : VMask) (named : VTy) (dg : Nat),
    s.ready h.core.val = true → h.rsvz = 0 →
    let c := h.core.val
    let k := s.core c
    let src := vType (s.ctxOf c) k
    let d := effTy (s.ctxOf c).rung named
    let scaled := tyScaled src = true ∨ tyScaled d = true
    tyOfCode dst.toNat = some named → vStart k = 0 → vCnt k ≤ vCap (s.ctxOf c) k →
    vDerived (vG k) (tyWidth d) (tyWidth src) = some dg → (¬ scaled → vs2 = 0) →
    groupsOk ([(vd.toNat, dg), (vs1.toNat, vG k)] ++ if scaled then [(vs2.toNat, 1)] else []) = true →
    (bitAt k.vec.vcens 15 = true → field (s.cslot (c / 64) (field k.vec.vcens 0 10)).thr 0 32 = 0) →
    ∃ (t : State) (k1 : Core), Sys2Proof.Machine.exec (.vcvt h dst vd vs1 vs2 m) s = .next t ∧
      { k1 with vec := k.vec, cr := k.cr } = k ∧ { k1.cr with cflags := k.cr.cflags } = k.cr ∧
      { k1.vec with v := k.vec.v, vstart := k.vec.vstart } = k.vec ∧ k1.vec.vstart = 0 ∧ k1.passed (t.core c) ∧
      (∀ n, n ≠ c → t.core n = s.core n) ∧ { t with cores := s.cores, dies := s.dies } = s) ∧
  (∀ s : State,
    let at_ := fun (i : Tap) (l : List OutMsg) => ({ s with pins := { s.pins with tap := i }, out := s.out ++ l } : State)
    Sys2Proof.Machine.exec .idcode s = .next (at_ .idcode
      [.tdo (BitVec.ofNat 64 (Config.stepping.toNat % 16 * 2 ^ 28 + 0x0C03 * 2 ^ 12 + 0x38F))]) ∧
    Sys2Proof.Machine.exec .bypass s = .next (at_ .bypass [.tdo 0]) ∧
    (∃ w, Sys2Proof.Machine.exec (.samplePreload none) s = .next (at_ .sample [.tdo w]) ∧
      ∀ n, n < 64 → bitAt w n = if n < 30 then bitAt s.pins.fcfg n else if n < 34 then bitAt s.pins.hmode (n - 30)
        else if n = 34 then s.pins.dbgen else decide (n = 35) && !s.pins.low) ∧
    (∀ l, Sys2Proof.Machine.exec (.samplePreload (some l)) s =
      .next { s with pins := { s.pins with tap := .sample, bsr := l } }) ∧
    Sys2Proof.Machine.exec .extest s = .next (at_ .extest (if s.pins.low = true then [.drive s.pins.bsr] else []))) ∧
  (∀ (s : State) (addr : BitVec 48) (v : Word) (n : Nat) (w : Option Word),
    let put := fun (t : State) (sp off : Nat) (u mask : Word) =>
      ({ (t.regWake sp off).regWrite sp (off / 8 * 8) u mask with pending := s.pending } : State)
    let port : State := { s with pins := { s.pins with tap := .regacc } }
    let low : Word := 0xFFFFFFFF
    (∀ sp off, locPA addr.toNat = .reg sp off →
      (n = 8 → off % 8 = 0 → Sys2Proof.Machine.exec (.registerWrite addr n v) s = .next (put s sp off v (BitVec.allOnes 64))) ∧
      (n = 4 → off % 4 = 0 → Sys2Proof.Machine.exec (.registerWrite addr n v) s =
        .next (put s sp off ((v &&& low) <<< (8 * (off % 8))) (low <<< (8 * (off % 8))))) ∧
      ((n ≠ 4 ∧ n ≠ 8) ∨ off % n ≠ 0 → Sys2Proof.Machine.exec (.registerWrite addr n v) s = .next s) ∧
      (s.pins.dbgen = true → off % 8 = 0 →
        Sys2Proof.Machine.exec (.regacc addr none) s =
          .next { port.regWake sp off with out := s.out ++ [.tdo ((port.regWake sp off).regRead sp off)], pending := s.pending } ∧
        Sys2Proof.Machine.exec (.regacc addr (some v)) s = .next
          (if stewardOnly sp off = true then port else put port sp off v (BitVec.allOnes 64)))) ∧
    ((∀ sp off, locPA addr.toNat ≠ .reg sp off) → Sys2Proof.Machine.exec (.registerWrite addr n v) s = .next s) ∧
    ((∀ sp off, locPA addr.toNat = .reg sp off → s.pins.dbgen = false ∨ off % 8 ≠ 0) →
      Sys2Proof.Machine.exec (.regacc addr w) s = .next { port with out := s.out ++ [.tdo (BitVec.allOnes 64)] }))
end

