-- ==== Sys2Proof/Laws/Tables.lean ====
section
/-! SUPPORT. Laws of sparse tables: a read after a write, and the canonical form that every write keeps. -/

namespace Sys2Proof.Laws

open Sys2Proof.Machine

variable {α : Type} {d : α}

@[simp] theorem tget_nil (i : Nat) : tget d ([] : Tbl α) i = d := rfl

@[simp] theorem tget_cons (k i : Nat) (v : α) (t : Tbl α) :
    tget d ((k, v) :: t) i = if i = k then v else tget d t i := rfl

theorem tget_tins (t : Tbl α) (i j : Nat) (v : α) :
    tget d (tins t i v) j = if j = i then v else tget d t j := by
  induction t with
  | nil => simp [tins]
  | cons e t ih =>
    obtain ⟨k, w⟩ := e
    simp only [tins]
    split
    · simp
    · split
      · subst i; simp only [tget_cons]; split <;> rfl
      · simp only [tget_cons, ih]; split
        · subst j; rw [if_neg (by omega)]
        · rfl

theorem tget_erase (t : Tbl α) (i j : Nat) :
    tget d (t.filter (fun e => !decide (e.1 = i))) j = if j = i then d else tget d t j := by
  induction t with
  | nil => simp
  | cons e t ih =>
    obtain ⟨k, w⟩ := e
    by_cases h : k = i
    · subst h; simp only [List.filter_cons, decide_true, Bool.not_true, Bool.false_eq_true, if_false, ih, tget_cons]
      split <;> rfl
    · simp only [List.filter_cons, h, decide_false, Bool.not_false, if_true, tget_cons, ih]
      split
      · subst j; rw [if_neg h]
      · rfl

/-- A read after a write: the written key reads as written, every other key as before. -/
theorem tget_tset [DecidableEq α] (t : Tbl α) (i j : Nat) (v : α) :
    tget d (tset d t i v) j = if j = i then v else tget d t j := by
  unfold tset
  split
  · subst v; exact tget_erase t i j
  · exact tget_tins t i j v

@[simp] theorem tget_tset_same [DecidableEq α] (t : Tbl α) (i : Nat) (v : α) : tget d (tset d t i v) i = v := by
  simp [tget_tset]

theorem tget_tset_other [DecidableEq α] (t : Tbl α) {i j : Nat} (v : α) (h : j ≠ i) :
    tget d (tset d t i v) j = tget d t j := by simp [tget_tset, h]

theorem twfFrom_mono [DecidableEq α] {t : Tbl α} {a b : Nat} (h : twfFrom d b t = true) (hab : a ≤ b) :
    twfFrom d a t = true := by
  cases t with
  | nil => rfl
  | cons e t =>
    obtain ⟨k, v⟩ := e
    simp only [twfFrom, Bool.and_eq_true, decide_eq_true_eq] at h ⊢
    exact ⟨⟨by omega, h.1.2⟩, h.2⟩

theorem twfFrom_filter [DecidableEq α] (p : Nat × α → Bool) {t : Tbl α} {a : Nat} (h : twfFrom d a t = true) :
    twfFrom d a (t.filter p) = true := by
  induction t generalizing a with
  | nil => rfl
  | cons e t ih =>
    obtain ⟨k, v⟩ := e
    simp only [twfFrom, Bool.and_eq_true, decide_eq_true_eq] at h
    by_cases hp : p (k, v)
    · rw [List.filter_cons_of_pos hp]
      simp only [twfFrom, Bool.and_eq_true, decide_eq_true_eq]
      exact ⟨h.1, ih h.2⟩
    · rw [List.filter_cons_of_neg hp]
      exact twfFrom_mono (ih h.2) (by omega)

theorem twfFrom_tins [DecidableEq α] {t : Tbl α} {a i : Nat} {v : α} (h : twfFrom d a t = true) (hv : v ≠ d)
    (hi : a ≤ i) : twfFrom d a (tins t i v) = true := by
  induction t generalizing a with
  | nil => simp [tins, twfFrom, hv, hi]
  | cons e t ih =>
    obtain ⟨k, w⟩ := e
    simp only [twfFrom, Bool.and_eq_true, decide_eq_true_eq] at h
    simp only [tins]
    split
    · simp only [twfFrom, Bool.and_eq_true, decide_eq_true_eq]
      exact ⟨⟨hi, by simp [hv]⟩, ⟨by omega, h.1.2⟩, h.2⟩
    · split
      · subst i; simp only [twfFrom, Bool.and_eq_true, decide_eq_true_eq]
        exact ⟨⟨hi, by simp [hv]⟩, h.2⟩
      · simp only [twfFrom, Bool.and_eq_true, decide_eq_true_eq]
        exact ⟨h.1, ih h.2 (by omega)⟩

/-- A write keeps the canonical form. -/
theorem twf_tset [DecidableEq α] {t : Tbl α} (i : Nat) (v : α) (h : twf d t = true) : twf d (tset d t i v) = true := by
  unfold tset
  split
  · exact twfFrom_filter _ h
  · exact twfFrom_tins h (by assumption) (Nat.zero_le _)

theorem twf_tmod [DecidableEq α] {t : Tbl α} (i : Nat) (f : α → α) (h : twf d t = true) :
    twf d (tmod d t i f) = true := twf_tset _ _ h

theorem twf_tclear [DecidableEq α] {t : Tbl α} (lo n : Nat) (h : twf d t = true) :
    twf d (tclear t lo n) = true := twfFrom_filter _ h

/-- Clearing a range gives its keys the default and leaves the others. -/
theorem tget_tclear (t : Tbl α) (lo n j : Nat) :
    tget d (tclear t lo n) j = if lo ≤ j ∧ j < lo + n then d else tget d t j := by
  induction t with
  | nil => simp [tclear]
  | cons e t ih =>
    obtain ⟨k, w⟩ := e
    simp only [tclear] at ih ⊢
    by_cases h : lo ≤ k ∧ k < lo + n
    · simp only [List.filter_cons, h.1, h.2, decide_true, Bool.and_self, Bool.not_true, Bool.false_eq_true, if_false, ih,
        tget_cons]
      by_cases hj : j = k
      · subst j; simp [h]
      · simp [hj]
    · have : (decide (lo ≤ k) && decide (k < lo + n)) = false := by
        simp only [Bool.and_eq_false_iff, decide_eq_false_iff_not]; tauto
      simp only [List.filter_cons, this, Bool.not_false, if_true, tget_cons, ih]
      by_cases hj : j = k
      · subst j; simp [h]
      · simp [hj]

end Sys2Proof.Laws
end

