-- ==== Sys2Proof/Laws/State.lean ====
section
/-! SUPPORT. What replacing one part of the state changes: the part, and nothing else. Each update has the value it sets read
back, its neighbours kept, and one lemma per other field of State. -/

namespace Sys2Proof.Laws

open Sys2Proof.Machine

variable (s : State)

/-! ### setCore -/

@[simp] theorem core_setCore (c : Nat) (k : Core) : (s.setCore c k).core c = k := tget_tset_same _ _ _
theorem core_setCore_other (c : Nat) (k : Core) {m : Nat} (h : m ≠ c) : (s.setCore c k).core m = s.core m := tget_tset_other _ _ h
@[simp] theorem setCore_clusters (c : Nat) (k : Core) : (s.setCore c k).clusters = s.clusters := rfl
@[simp] theorem setCore_dies (c : Nat) (k : Core) : (s.setCore c k).dies = s.dies := rfl
@[simp] theorem setCore_tasks (c : Nat) (k : Core) : (s.setCore c k).tasks = s.tasks := rfl
@[simp] theorem setCore_mem (c : Nat) (k : Core) : (s.setCore c k).mem = s.mem := rfl
@[simp] theorem setCore_own (c : Nat) (k : Core) : (s.setCore c k).own = s.own := rfl
@[simp] theorem setCore_hosts (c : Nat) (k : Core) : (s.setCore c k).hosts = s.hosts := rfl
@[simp] theorem setCore_aper (c : Nat) (k : Core) : (s.setCore c k).aper = s.aper := rfl
@[simp] theorem setCore_answers (c : Nat) (k : Core) : (s.setCore c k).answers = s.answers := rfl
@[simp] theorem setCore_fab (c : Nat) (k : Core) : (s.setCore c k).fab = s.fab := rfl
@[simp] theorem setCore_pwr (c : Nat) (k : Core) : (s.setCore c k).pwr = s.pwr := rfl
@[simp] theorem setCore_pmem (c : Nat) (k : Core) : (s.setCore c k).pmem = s.pmem := rfl
@[simp] theorem setCore_flash (c : Nat) (k : Core) : (s.setCore c k).flash = s.flash := rfl
@[simp] theorem setCore_sec (c : Nat) (k : Core) : (s.setCore c k).sec = s.sec := rfl
@[simp] theorem setCore_svc (c : Nat) (k : Core) : (s.setCore c k).svc = s.svc := rfl
@[simp] theorem setCore_pins (c : Nat) (k : Core) : (s.setCore c k).pins = s.pins := rfl
@[simp] theorem setCore_out (c : Nat) (k : Core) : (s.setCore c k).out = s.out := rfl
@[simp] theorem setCore_freeCtr (c : Nat) (k : Core) : (s.setCore c k).freeCtr = s.freeCtr := rfl
@[simp] theorem setCore_order (c : Nat) (k : Core) : (s.setCore c k).order = s.order := rfl
@[simp] theorem setCore_now (c : Nat) (k : Core) : (s.setCore c k).now = s.now := rfl
@[simp] theorem setCore_pending (c : Nat) (k : Core) : (s.setCore c k).pending = s.pending := rfl
@[simp] theorem die_setCore (c : Nat) (k : Core) (m : Nat) : (s.setCore c k).die m = s.die m := rfl
@[simp] theorem cluster_setCore (c : Nat) (k : Core) (m : Nat) : (s.setCore c k).cluster m = s.cluster m := rfl
@[simp] theorem hport_setCore (c : Nat) (k : Core) (m : Nat) : (s.setCore c k).hport m = s.hport m := rfl
@[simp] theorem fport_setCore (c : Nat) (k : Core) (m : Nat) : (s.setCore c k).fport m = s.fport m := rfl
@[simp] theorem chan_setCore (c : Nat) (k : Core) (m : Nat) : (s.setCore c k).chan m = s.chan m := rfl
@[simp] theorem injBlk_setCore (c : Nat) (k : Core) (m : Nat) : (s.setCore c k).injBlk m = s.injBlk m := rfl

/-! ### setDie -/

@[simp] theorem die_setDie (d : Nat) (v : Die) : (s.setDie d v).die d = v := tget_tset_same _ _ _
theorem die_setDie_other (d : Nat) (v : Die) {m : Nat} (h : m ≠ d) : (s.setDie d v).die m = s.die m := tget_tset_other _ _ h
@[simp] theorem setDie_cores (d : Nat) (v : Die) : (s.setDie d v).cores = s.cores := rfl
@[simp] theorem setDie_clusters (d : Nat) (v : Die) : (s.setDie d v).clusters = s.clusters := rfl
@[simp] theorem setDie_tasks (d : Nat) (v : Die) : (s.setDie d v).tasks = s.tasks := rfl
@[simp] theorem setDie_mem (d : Nat) (v : Die) : (s.setDie d v).mem = s.mem := rfl
@[simp] theorem setDie_own (d : Nat) (v : Die) : (s.setDie d v).own = s.own := rfl
@[simp] theorem setDie_hosts (d : Nat) (v : Die) : (s.setDie d v).hosts = s.hosts := rfl
@[simp] theorem setDie_aper (d : Nat) (v : Die) : (s.setDie d v).aper = s.aper := rfl
@[simp] theorem setDie_answers (d : Nat) (v : Die) : (s.setDie d v).answers = s.answers := rfl
@[simp] theorem setDie_fab (d : Nat) (v : Die) : (s.setDie d v).fab = s.fab := rfl
@[simp] theorem setDie_pwr (d : Nat) (v : Die) : (s.setDie d v).pwr = s.pwr := rfl
@[simp] theorem setDie_pmem (d : Nat) (v : Die) : (s.setDie d v).pmem = s.pmem := rfl
@[simp] theorem setDie_flash (d : Nat) (v : Die) : (s.setDie d v).flash = s.flash := rfl
@[simp] theorem setDie_sec (d : Nat) (v : Die) : (s.setDie d v).sec = s.sec := rfl
@[simp] theorem setDie_svc (d : Nat) (v : Die) : (s.setDie d v).svc = s.svc := rfl
@[simp] theorem setDie_pins (d : Nat) (v : Die) : (s.setDie d v).pins = s.pins := rfl
@[simp] theorem setDie_out (d : Nat) (v : Die) : (s.setDie d v).out = s.out := rfl
@[simp] theorem setDie_freeCtr (d : Nat) (v : Die) : (s.setDie d v).freeCtr = s.freeCtr := rfl
@[simp] theorem setDie_order (d : Nat) (v : Die) : (s.setDie d v).order = s.order := rfl
@[simp] theorem setDie_now (d : Nat) (v : Die) : (s.setDie d v).now = s.now := rfl
@[simp] theorem setDie_pending (d : Nat) (v : Die) : (s.setDie d v).pending = s.pending := rfl
@[simp] theorem core_setDie (d : Nat) (v : Die) (m : Nat) : (s.setDie d v).core m = s.core m := rfl
@[simp] theorem cluster_setDie (d : Nat) (v : Die) (m : Nat) : (s.setDie d v).cluster m = s.cluster m := rfl
@[simp] theorem hport_setDie (d : Nat) (v : Die) (m : Nat) : (s.setDie d v).hport m = s.hport m := rfl
@[simp] theorem fport_setDie (d : Nat) (v : Die) (m : Nat) : (s.setDie d v).fport m = s.fport m := rfl
@[simp] theorem chan_setDie (d : Nat) (v : Die) (m : Nat) : (s.setDie d v).chan m = s.chan m := rfl
@[simp] theorem injBlk_setDie (d : Nat) (v : Die) (m : Nat) : (s.setDie d v).injBlk m = s.injBlk m := rfl

/-! ### setCluster -/

@[simp] theorem cluster_setCluster (c : Nat) (v : Cluster) : (s.setCluster c v).cluster c = v := tget_tset_same _ _ _
theorem cluster_setCluster_other (c : Nat) (v : Cluster) {m : Nat} (h : m ≠ c) : (s.setCluster c v).cluster m = s.cluster m := tget_tset_other _ _ h
@[simp] theorem setCluster_cores (c : Nat) (v : Cluster) : (s.setCluster c v).cores = s.cores := rfl
@[simp] theorem setCluster_dies (c : Nat) (v : Cluster) : (s.setCluster c v).dies = s.dies := rfl
@[simp] theorem setCluster_tasks (c : Nat) (v : Cluster) : (s.setCluster c v).tasks = s.tasks := rfl
@[simp] theorem setCluster_mem (c : Nat) (v : Cluster) : (s.setCluster c v).mem = s.mem := rfl
@[simp] theorem setCluster_own (c : Nat) (v : Cluster) : (s.setCluster c v).own = s.own := rfl
@[simp] theorem setCluster_hosts (c : Nat) (v : Cluster) : (s.setCluster c v).hosts = s.hosts := rfl
@[simp] theorem setCluster_aper (c : Nat) (v : Cluster) : (s.setCluster c v).aper = s.aper := rfl
@[simp] theorem setCluster_answers (c : Nat) (v : Cluster) : (s.setCluster c v).answers = s.answers := rfl
@[simp] theorem setCluster_fab (c : Nat) (v : Cluster) : (s.setCluster c v).fab = s.fab := rfl
@[simp] theorem setCluster_pwr (c : Nat) (v : Cluster) : (s.setCluster c v).pwr = s.pwr := rfl
@[simp] theorem setCluster_pmem (c : Nat) (v : Cluster) : (s.setCluster c v).pmem = s.pmem := rfl
@[simp] theorem setCluster_flash (c : Nat) (v : Cluster) : (s.setCluster c v).flash = s.flash := rfl
@[simp] theorem setCluster_sec (c : Nat) (v : Cluster) : (s.setCluster c v).sec = s.sec := rfl
@[simp] theorem setCluster_svc (c : Nat) (v : Cluster) : (s.setCluster c v).svc = s.svc := rfl
@[simp] theorem setCluster_pins (c : Nat) (v : Cluster) : (s.setCluster c v).pins = s.pins := rfl
@[simp] theorem setCluster_out (c : Nat) (v : Cluster) : (s.setCluster c v).out = s.out := rfl
@[simp] theorem setCluster_freeCtr (c : Nat) (v : Cluster) : (s.setCluster c v).freeCtr = s.freeCtr := rfl
@[simp] theorem setCluster_order (c : Nat) (v : Cluster) : (s.setCluster c v).order = s.order := rfl
@[simp] theorem setCluster_now (c : Nat) (v : Cluster) : (s.setCluster c v).now = s.now := rfl
@[simp] theorem setCluster_pending (c : Nat) (v : Cluster) : (s.setCluster c v).pending = s.pending := rfl
@[simp] theorem core_setCluster (c : Nat) (v : Cluster) (m : Nat) : (s.setCluster c v).core m = s.core m := rfl
@[simp] theorem die_setCluster (c : Nat) (v : Cluster) (m : Nat) : (s.setCluster c v).die m = s.die m := rfl
@[simp] theorem hport_setCluster (c : Nat) (v : Cluster) (m : Nat) : (s.setCluster c v).hport m = s.hport m := rfl
@[simp] theorem fport_setCluster (c : Nat) (v : Cluster) (m : Nat) : (s.setCluster c v).fport m = s.fport m := rfl
@[simp] theorem chan_setCluster (c : Nat) (v : Cluster) (m : Nat) : (s.setCluster c v).chan m = s.chan m := rfl
@[simp] theorem injBlk_setCluster (c : Nat) (v : Cluster) (m : Nat) : (s.setCluster c v).injBlk m = s.injBlk m := rfl

/-! ### setHport -/

@[simp] theorem hport_setHport (n : Nat) (v : HPort) : (s.setHport n v).hport n = v := tget_tset_same _ _ _
theorem hport_setHport_other (n : Nat) (v : HPort) {m : Nat} (h : m ≠ n) : (s.setHport n v).hport m = s.hport m := tget_tset_other _ _ h
@[simp] theorem setHport_cores (n : Nat) (v : HPort) : (s.setHport n v).cores = s.cores := rfl
@[simp] theorem setHport_clusters (n : Nat) (v : HPort) : (s.setHport n v).clusters = s.clusters := rfl
@[simp] theorem setHport_dies (n : Nat) (v : HPort) : (s.setHport n v).dies = s.dies := rfl
@[simp] theorem setHport_tasks (n : Nat) (v : HPort) : (s.setHport n v).tasks = s.tasks := rfl
@[simp] theorem setHport_mem (n : Nat) (v : HPort) : (s.setHport n v).mem = s.mem := rfl
@[simp] theorem setHport_own (n : Nat) (v : HPort) : (s.setHport n v).own = s.own := rfl
@[simp] theorem setHport_aper (n : Nat) (v : HPort) : (s.setHport n v).aper = s.aper := rfl
@[simp] theorem setHport_answers (n : Nat) (v : HPort) : (s.setHport n v).answers = s.answers := rfl
@[simp] theorem setHport_fab (n : Nat) (v : HPort) : (s.setHport n v).fab = s.fab := rfl
@[simp] theorem setHport_pwr (n : Nat) (v : HPort) : (s.setHport n v).pwr = s.pwr := rfl
@[simp] theorem setHport_pmem (n : Nat) (v : HPort) : (s.setHport n v).pmem = s.pmem := rfl
@[simp] theorem setHport_flash (n : Nat) (v : HPort) : (s.setHport n v).flash = s.flash := rfl
@[simp] theorem setHport_sec (n : Nat) (v : HPort) : (s.setHport n v).sec = s.sec := rfl
@[simp] theorem setHport_svc (n : Nat) (v : HPort) : (s.setHport n v).svc = s.svc := rfl
@[simp] theorem setHport_pins (n : Nat) (v : HPort) : (s.setHport n v).pins = s.pins := rfl
@[simp] theorem setHport_out (n : Nat) (v : HPort) : (s.setHport n v).out = s.out := rfl
@[simp] theorem setHport_freeCtr (n : Nat) (v : HPort) : (s.setHport n v).freeCtr = s.freeCtr := rfl
@[simp] theorem setHport_order (n : Nat) (v : HPort) : (s.setHport n v).order = s.order := rfl
@[simp] theorem setHport_now (n : Nat) (v : HPort) : (s.setHport n v).now = s.now := rfl
@[simp] theorem setHport_pending (n : Nat) (v : HPort) : (s.setHport n v).pending = s.pending := rfl
@[simp] theorem core_setHport (n : Nat) (v : HPort) (m : Nat) : (s.setHport n v).core m = s.core m := rfl
@[simp] theorem die_setHport (n : Nat) (v : HPort) (m : Nat) : (s.setHport n v).die m = s.die m := rfl
@[simp] theorem cluster_setHport (n : Nat) (v : HPort) (m : Nat) : (s.setHport n v).cluster m = s.cluster m := rfl
@[simp] theorem fport_setHport (n : Nat) (v : HPort) (m : Nat) : (s.setHport n v).fport m = s.fport m := rfl
@[simp] theorem chan_setHport (n : Nat) (v : HPort) (m : Nat) : (s.setHport n v).chan m = s.chan m := rfl
@[simp] theorem injBlk_setHport (n : Nat) (v : HPort) (m : Nat) : (s.setHport n v).injBlk m = s.injBlk m := rfl

/-! ### setFport -/

@[simp] theorem fport_setFport (n : Nat) (v : FPort) : (s.setFport n v).fport n = v := tget_tset_same _ _ _
theorem fport_setFport_other (n : Nat) (v : FPort) {m : Nat} (h : m ≠ n) : (s.setFport n v).fport m = s.fport m := tget_tset_other _ _ h
@[simp] theorem setFport_cores (n : Nat) (v : FPort) : (s.setFport n v).cores = s.cores := rfl
@[simp] theorem setFport_clusters (n : Nat) (v : FPort) : (s.setFport n v).clusters = s.clusters := rfl
@[simp] theorem setFport_dies (n : Nat) (v : FPort) : (s.setFport n v).dies = s.dies := rfl
@[simp] theorem setFport_tasks (n : Nat) (v : FPort) : (s.setFport n v).tasks = s.tasks := rfl
@[simp] theorem setFport_mem (n : Nat) (v : FPort) : (s.setFport n v).mem = s.mem := rfl
@[simp] theorem setFport_own (n : Nat) (v : FPort) : (s.setFport n v).own = s.own := rfl
@[simp] theorem setFport_hosts (n : Nat) (v : FPort) : (s.setFport n v).hosts = s.hosts := rfl
@[simp] theorem setFport_aper (n : Nat) (v : FPort) : (s.setFport n v).aper = s.aper := rfl
@[simp] theorem setFport_answers (n : Nat) (v : FPort) : (s.setFport n v).answers = s.answers := rfl
@[simp] theorem setFport_pwr (n : Nat) (v : FPort) : (s.setFport n v).pwr = s.pwr := rfl
@[simp] theorem setFport_pmem (n : Nat) (v : FPort) : (s.setFport n v).pmem = s.pmem := rfl
@[simp] theorem setFport_flash (n : Nat) (v : FPort) : (s.setFport n v).flash = s.flash := rfl
@[simp] theorem setFport_sec (n : Nat) (v : FPort) : (s.setFport n v).sec = s.sec := rfl
@[simp] theorem setFport_svc (n : Nat) (v : FPort) : (s.setFport n v).svc = s.svc := rfl
@[simp] theorem setFport_pins (n : Nat) (v : FPort) : (s.setFport n v).pins = s.pins := rfl
@[simp] theorem setFport_out (n : Nat) (v : FPort) : (s.setFport n v).out = s.out := rfl
@[simp] theorem setFport_freeCtr (n : Nat) (v : FPort) : (s.setFport n v).freeCtr = s.freeCtr := rfl
@[simp] theorem setFport_order (n : Nat) (v : FPort) : (s.setFport n v).order = s.order := rfl
@[simp] theorem setFport_now (n : Nat) (v : FPort) : (s.setFport n v).now = s.now := rfl
@[simp] theorem setFport_pending (n : Nat) (v : FPort) : (s.setFport n v).pending = s.pending := rfl
@[simp] theorem core_setFport (n : Nat) (v : FPort) (m : Nat) : (s.setFport n v).core m = s.core m := rfl
@[simp] theorem die_setFport (n : Nat) (v : FPort) (m : Nat) : (s.setFport n v).die m = s.die m := rfl
@[simp] theorem cluster_setFport (n : Nat) (v : FPort) (m : Nat) : (s.setFport n v).cluster m = s.cluster m := rfl
@[simp] theorem hport_setFport (n : Nat) (v : FPort) (m : Nat) : (s.setFport n v).hport m = s.hport m := rfl
@[simp] theorem chan_setFport (n : Nat) (v : FPort) (m : Nat) : (s.setFport n v).chan m = s.chan m := rfl
@[simp] theorem injBlk_setFport (n : Nat) (v : FPort) (m : Nat) : (s.setFport n v).injBlk m = s.injBlk m := rfl

/-! ### setChan -/

@[simp] theorem chan_setChan (n : Nat) (v : Chan) : (s.setChan n v).chan n = v := tget_tset_same _ _ _
theorem chan_setChan_other (n : Nat) (v : Chan) {m : Nat} (h : m ≠ n) : (s.setChan n v).chan m = s.chan m := tget_tset_other _ _ h
@[simp] theorem setChan_cores (n : Nat) (v : Chan) : (s.setChan n v).cores = s.cores := rfl
@[simp] theorem setChan_clusters (n : Nat) (v : Chan) : (s.setChan n v).clusters = s.clusters := rfl
@[simp] theorem setChan_dies (n : Nat) (v : Chan) : (s.setChan n v).dies = s.dies := rfl
@[simp] theorem setChan_tasks (n : Nat) (v : Chan) : (s.setChan n v).tasks = s.tasks := rfl
@[simp] theorem setChan_own (n : Nat) (v : Chan) : (s.setChan n v).own = s.own := rfl
@[simp] theorem setChan_hosts (n : Nat) (v : Chan) : (s.setChan n v).hosts = s.hosts := rfl
@[simp] theorem setChan_aper (n : Nat) (v : Chan) : (s.setChan n v).aper = s.aper := rfl
@[simp] theorem setChan_answers (n : Nat) (v : Chan) : (s.setChan n v).answers = s.answers := rfl
@[simp] theorem setChan_fab (n : Nat) (v : Chan) : (s.setChan n v).fab = s.fab := rfl
@[simp] theorem setChan_pwr (n : Nat) (v : Chan) : (s.setChan n v).pwr = s.pwr := rfl
@[simp] theorem setChan_pmem (n : Nat) (v : Chan) : (s.setChan n v).pmem = s.pmem := rfl
@[simp] theorem setChan_flash (n : Nat) (v : Chan) : (s.setChan n v).flash = s.flash := rfl
@[simp] theorem setChan_sec (n : Nat) (v : Chan) : (s.setChan n v).sec = s.sec := rfl
@[simp] theorem setChan_svc (n : Nat) (v : Chan) : (s.setChan n v).svc = s.svc := rfl
@[simp] theorem setChan_pins (n : Nat) (v : Chan) : (s.setChan n v).pins = s.pins := rfl
@[simp] theorem setChan_out (n : Nat) (v : Chan) : (s.setChan n v).out = s.out := rfl
@[simp] theorem setChan_freeCtr (n : Nat) (v : Chan) : (s.setChan n v).freeCtr = s.freeCtr := rfl
@[simp] theorem setChan_order (n : Nat) (v : Chan) : (s.setChan n v).order = s.order := rfl
@[simp] theorem setChan_now (n : Nat) (v : Chan) : (s.setChan n v).now = s.now := rfl
@[simp] theorem setChan_pending (n : Nat) (v : Chan) : (s.setChan n v).pending = s.pending := rfl
@[simp] theorem core_setChan (n : Nat) (v : Chan) (m : Nat) : (s.setChan n v).core m = s.core m := rfl
@[simp] theorem die_setChan (n : Nat) (v : Chan) (m : Nat) : (s.setChan n v).die m = s.die m := rfl
@[simp] theorem cluster_setChan (n : Nat) (v : Chan) (m : Nat) : (s.setChan n v).cluster m = s.cluster m := rfl
@[simp] theorem hport_setChan (n : Nat) (v : Chan) (m : Nat) : (s.setChan n v).hport m = s.hport m := rfl
@[simp] theorem fport_setChan (n : Nat) (v : Chan) (m : Nat) : (s.setChan n v).fport m = s.fport m := rfl
@[simp] theorem injBlk_setChan (n : Nat) (v : Chan) (m : Nat) : (s.setChan n v).injBlk m = s.injBlk m := rfl

/-! ### setInj -/

@[simp] theorem injBlk_setInj (u : Nat) (v : InjBlk) : (s.setInj u v).injBlk u = v := tget_tset_same _ _ _
theorem injBlk_setInj_other (u : Nat) (v : InjBlk) {m : Nat} (h : m ≠ u) : (s.setInj u v).injBlk m = s.injBlk m := tget_tset_other _ _ h
@[simp] theorem setInj_cores (u : Nat) (v : InjBlk) : (s.setInj u v).cores = s.cores := rfl
@[simp] theorem setInj_clusters (u : Nat) (v : InjBlk) : (s.setInj u v).clusters = s.clusters := rfl
@[simp] theorem setInj_dies (u : Nat) (v : InjBlk) : (s.setInj u v).dies = s.dies := rfl
@[simp] theorem setInj_tasks (u : Nat) (v : InjBlk) : (s.setInj u v).tasks = s.tasks := rfl
@[simp] theorem setInj_mem (u : Nat) (v : InjBlk) : (s.setInj u v).mem = s.mem := rfl
@[simp] theorem setInj_own (u : Nat) (v : InjBlk) : (s.setInj u v).own = s.own := rfl
@[simp] theorem setInj_hosts (u : Nat) (v : InjBlk) : (s.setInj u v).hosts = s.hosts := rfl
@[simp] theorem setInj_aper (u : Nat) (v : InjBlk) : (s.setInj u v).aper = s.aper := rfl
@[simp] theorem setInj_answers (u : Nat) (v : InjBlk) : (s.setInj u v).answers = s.answers := rfl
@[simp] theorem setInj_fab (u : Nat) (v : InjBlk) : (s.setInj u v).fab = s.fab := rfl
@[simp] theorem setInj_pwr (u : Nat) (v : InjBlk) : (s.setInj u v).pwr = s.pwr := rfl
@[simp] theorem setInj_pmem (u : Nat) (v : InjBlk) : (s.setInj u v).pmem = s.pmem := rfl
@[simp] theorem setInj_flash (u : Nat) (v : InjBlk) : (s.setInj u v).flash = s.flash := rfl
@[simp] theorem setInj_sec (u : Nat) (v : InjBlk) : (s.setInj u v).sec = s.sec := rfl
@[simp] theorem setInj_pins (u : Nat) (v : InjBlk) : (s.setInj u v).pins = s.pins := rfl
@[simp] theorem setInj_out (u : Nat) (v : InjBlk) : (s.setInj u v).out = s.out := rfl
@[simp] theorem setInj_freeCtr (u : Nat) (v : InjBlk) : (s.setInj u v).freeCtr = s.freeCtr := rfl
@[simp] theorem setInj_order (u : Nat) (v : InjBlk) : (s.setInj u v).order = s.order := rfl
@[simp] theorem setInj_now (u : Nat) (v : InjBlk) : (s.setInj u v).now = s.now := rfl
@[simp] theorem setInj_pending (u : Nat) (v : InjBlk) : (s.setInj u v).pending = s.pending := rfl
@[simp] theorem core_setInj (u : Nat) (v : InjBlk) (m : Nat) : (s.setInj u v).core m = s.core m := rfl
@[simp] theorem die_setInj (u : Nat) (v : InjBlk) (m : Nat) : (s.setInj u v).die m = s.die m := rfl
@[simp] theorem cluster_setInj (u : Nat) (v : InjBlk) (m : Nat) : (s.setInj u v).cluster m = s.cluster m := rfl
@[simp] theorem hport_setInj (u : Nat) (v : InjBlk) (m : Nat) : (s.setInj u v).hport m = s.hport m := rfl
@[simp] theorem fport_setInj (u : Nat) (v : InjBlk) (m : Nat) : (s.setInj u v).fport m = s.fport m := rfl
@[simp] theorem chan_setInj (u : Nat) (v : InjBlk) (m : Nat) : (s.setInj u v).chan m = s.chan m := rfl

/-! ### The units of a die -/

@[simp] theorem queue_setQueue (q : QId) (u : Queue) : (s.setQueue q u).queue q = u := by simp [State.queue, State.setQueue]
@[simp] theorem setQueue_cores (q : QId) (u : Queue) : (s.setQueue q u).cores = s.cores := rfl
@[simp] theorem setQueue_clusters (q : QId) (u : Queue) : (s.setQueue q u).clusters = s.clusters := rfl
@[simp] theorem setQueue_tasks (q : QId) (u : Queue) : (s.setQueue q u).tasks = s.tasks := rfl
@[simp] theorem setQueue_mem (q : QId) (u : Queue) : (s.setQueue q u).mem = s.mem := rfl
@[simp] theorem setQueue_own (q : QId) (u : Queue) : (s.setQueue q u).own = s.own := rfl
@[simp] theorem setQueue_hosts (q : QId) (u : Queue) : (s.setQueue q u).hosts = s.hosts := rfl
@[simp] theorem setQueue_aper (q : QId) (u : Queue) : (s.setQueue q u).aper = s.aper := rfl
@[simp] theorem setQueue_answers (q : QId) (u : Queue) : (s.setQueue q u).answers = s.answers := rfl
@[simp] theorem setQueue_fab (q : QId) (u : Queue) : (s.setQueue q u).fab = s.fab := rfl
@[simp] theorem setQueue_pwr (q : QId) (u : Queue) : (s.setQueue q u).pwr = s.pwr := rfl
@[simp] theorem setQueue_pmem (q : QId) (u : Queue) : (s.setQueue q u).pmem = s.pmem := rfl
@[simp] theorem setQueue_flash (q : QId) (u : Queue) : (s.setQueue q u).flash = s.flash := rfl
@[simp] theorem setQueue_sec (q : QId) (u : Queue) : (s.setQueue q u).sec = s.sec := rfl
@[simp] theorem setQueue_svc (q : QId) (u : Queue) : (s.setQueue q u).svc = s.svc := rfl
@[simp] theorem setQueue_pins (q : QId) (u : Queue) : (s.setQueue q u).pins = s.pins := rfl
@[simp] theorem setQueue_out (q : QId) (u : Queue) : (s.setQueue q u).out = s.out := rfl
@[simp] theorem setQueue_freeCtr (q : QId) (u : Queue) : (s.setQueue q u).freeCtr = s.freeCtr := rfl
@[simp] theorem setQueue_order (q : QId) (u : Queue) : (s.setQueue q u).order = s.order := rfl
@[simp] theorem setQueue_now (q : QId) (u : Queue) : (s.setQueue q u).now = s.now := rfl
@[simp] theorem setQueue_pending (q : QId) (u : Queue) : (s.setQueue q u).pending = s.pending := rfl
@[simp] theorem core_setQueue (q : QId) (u : Queue) (m : Nat) : (s.setQueue q u).core m = s.core m := rfl
@[simp] theorem cluster_setQueue (q : QId) (u : Queue) (m : Nat) : (s.setQueue q u).cluster m = s.cluster m := rfl
@[simp] theorem hport_setQueue (q : QId) (u : Queue) (m : Nat) : (s.setQueue q u).hport m = s.hport m := rfl
@[simp] theorem fport_setQueue (q : QId) (u : Queue) (m : Nat) : (s.setQueue q u).fport m = s.fport m := rfl
@[simp] theorem chan_setQueue (q : QId) (u : Queue) (m : Nat) : (s.setQueue q u).chan m = s.chan m := rfl
@[simp] theorem injBlk_setQueue (q : QId) (u : Queue) (m : Nat) : (s.setQueue q u).injBlk m = s.injBlk m := rfl

@[simp] theorem slice_setSlice (d n : Nat) (u : Slice) : (s.setSlice d n u).slice d n = u := by simp [State.slice, State.setSlice]
@[simp] theorem setSlice_cores (d n : Nat) (u : Slice) : (s.setSlice d n u).cores = s.cores := rfl
@[simp] theorem setSlice_clusters (d n : Nat) (u : Slice) : (s.setSlice d n u).clusters = s.clusters := rfl
@[simp] theorem setSlice_tasks (d n : Nat) (u : Slice) : (s.setSlice d n u).tasks = s.tasks := rfl
@[simp] theorem setSlice_mem (d n : Nat) (u : Slice) : (s.setSlice d n u).mem = s.mem := rfl
@[simp] theorem setSlice_own (d n : Nat) (u : Slice) : (s.setSlice d n u).own = s.own := rfl
@[simp] theorem setSlice_hosts (d n : Nat) (u : Slice) : (s.setSlice d n u).hosts = s.hosts := rfl
@[simp] theorem setSlice_aper (d n : Nat) (u : Slice) : (s.setSlice d n u).aper = s.aper := rfl
@[simp] theorem setSlice_answers (d n : Nat) (u : Slice) : (s.setSlice d n u).answers = s.answers := rfl
@[simp] theorem setSlice_fab (d n : Nat) (u : Slice) : (s.setSlice d n u).fab = s.fab := rfl
@[simp] theorem setSlice_pwr (d n : Nat) (u : Slice) : (s.setSlice d n u).pwr = s.pwr := rfl
@[simp] theorem setSlice_pmem (d n : Nat) (u : Slice) : (s.setSlice d n u).pmem = s.pmem := rfl
@[simp] theorem setSlice_flash (d n : Nat) (u : Slice) : (s.setSlice d n u).flash = s.flash := rfl
@[simp] theorem setSlice_sec (d n : Nat) (u : Slice) : (s.setSlice d n u).sec = s.sec := rfl
@[simp] theorem setSlice_svc (d n : Nat) (u : Slice) : (s.setSlice d n u).svc = s.svc := rfl
@[simp] theorem setSlice_pins (d n : Nat) (u : Slice) : (s.setSlice d n u).pins = s.pins := rfl
@[simp] theorem setSlice_out (d n : Nat) (u : Slice) : (s.setSlice d n u).out = s.out := rfl
@[simp] theorem setSlice_freeCtr (d n : Nat) (u : Slice) : (s.setSlice d n u).freeCtr = s.freeCtr := rfl
@[simp] theorem setSlice_order (d n : Nat) (u : Slice) : (s.setSlice d n u).order = s.order := rfl
@[simp] theorem setSlice_now (d n : Nat) (u : Slice) : (s.setSlice d n u).now = s.now := rfl
@[simp] theorem setSlice_pending (d n : Nat) (u : Slice) : (s.setSlice d n u).pending = s.pending := rfl
@[simp] theorem core_setSlice (d n : Nat) (u : Slice) (m : Nat) : (s.setSlice d n u).core m = s.core m := rfl
@[simp] theorem cluster_setSlice (d n : Nat) (u : Slice) (m : Nat) : (s.setSlice d n u).cluster m = s.cluster m := rfl
@[simp] theorem hport_setSlice (d n : Nat) (u : Slice) (m : Nat) : (s.setSlice d n u).hport m = s.hport m := rfl
@[simp] theorem fport_setSlice (d n : Nat) (u : Slice) (m : Nat) : (s.setSlice d n u).fport m = s.fport m := rfl
@[simp] theorem chan_setSlice (d n : Nat) (u : Slice) (m : Nat) : (s.setSlice d n u).chan m = s.chan m := rfl
@[simp] theorem injBlk_setSlice (d n : Nat) (u : Slice) (m : Nat) : (s.setSlice d n u).injBlk m = s.injBlk m := rfl

@[simp] theorem stitcher_setStitcher (c : Nat) (u : Stitcher) : (s.setStitcher c u).stitcher c = u := by simp [State.stitcher, State.setStitcher]
@[simp] theorem setStitcher_cores (c : Nat) (u : Stitcher) : (s.setStitcher c u).cores = s.cores := rfl
@[simp] theorem setStitcher_clusters (c : Nat) (u : Stitcher) : (s.setStitcher c u).clusters = s.clusters := rfl
@[simp] theorem setStitcher_tasks (c : Nat) (u : Stitcher) : (s.setStitcher c u).tasks = s.tasks := rfl
@[simp] theorem setStitcher_mem (c : Nat) (u : Stitcher) : (s.setStitcher c u).mem = s.mem := rfl
@[simp] theorem setStitcher_own (c : Nat) (u : Stitcher) : (s.setStitcher c u).own = s.own := rfl
@[simp] theorem setStitcher_hosts (c : Nat) (u : Stitcher) : (s.setStitcher c u).hosts = s.hosts := rfl
@[simp] theorem setStitcher_aper (c : Nat) (u : Stitcher) : (s.setStitcher c u).aper = s.aper := rfl
@[simp] theorem setStitcher_answers (c : Nat) (u : Stitcher) : (s.setStitcher c u).answers = s.answers := rfl
@[simp] theorem setStitcher_fab (c : Nat) (u : Stitcher) : (s.setStitcher c u).fab = s.fab := rfl
@[simp] theorem setStitcher_pwr (c : Nat) (u : Stitcher) : (s.setStitcher c u).pwr = s.pwr := rfl
@[simp] theorem setStitcher_pmem (c : Nat) (u : Stitcher) : (s.setStitcher c u).pmem = s.pmem := rfl
@[simp] theorem setStitcher_flash (c : Nat) (u : Stitcher) : (s.setStitcher c u).flash = s.flash := rfl
@[simp] theorem setStitcher_sec (c : Nat) (u : Stitcher) : (s.setStitcher c u).sec = s.sec := rfl
@[simp] theorem setStitcher_svc (c : Nat) (u : Stitcher) : (s.setStitcher c u).svc = s.svc := rfl
@[simp] theorem setStitcher_pins (c : Nat) (u : Stitcher) : (s.setStitcher c u).pins = s.pins := rfl
@[simp] theorem setStitcher_out (c : Nat) (u : Stitcher) : (s.setStitcher c u).out = s.out := rfl
@[simp] theorem setStitcher_freeCtr (c : Nat) (u : Stitcher) : (s.setStitcher c u).freeCtr = s.freeCtr := rfl
@[simp] theorem setStitcher_order (c : Nat) (u : Stitcher) : (s.setStitcher c u).order = s.order := rfl
@[simp] theorem setStitcher_now (c : Nat) (u : Stitcher) : (s.setStitcher c u).now = s.now := rfl
@[simp] theorem setStitcher_pending (c : Nat) (u : Stitcher) : (s.setStitcher c u).pending = s.pending := rfl
@[simp] theorem core_setStitcher (c : Nat) (u : Stitcher) (m : Nat) : (s.setStitcher c u).core m = s.core m := rfl
@[simp] theorem cluster_setStitcher (c : Nat) (u : Stitcher) (m : Nat) : (s.setStitcher c u).cluster m = s.cluster m := rfl
@[simp] theorem hport_setStitcher (c : Nat) (u : Stitcher) (m : Nat) : (s.setStitcher c u).hport m = s.hport m := rfl
@[simp] theorem fport_setStitcher (c : Nat) (u : Stitcher) (m : Nat) : (s.setStitcher c u).fport m = s.fport m := rfl
@[simp] theorem chan_setStitcher (c : Nat) (u : Stitcher) (m : Nat) : (s.setStitcher c u).chan m = s.chan m := rfl
@[simp] theorem injBlk_setStitcher (c : Nat) (u : Stitcher) (m : Nat) : (s.setStitcher c u).injBlk m = s.injBlk m := rfl

@[simp] theorem ctx_setCtx (c n : Nat) (u : SCtx) : (s.setCtx c n u).ctx c n = u := by simp [State.ctx, State.setCtx, State.stitcher, State.setStitcher]
@[simp] theorem setCtx_cores (c n : Nat) (u : SCtx) : (s.setCtx c n u).cores = s.cores := rfl
@[simp] theorem setCtx_clusters (c n : Nat) (u : SCtx) : (s.setCtx c n u).clusters = s.clusters := rfl
@[simp] theorem setCtx_tasks (c n : Nat) (u : SCtx) : (s.setCtx c n u).tasks = s.tasks := rfl
@[simp] theorem setCtx_mem (c n : Nat) (u : SCtx) : (s.setCtx c n u).mem = s.mem := rfl
@[simp] theorem setCtx_own (c n : Nat) (u : SCtx) : (s.setCtx c n u).own = s.own := rfl
@[simp] theorem setCtx_hosts (c n : Nat) (u : SCtx) : (s.setCtx c n u).hosts = s.hosts := rfl
@[simp] theorem setCtx_aper (c n : Nat) (u : SCtx) : (s.setCtx c n u).aper = s.aper := rfl
@[simp] theorem setCtx_answers (c n : Nat) (u : SCtx) : (s.setCtx c n u).answers = s.answers := rfl
@[simp] theorem setCtx_fab (c n : Nat) (u : SCtx) : (s.setCtx c n u).fab = s.fab := rfl
@[simp] theorem setCtx_pwr (c n : Nat) (u : SCtx) : (s.setCtx c n u).pwr = s.pwr := rfl
@[simp] theorem setCtx_pmem (c n : Nat) (u : SCtx) : (s.setCtx c n u).pmem = s.pmem := rfl
@[simp] theorem setCtx_flash (c n : Nat) (u : SCtx) : (s.setCtx c n u).flash = s.flash := rfl
@[simp] theorem setCtx_sec (c n : Nat) (u : SCtx) : (s.setCtx c n u).sec = s.sec := rfl
@[simp] theorem setCtx_svc (c n : Nat) (u : SCtx) : (s.setCtx c n u).svc = s.svc := rfl
@[simp] theorem setCtx_pins (c n : Nat) (u : SCtx) : (s.setCtx c n u).pins = s.pins := rfl
@[simp] theorem setCtx_out (c n : Nat) (u : SCtx) : (s.setCtx c n u).out = s.out := rfl
@[simp] theorem setCtx_freeCtr (c n : Nat) (u : SCtx) : (s.setCtx c n u).freeCtr = s.freeCtr := rfl
@[simp] theorem setCtx_order (c n : Nat) (u : SCtx) : (s.setCtx c n u).order = s.order := rfl
@[simp] theorem setCtx_now (c n : Nat) (u : SCtx) : (s.setCtx c n u).now = s.now := rfl
@[simp] theorem setCtx_pending (c n : Nat) (u : SCtx) : (s.setCtx c n u).pending = s.pending := rfl
@[simp] theorem core_setCtx (c n : Nat) (u : SCtx) (m : Nat) : (s.setCtx c n u).core m = s.core m := rfl
@[simp] theorem cluster_setCtx (c n : Nat) (u : SCtx) (m : Nat) : (s.setCtx c n u).cluster m = s.cluster m := rfl
@[simp] theorem hport_setCtx (c n : Nat) (u : SCtx) (m : Nat) : (s.setCtx c n u).hport m = s.hport m := rfl
@[simp] theorem fport_setCtx (c n : Nat) (u : SCtx) (m : Nat) : (s.setCtx c n u).fport m = s.fport m := rfl
@[simp] theorem chan_setCtx (c n : Nat) (u : SCtx) (m : Nat) : (s.setCtx c n u).chan m = s.chan m := rfl
@[simp] theorem injBlk_setCtx (c n : Nat) (u : SCtx) (m : Nat) : (s.setCtx c n u).injBlk m = s.injBlk m := rfl

@[simp] theorem sync_setSync (d : Nat) (u : SyncUnit) : ((s.setSync d u).die d).sync = u := by simp [State.setSync]
@[simp] theorem setSync_cores (d : Nat) (u : SyncUnit) : (s.setSync d u).cores = s.cores := rfl
@[simp] theorem setSync_clusters (d : Nat) (u : SyncUnit) : (s.setSync d u).clusters = s.clusters := rfl
@[simp] theorem setSync_tasks (d : Nat) (u : SyncUnit) : (s.setSync d u).tasks = s.tasks := rfl
@[simp] theorem setSync_mem (d : Nat) (u : SyncUnit) : (s.setSync d u).mem = s.mem := rfl
@[simp] theorem setSync_own (d : Nat) (u : SyncUnit) : (s.setSync d u).own = s.own := rfl
@[simp] theorem setSync_hosts (d : Nat) (u : SyncUnit) : (s.setSync d u).hosts = s.hosts := rfl
@[simp] theorem setSync_aper (d : Nat) (u : SyncUnit) : (s.setSync d u).aper = s.aper := rfl
@[simp] theorem setSync_answers (d : Nat) (u : SyncUnit) : (s.setSync d u).answers = s.answers := rfl
@[simp] theorem setSync_fab (d : Nat) (u : SyncUnit) : (s.setSync d u).fab = s.fab := rfl
@[simp] theorem setSync_pwr (d : Nat) (u : SyncUnit) : (s.setSync d u).pwr = s.pwr := rfl
@[simp] theorem setSync_pmem (d : Nat) (u : SyncUnit) : (s.setSync d u).pmem = s.pmem := rfl
@[simp] theorem setSync_flash (d : Nat) (u : SyncUnit) : (s.setSync d u).flash = s.flash := rfl
@[simp] theorem setSync_sec (d : Nat) (u : SyncUnit) : (s.setSync d u).sec = s.sec := rfl
@[simp] theorem setSync_svc (d : Nat) (u : SyncUnit) : (s.setSync d u).svc = s.svc := rfl
@[simp] theorem setSync_pins (d : Nat) (u : SyncUnit) : (s.setSync d u).pins = s.pins := rfl
@[simp] theorem setSync_out (d : Nat) (u : SyncUnit) : (s.setSync d u).out = s.out := rfl
@[simp] theorem setSync_freeCtr (d : Nat) (u : SyncUnit) : (s.setSync d u).freeCtr = s.freeCtr := rfl
@[simp] theorem setSync_order (d : Nat) (u : SyncUnit) : (s.setSync d u).order = s.order := rfl
@[simp] theorem setSync_now (d : Nat) (u : SyncUnit) : (s.setSync d u).now = s.now := rfl
@[simp] theorem setSync_pending (d : Nat) (u : SyncUnit) : (s.setSync d u).pending = s.pending := rfl
@[simp] theorem core_setSync (d : Nat) (u : SyncUnit) (m : Nat) : (s.setSync d u).core m = s.core m := rfl

/-! ### Messages and free values -/

@[simp] theorem emit_out (m : OutMsg) : (s.emit m).out = s.out ++ [m] := rfl
@[simp] theorem emit_cores (m : OutMsg) : (s.emit m).cores = s.cores := rfl
@[simp] theorem emit_clusters (m : OutMsg) : (s.emit m).clusters = s.clusters := rfl
@[simp] theorem emit_dies (m : OutMsg) : (s.emit m).dies = s.dies := rfl
@[simp] theorem emit_tasks (m : OutMsg) : (s.emit m).tasks = s.tasks := rfl
@[simp] theorem emit_mem (m : OutMsg) : (s.emit m).mem = s.mem := rfl
@[simp] theorem emit_own (m : OutMsg) : (s.emit m).own = s.own := rfl
@[simp] theorem emit_hosts (m : OutMsg) : (s.emit m).hosts = s.hosts := rfl
@[simp] theorem emit_aper (m : OutMsg) : (s.emit m).aper = s.aper := rfl
@[simp] theorem emit_answers (m : OutMsg) : (s.emit m).answers = s.answers := rfl
@[simp] theorem emit_fab (m : OutMsg) : (s.emit m).fab = s.fab := rfl
@[simp] theorem emit_pwr (m : OutMsg) : (s.emit m).pwr = s.pwr := rfl
@[simp] theorem emit_pmem (m : OutMsg) : (s.emit m).pmem = s.pmem := rfl
@[simp] theorem emit_flash (m : OutMsg) : (s.emit m).flash = s.flash := rfl
@[simp] theorem emit_sec (m : OutMsg) : (s.emit m).sec = s.sec := rfl
@[simp] theorem emit_svc (m : OutMsg) : (s.emit m).svc = s.svc := rfl
@[simp] theorem emit_pins (m : OutMsg) : (s.emit m).pins = s.pins := rfl
@[simp] theorem emit_freeCtr (m : OutMsg) : (s.emit m).freeCtr = s.freeCtr := rfl
@[simp] theorem emit_order (m : OutMsg) : (s.emit m).order = s.order := rfl
@[simp] theorem emit_now (m : OutMsg) : (s.emit m).now = s.now := rfl
@[simp] theorem emit_pending (m : OutMsg) : (s.emit m).pending = s.pending := rfl
@[simp] theorem emit_core (m : OutMsg) (n : Nat) : (s.emit m).core n = s.core n := rfl
@[simp] theorem free_freeCtr : s.free.2.freeCtr = s.freeCtr + 1 := rfl
@[simp] theorem free_cores : s.free.2.cores = s.cores := rfl
@[simp] theorem free_clusters : s.free.2.clusters = s.clusters := rfl
@[simp] theorem free_dies : s.free.2.dies = s.dies := rfl
@[simp] theorem free_tasks : s.free.2.tasks = s.tasks := rfl
@[simp] theorem free_mem : s.free.2.mem = s.mem := rfl
@[simp] theorem free_own : s.free.2.own = s.own := rfl
@[simp] theorem free_hosts : s.free.2.hosts = s.hosts := rfl
@[simp] theorem free_aper : s.free.2.aper = s.aper := rfl
@[simp] theorem free_answers : s.free.2.answers = s.answers := rfl
@[simp] theorem free_fab : s.free.2.fab = s.fab := rfl
@[simp] theorem free_pwr : s.free.2.pwr = s.pwr := rfl
@[simp] theorem free_pmem : s.free.2.pmem = s.pmem := rfl
@[simp] theorem free_flash : s.free.2.flash = s.flash := rfl
@[simp] theorem free_sec : s.free.2.sec = s.sec := rfl
@[simp] theorem free_svc : s.free.2.svc = s.svc := rfl
@[simp] theorem free_pins : s.free.2.pins = s.pins := rfl
@[simp] theorem free_out : s.free.2.out = s.out := rfl
@[simp] theorem free_order : s.free.2.order = s.order := rfl
@[simp] theorem free_now : s.free.2.now = s.now := rfl
@[simp] theorem free_pending : s.free.2.pending = s.pending := rfl

end Sys2Proof.Laws
end

