-- ==== Sys2Proof/Laws/Issue.lean ====
section
/-! SUPPORT. What issuing an instruction does: on a core that is ready its body runs and ends as its result says; a core that
cannot issue is unaffected. -/

namespace Sys2Proof.Laws

open Sys2Proof.Machine

/-- What makes a core ready. -/
theorem ready_iff {s : State} {c : Nat} : s.ready c = true ↔
    s.canIssue c = true ∧ (s.core c).mem.miss = [] ∧ (s.core c).mem.loads = [] ∧ s.midAccess c = false ∧
      asyncTrap (s.ctxOf c) (s.core c) = none ∧ s.fetch c = (s, none) := by
  simp [State.ready, and_assoc]

theorem ready_canIssue {s : State} {c : Nat} (h : s.ready c = true) : s.canIssue c = true := (ready_iff.mp h).1

theorem ready_settle {s : State} {c : Nat} (h : s.ready c = true) : s.settle c = (s, false) := by
  rw [ready_iff] at h; simp [State.settle, State.fillFirst, State.retireLoads, h]

theorem ready_takeAsync {s : State} {c : Nat} (h : s.ready c = true) : s.takeAsync c = none := by
  rw [ready_iff] at h; simp [State.takeAsync, h]

theorem ready_fetch {s : State} {c : Nat} (h : s.ready c = true) : s.fetch c = (s, none) := (ready_iff.mp h).2.2.2.2.2

/-- Taking an instruction changes the state only through its fetch: an instruction issued in `s` does what it does in the
state that its fetch leaves, once that state is ready. -/
theorem issue_fetch {s s' : State} {h : Issue} (hc : s.canIssue h.core.val = true) (hs : s.settle h.core.val = (s, false))
    (ha : s.takeAsync h.core.val = none) (hf : s.fetch h.core.val = (s', none)) (hr : s'.ready h.core.val = true)
    (w : BitVec 32) (body : State → SysRes) : s.issue h w body = s'.issue h w body := by
  simp [State.issue, hc, hs, ha, ready_canIssue hr, ready_settle hr, ready_takeAsync hr, State.execute, hf, ready_fetch hr]

theorem ready_prog {s : State} {c : Nat} (h : s.ready c = true) : (s.core c).mem.prog = 0 := by
  have := (ready_iff.mp h).2.2.2.1
  simp only [State.midAccess, Bool.or_eq_false_iff, decide_eq_false_iff_not, not_not] at this
  exact this.2

theorem ready_noAnswer {s : State} {c : Nat} (h : s.ready c = true) :
    s.answers.any (fun a => decide (a.who = .core c)) = false := by
  have := (ready_iff.mp h).2.2.2.1
  simp only [State.midAccess, Bool.or_eq_false_iff] at this
  exact this.1

/-- A core that is ready runs the body of an instruction whose RsvZ bits are zero. -/
theorem issue_ready {s : State} {h : Issue} (hr : s.ready h.core.val = true) (hz : h.rsvz = 0) (w : BitVec 32)
    (body : State → SysRes) : s.issue h w body = .next (s.complete h.core.val (body s)) := by
  have hf := ready_fetch hr
  simp [State.issue, ready_canIssue hr, ready_settle hr, ready_takeAsync hr, State.execute, hf, hz, fin]

/-- A RsvZ bit that is set raises ILLEGAL_INSN with the word as it is (R66, R4). -/
theorem issue_rsvz {s : State} {h : Issue} (hr : s.ready h.core.val = true) (hz : h.rsvz ≠ 0) (w : BitVec 32)
    (body : State → SysRes) : s.issue h w body = .next (s.trap h.core.val (tIllegal (w ||| h.rsvz))) := by
  have hf := ready_fetch hr
  simp only [State.issue, ready_canIssue hr, ready_settle hr, ready_takeAsync hr, State.execute, hf, fin]
  simp only [Bool.not_true, Bool.false_eq_true, if_false, if_pos hz]

/-- A core that cannot issue is unaffected. -/
theorem issue_held {s : State} {h : Issue} (hc : s.canIssue h.core.val = false) (w : BitVec 32)
    (body : State → SysRes) : s.issue h w body = .next s := by
  simp [State.issue, hc, fin]

/-- An instruction that began nothing leaves nothing to forget. -/
theorem endInsn_of {s : State} {c : Nat} (hp : (s.core c).mem.prog = 0)
    (ha : s.answers.any (fun a => decide (a.who = .core c)) = false) : s.endInsn c = s := by
  simp [State.endInsn, State.midAccess, hp, ha]

theorem endInsn_setCore {s : State} {c : Nat} (hr : s.ready c = true) {k : Core} (hk : k.mem.prog = 0) :
    (s.setCore c k).endInsn c = s.setCore c k :=
  endInsn_of (by simpa using hk) (ready_noAnswer (s := s) hr)

@[simp] theorem setCore_setCore (s : State) (c : Nat) (k k' : Core) (h : tset {} (tset {} s.cores c k) c k' = tset {} s.cores c k') :
    (s.setCore c k).setCore c k' = s.setCore c k' := by
  simp only [State.setCore]; rw [h]

/-- The state that completing a body leaves, with the PC moved past the instruction (R73). -/
def after (s : State) (c : Nat) (k : Core) : State := (s.setCore c k).setCore c (loopBack k k.pc)

/-- A body that completes on its core alone: the core is as the body left it, past the instruction. -/
theorem issueCore_done {s : State} {h : Issue} (hr : s.ready h.core.val = true) (hz : h.rsvz = 0) (w : BitVec 32)
    {f : Ctx → Core → CoreRes} {k : Core} (hf : f (s.ctxOf h.core.val) (s.core h.core.val) = ok k)
    (hk : k.mem.prog = 0) : s.issueCore h w f = .next (after s h.core.val k) := by
  have hf' : f (s.ctxOf h.core.val) (s.core h.core.val) = .done k [] := hf
  simp only [State.issueCore, issue_ready hr hz, State.onCore, hf', State.complete, State.coreEvents, List.foldl_nil,
    endInsn_setCore hr hk, core_setCore, after]

/-- A body that transfers control. -/
theorem issueCore_jump {s : State} {h : Issue} (hr : s.ready h.core.val = true) (hz : h.rsvz = 0) (w : BitVec 32)
    {f : Ctx → Core → CoreRes} {k : Core} {pc : Word}
    (hf : f (s.ctxOf h.core.val) (s.core h.core.val) = .jump k pc) (hk : k.mem.prog = 0) :
    s.issueCore h w f = .next ((s.setCore h.core.val k).setCore h.core.val { k with pc := pc }) := by
  simp only [State.issueCore, issue_ready hr hz, State.onCore, hf, State.complete, endInsn_setCore hr hk, core_setCore]

/-- A body that traps. -/
theorem issueCore_trap {s : State} {h : Issue} (hr : s.ready h.core.val = true) (hz : h.rsvz = 0) (w : BitVec 32)
    {f : Ctx → Core → CoreRes} {k : Core} {t : Trap}
    (hf : f (s.ctxOf h.core.val) (s.core h.core.val) = .trap k t) (hk : k.mem.prog = 0) :
    s.issueCore h w f = .next ((s.setCore h.core.val k).trap h.core.val t) := by
  simp only [State.issueCore, issue_ready hr hz, State.onCore, hf, State.complete, endInsn_setCore hr hk]

/-- A command whose body answers a next state answers it with the queue as it was. -/
theorem cmd_next {s t : State} {f : State → Out} (h : f s = .next t) :
    s.cmd f = .next { t with pending := s.pending } := by
  simp [State.cmd, h]

theorem cmd_next_same {s t : State} {f : State → Out} (h : f s = .next t) (hp : t.pending = s.pending) :
    s.cmd f = .next t := by
  rw [cmd_next h, ← hp]

/-- No command touches the queue. -/
theorem cmd_pending {s t : State} {f : State → Out} (h : s.cmd f = .next t) : t.pending = s.pending := by
  unfold State.cmd at h
  split at h
  · cases h; rfl
  · rename_i hn; exact absurd h (hn t)

/-- The loop-back moves the core past its instruction, and changes nothing else of it. -/
theorem passed_loopBack (k : Core) : k.passed (loopBack k k.pc) := by
  have e : ∀ x : Word, (x - 1 = 0) = (x = 1) := fun x => propext sub_eq_zero
  obtain ⟨pc, _, _, _, _, _, _, _, ⟨lc0, ls0, le0, lc1, ls1, le1⟩, _, _, _, _, _, _, _, _, _, _, _, _, _⟩ := k
  simp only [Core.passed, loopBack, ne_eq, e]
  by_cases h1 : lc1 = 0 <;> by_cases h2 : lc1 = 1 <;> by_cases h3 : pc = le1 <;> by_cases h4 : lc0 = 0 <;>
    by_cases h5 : lc0 = 1 <;> by_cases h6 : pc = le0 <;> simp_all

theorem onlyCore_after (s : State) (c : Nat) (k : Core) : s.onlyCore (after s c k) c (loopBack k k.pc) := by
  refine ⟨by simp [after], fun n hn => ?_, rfl⟩
  rw [after, core_setCore_other _ _ _ hn, core_setCore_other _ _ _ hn]

theorem completes_after (s : State) (c : Nat) (k : Core) : s.completes (after s c k) c k :=
  ⟨_, passed_loopBack k, onlyCore_after s c k⟩

theorem jumps_setCore (s : State) (c : Nat) (k : Core) (pc : Word) :
    s.jumps ((s.setCore c k).setCore c { k with pc := pc }) c k pc := by
  refine ⟨by simp, fun n hn => ?_, rfl⟩
  rw [core_setCore_other _ _ _ hn, core_setCore_other _ _ _ hn]

/-- A write of a register. -/
theorem bget_bset (k : Core) (b b' : Level) (r n : Nat) (v : Word) :
    bget (bset k b r v) b' n = if b' = b ∧ n = r ∧ n ≠ 0 then v else bget k b' n := by
  unfold bset bget
  by_cases hr : r = 0
  · subst hr; simp
  · by_cases hn : n = 0
    · simp [hn]
    · cases b <;> cases b' <;> simp [hr, hn, bankOf, tget_tset]

theorem wroteReg_xset (k : Core) (rd : Reg) (v : Word) : k.wroteReg (xset k rd v) rd v := by
  refine ⟨fun b n => ?_, ?_⟩
  · rw [xset, bget_bset]
  · unfold xset bset; split
    · rfl
    · split <;> rfl

@[simp] theorem xset_mem (k : Core) (rd : Reg) (v : Word) : (xset k rd v).mem = k.mem := by
  unfold xset bset; split
  · rfl
  · split <;> rfl

/-- An instruction that computes `v` into `rd` from its core. -/
theorem exec_putReg {s : State} {h : Issue} (hr : s.ready h.core.val = true) (hz : h.rsvz = 0) (w : BitVec 32)
    {f : Ctx → Core → CoreRes} {rd : Reg} {v : Word}
    (hf : f (s.ctxOf h.core.val) (s.core h.core.val) = putReg (s.core h.core.val) rd v) :
    ∃ t, (s.cmd fun s => s.issueCore h w f) = .next t ∧ s.writesReg t h.core.val rd v := by
  have hd := issueCore_done hr hz w (f := f) (k := xset (s.core h.core.val) rd v) hf
    (by rw [xset_mem]; exact ready_prog hr)
  exact ⟨_, cmd_next_same hd rfl, _, wroteReg_xset _ _ _, completes_after _ _ _⟩

end Sys2Proof.Laws
end

