-- ==== Sys2Proof/Laws/KnownAnswer.lean ====
section
/-! SUPPORT. The known-answer test (R404): an engine without a defect gives the products that MUL forms. -/

namespace Sys2Proof.Laws

open Sys2Proof.Machine

theorem sgn_toInt (a : BitVec 16) : sgn 16 a.toNat = a.toInt := by
  have h : a.toNat < 65536 := a.isLt
  simp only [sgn, BitVec.toInt_eq_toNat_cond]
  split <;> split <;> omega

/-- The cell of an ILO or IHI pass holds the product that MUL forms of the two lanes. -/
theorem mpWord_mul {mode : Nat} (hm : mode < 2) {lx ly : Line} {r c : Nat} {a b : BitVec 16} (ha : laneOf lx r = a.toNat)
    (hb : laneOf ly c = b.toNat) :
    mpWord mode lx ly r c = (((a.signExtend 64 * b.signExtend 64) >>> (16 * mode)).truncate 16 : BitVec 16).toNat := by
  have hp : ((a.signExtend 64 * b.signExtend 64).toNat : Int) = (a.toInt * b.toInt) % 2 ^ 64 := by
    have h1 := BitVec.toInt_signExtend_of_le (x := a) (v := 64) (by omega)
    have h2 := BitVec.toInt_signExtend_of_le (x := b) (v := 64) (by omega)
    have h := BitVec.toInt_mul (a.signExtend 64) (b.signExtend 64)
    rw [h1, h2] at h
    have h3 := (BitVec.toInt_eq_toNat_bmod (a.signExtend 64 * b.signExtend 64))
    have h4 : (a.signExtend 64 * b.signExtend 64).toNat < 2 ^ 64 := BitVec.isLt _
    rw [h3] at h
    have h5 := congrArg (fun x : Int => x % ((2 ^ 64 : Nat) : Int)) h
    simp only [Int.bmod_emod] at h5
    omega
  simp only [mpWord, laneInt, ha, hb, sgn_toInt, unsgn]
  generalize a.toInt * b.toInt = p at hp ⊢
  generalize a.signExtend 64 * b.signExtend 64 = v at hp ⊢
  have hv : v.toNat < 2 ^ 64 := v.isLt
  obtain rfl | rfl : mode = 0 ∨ mode = 1 := by omega
  · simp; omega
  · simp [Nat.shiftRight_eq_div_pow]; omega

/-- A cell that no defect touches holds what the test compares it with (R180, R404). -/
theorem mpWord_katProduct {pass cell : Nat} (hp : pass < 8) {lx ly : Line}
    (hx : laneOf lx (cell / 64) = (katLane (pass % 4) false (cell / 64)).toNat)
    (hy : laneOf ly (cell % 64) = (katLane (pass % 4) true (cell % 64)).toNat) :
    mpWord (pass / 4) lx ly (cell / 64) (cell % 64) = (katProduct pass cell).toNat :=
  mpWord_mul (by omega) hx hy

/-- A core on which no cell reads wrong fails no pass. -/
theorem katFirst_nil (e : Nat) : katFirst [] e = none := by simp [katFirst, katWrong]

end Sys2Proof.Laws
end

