-- ==== Sys2Proof/Laws/Memory.lean ====
section
/-! SUPPORT. Laws of main memory: a sector read after it is written, every other byte as before, and the canonical
form that every writer of main memory keeps. -/

namespace Sys2Proof.Laws

open Sys2Proof.Machine

theorem twf_foldl_tset (f : Nat → Nat) (g : Nat → Byte) (l : List Nat) (m : List Host.Cell) (h : twf 0 m = true) :
    twf 0 (l.foldl (fun m i => tset 0 m (f i) (g i)) m) = true := by
  induction l generalizing m with
  | nil => exact h
  | cons i l ih => exact ih _ (twf_tset _ _ h)

theorem tget_foldl_tset_other (f : Nat → Nat) (g : Nat → Byte) (l : List Nat) (m : List Host.Cell) (a : Nat)
    (h : ∀ i ∈ l, f i ≠ a) : tget 0 (l.foldl (fun m i => tset 0 m (f i) (g i)) m) a = tget 0 m a := by
  induction l generalizing m with
  | nil => rfl
  | cons i l ih =>
    rw [List.foldl_cons, ih _ (fun j hj => h j (List.mem_cons_of_mem _ hj)),
      tget_tset_other _ _ (h i List.mem_cons_self).symm]

theorem tget_foldl_tset_range (b n i : Nat) (g : Nat → Byte) (m : List Host.Cell) (h : i < n) :
    tget 0 ((List.range n).foldl (fun m i => tset 0 m (b + i) (g i)) m) (b + i) = g i := by
  induction n with
  | zero => omega
  | succ n ih =>
    rw [List.range_succ, List.foldl_append, List.foldl_cons, List.foldl_nil, tget_tset]
    split
    · rw [show i = n by omega]
    · exact ih (by omega)

/-- Writing a sector keeps the canonical form. -/
theorem twf_putSector (m : List Host.Cell) (sec : Nat) (d : Sector) (h : twf 0 m = true) :
    twf 0 (putSector m sec d) = true := twf_foldl_tset _ _ _ _ h

/-- A byte read after a sector is written: a byte of the sector as written, every other byte as before. -/
theorem tget_putSector (m : List Host.Cell) (sec a : Nat) (d : Sector) :
    tget 0 (putSector m sec d) a = if a / 32 = sec then byteOf d (a % 32) else tget 0 m a := by
  unfold putSector
  split
  · subst sec
    have := tget_foldl_tset_range (32 * (a / 32)) 32 (a % 32) (fun i => byteOf d i) m (Nat.mod_lt _ (by decide))
    rwa [Nat.div_add_mod] at this
  · refine tget_foldl_tset_other _ _ _ _ _ (fun i hi e => ?_)
    rw [List.mem_range] at hi
    omega

/-- Clearing a granule of main memory keeps the canonical form. -/
theorem twf_clearGranule (m : List Host.Cell) (g : Nat) (h : twf 0 m = true) :
    twf 0 (tclear m (g * 2 ^ 30) (2 ^ 30)) = true := twf_tclear _ _ h

@[simp] theorem errorAt_cells (l : List Nat) (s : State) : (s.errorAt l).1.mem.cells = s.mem.cells := by
  unfold State.errorAt
  suffices h : ∀ (l : List Nat) (a : State × ErrPat), (l.foldl (fun (a : State × ErrPat) k =>
      let (v, s) := a.1.free
      (s, xorPat a.2 [(k, BitVec.ofNat 8 (v.toNat % 255 + 1))])) a).1.mem.cells = a.1.mem.cells from h l (s, [])
  intro l
  induction l with
  | nil => intro a; rfl
  | cons k l ih => intro a; exact ih _

@[simp] theorem fire_cells (s : State) (u : Nat) (l : List Nat) : (s.fire u l).mem.cells = s.mem.cells := by
  unfold State.fire
  dsimp only
  split
  · rfl
  · split
    · rfl
    · unfold State.log
      (repeat' split) <;> rfl

/-- A burst written to main memory, with any injected error, keeps the canonical form. -/
theorem memWrite_memWf (s : State) (pa : Nat) (d : Sector) (p : Bool) (h : s.memWf = true) :
    (s.memWrite pa d p).memWf = true := by
  unfold State.memWf State.memWrite at *
  dsimp only
  split
  · exact h
  · refine twf_putSector _ _ _ ?_
    split
    · exact h
    · split
      · simp only [fire_cells, errorAt_cells]; exact h
      · exact h

/-- Reset's memory has the canonical form. -/
theorem reset_memWf : State.reset.memWf = true := rfl

end Sys2Proof.Laws
end

