-- ==== Sys2Proof/Laws/Packets.lean ====
section
/-! SUPPORT. Rows that name a packet: what `State.take` answers when the packet's turn has come, and the rule that a row
ends its packet. -/

namespace Sys2Proof.Machine

/-- A queue all of whose packets have been checked has nothing to look at. -/
theorem pump_of_asked {s : State} {q : QId} (h : ∀ x ∈ (s.queue q).pkts, x.asked = true) : s.pump q = s := by
  have : (s.queue q).pkts.find? (fun p => decide (p.st = .waiting) && !p.asked) = none := by
    rw [List.find?_eq_none]; intro x hx; simp [h x hx]
  simp [State.pump, this]

theorem turn_find {s : State} {r : PktRef} {op : Nat} {p : Pkt} (h : s.turn r op p) :
    (s.queue r.queue).pkts.find? (fun x => decide (x.pos = r.pos.toNat) && decide (x.op = op)) = some p := by
  obtain ⟨⟨hm, hp, ho⟩, ha, -⟩ := h
  cases hf : (s.queue r.queue).pkts.find? (fun x => decide (x.pos = r.pos.toNat) && decide (x.op = op)) with
  | none => rw [List.find?_eq_none] at hf; exact absurd (hf p hm) (by simp [hp, ho])
  | some y =>
    have h1 := List.find?_some hf
    have h2 := List.mem_of_find?_eq_some hf
    simp only [Bool.and_eq_true, decide_eq_true_eq] at h1
    rw [(ha y h2).2 (h1.1.trans hp.symm)]

/-- A turn in the rotation changes nothing but the queues of the dies. -/
theorem served_dies (s : State) (q : QId) : { s.served q with dies := s.dies } = s := by
  have h : ∀ (l : List QId) (a : State), { l.foldl (fun s x =>
      s.setQueue x { s.queue x with passed := (s.queue x).passed ++ [qKey q] }) a with dies := s.dies } =
      { a with dies := s.dies } := by
    intro l
    induction l with
    | nil => intro a; rfl
    | cons x l ih => intro a; exact ih _
  exact h _ s

@[simp] theorem served_now (s : State) (q : QId) : (s.served q).now = s.now := show (({ s.served q with dies := s.dies } : State).now = s.now) by rw [served_dies]
@[simp] theorem served_pending (s : State) (q : QId) : (s.served q).pending = s.pending :=
  show (({ s.served q with dies := s.dies } : State).pending = s.pending) by rw [served_dies]

/-- A packet whose turn has come begins. -/
theorem take_turn {s : State} {r : PktRef} {op : Nat} {p : Pkt} (h : s.turn r op p) :
    s.take r op = (s.begun r.queue p, some (p.begins s, true)) := by
  have hf := turn_find h
  obtain ⟨⟨hm, hp, ho⟩, ha, ⟨hb, hbl⟩, hr, hu, h0⟩ := h
  have hup : (bitAt p.h0 8 && (s.queue r.queue).poisoned && decide (op ≠ 0x13) && decide (op ≠ 0x11)) = false := by
    by_cases h8 : bitAt p.h0 8 = true
    · by_cases h13 : op = 0x13
      · simp [h13]
      · by_cases h11 : op = 0x11
        · simp [h11]
        · simp [hu h8 h13 h11]
    · simp [h8]
  have hop : (opPart0 op && decide (p.part ≠ 0)) = false := by
    by_cases hq : opPart0 op = true
    · simp [h0 hq]
    · simp [hq]
  have hpm := pump_of_asked (fun x hx => (ha x hx).1)
  have hw : p.st ≠ .begun := by
    have hl : s.lined r.queue p = true := by
      simp only [State.mayStart, Bool.and_eq_true] at hb; exact hb.1.1
    simp only [State.lined, Bool.and_eq_true, decide_eq_true_eq] at hl
    simp [hl.1.1.1.1]
  have hx : (!s.mayStart r.queue p || !s.inRotation r.queue) = false := by simp [hb, hbl]
  simp only [State.take, hpm, hf, if_neg hw, hx, hup, hop]
  cases hg : (s.queue r.queue).region with
  | none => simp [State.begun, Pkt.begins]
  | some g =>
    rcases hr g hg with h1 | ⟨h1, h2⟩
    · simp [h1, State.begun, Pkt.begins]
    · rcases h1 with h1 | h1
      · simp [h1, State.begun, Pkt.begins, regionRefused]
      · simp [h1, h2, State.begun, Pkt.begins]

/-- A row runs its body on a packet whose turn has come. -/
theorem pktRow_turn {s : State} {r : PktRef} {op : Nat} {p : Pkt} (h : s.turn r op p) (f : State → QId → Pkt → Bool → State) :
    s.cmd (fun s => s.pktRow r op f) = .next { f (s.begun r.queue p) r.queue (p.begins s) true with pending := s.pending } := by
  simp [State.cmd, State.pktRow, take_turn h, fin]

end Sys2Proof.Machine
end

