-- ==== Sys2Proof/Laws/Traps.lean ====
section
/-! SUPPORT. Trap entry, once (R82 to R84, R91): the core that enters a handler, and an instruction that traps. -/

namespace Sys2Proof.Laws

open Sys2Proof.Machine

@[simp] theorem tregs_setTregs (k : Core) (l : Level) (t : TrapRegs) : tregs (setTregs k l t) l = t := by
  cases l <;> rfl

theorem trapTarget_eq (k : Core) (code : Byte) : trapTarget k code = k.target code := by
  unfold trapTarget Core.target
  by_cases h1 : k.level = .f <;> by_cases h2 : code = cDOUBLE_FAULT <;> simp [h1, h2]

theorem toNat_lt_32 (n : Nat) : field (BitVec.ofNat 64 n) 0 32 < 2 ^ 32 := Nat.mod_lt _ (by norm_num)

/-- A word made of two halves. -/
theorem halves_toNat (a b : Nat) (ha : a < 2 ^ 32) (hb : b < 2 ^ 32) :
    (place a 32 32 ||| place b 0 32).toNat = a * 2 ^ 32 + b := by
  rw [BitVec.toNat_or]
  have h1 : (place a 32 32).toNat = a <<< 32 := by
    rw [Nat.shiftLeft_eq, place, BitVec.toNat_ofNat, Nat.mod_eq_of_lt (show a < 2 ^ 32 from ha)]
    exact Nat.mod_eq_of_lt (by omega)
  have h2 : (place b 0 32).toNat = b := by
    rw [place, BitVec.toNat_ofNat, Nat.mod_eq_of_lt (show b < 2 ^ 32 from hb)]; omega
  rw [h1, h2, ← Nat.shiftLeft_add_eq_or_of_lt hb, Nat.shiftLeft_eq]

theorem cause_toNat (d : BitVec 32) (c : Byte) :
    (place d.toNat 32 32 ||| c.setWidth 64).toNat = d.toNat * 2 ^ 32 + c.toNat := by
  have h : c.setWidth 64 = place c.toNat 0 32 := by
    apply BitVec.eq_of_toNat_eq; simp only [place, BitVec.toNat_setWidth, BitVec.toNat_ofNat]; omega
  rw [h, halves_toNat _ _ d.isLt (by omega)]

/-- The status that trap entry writes. -/
def entryStatus (lv bk : Level) (pie exch : Bool) : Word :=
  setBit (place lv.num 7 2 ||| place bk.num 9 2 ||| place (b2n pie) 1 1 ||| 4#64) 11 exch

theorem entryStatus_says (lv bk : Level) (pie exch : Bool) (r : TrapRegs) (h : r.status = entryStatus lv bk pie exch) :
    stPLVL r = lv ∧ stPIE r = pie ∧ stIE r = false ∧ stIH r = true ∧ stPBANK r = bk ∧ stXSP r = exch ∧
      r.status &&& 0xFFFFFFFFFFFFF078#64 = 0 := by
  unfold stPLVL stPIE stIE stIH stPBANK stXSP
  rw [h]
  cases lv <;> cases bk <;> cases pie <;> cases exch <;> decide

theorem bget_swapSp (k : Core) (l : Level) (b : Level) (n : Nat) :
    bget (swapSp k l) b n = if b = k.bank ∧ n = 2 then (tregs k l).sp else bget k b n := by
  have h : bget (swapSp k l) b n = bget (bset k k.bank 2 (tregs k l).sp) b n := by
    cases l <;> cases b <;> rfl
  rw [h, bget_bset]
  by_cases hb : b = k.bank <;> by_cases hn : n = 2 <;> simp [hb, hn]

/-- The core that enters a handler. -/
def enteredCore (k : Core) (l : Level) (epc : Word) (t : Trap) : Core :=
  { enterTrap k l epc t with
    run := .running, injSync := false, injAsync := k.injAsync.filter (fun x => !decide (x = t.code)) }

/-- The low byte of CAUSE is the trap's code. -/
theorem cause_code (d : BitVec 32) (c : Byte) : (place d.toNat 32 32 ||| c.setWidth 64).setWidth 8 = c := by
  apply BitVec.eq_of_toNat_eq
  rw [BitVec.toNat_setWidth, cause_toNat]
  omega

/-- A trap that is entered leaves its core so. -/
theorem taken_entered (s : State) (c : Nat) (k : Core) (l : Level) (hl : l ≠ .u) (epc : Word) (t : Trap) :
    s.taken c (.entered (enterTrap k l epc t)) = s.setCore c (enteredCore k l epc t) := by
  have hc : ((tregs (enterTrap k l epc t) (enterTrap k l epc t).level).cause.setWidth 8 : Byte) = t.code := by
    rw [← cause_code t.detail t.code]
    unfold enterTrap
    rcases (saveset k || decide (k.bank = l)) with _ | _ <;> cases l <;>
      simp [setTregs, tregs, swapSp, bset] at hl ⊢
  have hi : (enterTrap k l epc t).injAsync = k.injAsync := by
    unfold enterTrap
    rcases (saveset k || decide (k.bank = l)) with _ | _ <;> cases l <;>
      simp [setTregs, swapSp, bset] at hl ⊢ <;> (repeat' split) <;> rfl
  unfold State.taken
  dsimp only
  rw [hc, hi]
  rfl

/-- Trap entry, whole. -/
theorem enters_enterTrap (k : Core) (l : Level) (hl : l ≠ .u) (epc : Word) (t : Trap) :
    k.enters (enteredCore k l epc t) l epc t := by
  have hloop : (place (field k.lp.lc1 0 32) 32 32 ||| place (field k.lp.lc0 0 32) 0 32).toNat =
      field k.lp.lc1 0 32 * 2 ^ 32 + field k.lp.lc0 0 32 :=
    halves_toNat _ _ (Nat.mod_lt _ (by norm_num)) (Nat.mod_lt _ (by norm_num))
  have hcause := cause_toNat t.detail t.code
  unfold Core.enters enteredCore
  rcases he : (saveset k || decide (k.bank = l)) with _ | _
  · refine ⟨?_, ?_, ?_, ?_, ?_, ?_, ?_, ?_, ⟨rfl, rfl⟩, ?_⟩
    · cases l <;> simp [enterTrap, he, setTregs, tregs] at hl ⊢
    · refine ⟨?_, Eq.trans ?_ hcause, ?_⟩ <;> cases l <;> simp [enterTrap, he, setTregs, tregs] at hl ⊢
    · refine entryStatus_says k.level k.bank _ _ _ ?_
      cases l <;> simp [enterTrap, he, setTregs, tregs, entryStatus] at hl ⊢
    · refine ⟨?_, ?_, Eq.trans ?_ hloop⟩ <;> cases l <;> simp [enterTrap, he, setTregs, tregs] at hl ⊢
    · cases l <;> simp [enterTrap, he, setTregs, tregs] at hl ⊢
    · refine ⟨?_, ?_, fun b n => ?_⟩ <;> cases l <;> simp [enterTrap, he, setTregs, tregs] at hl ⊢ <;> cases b <;> rfl
    · cases l <;> simp [enterTrap, he, setTregs, tregs] at hl ⊢
    · cases l <;> simp [enterTrap, he, setTregs, tregs] at hl ⊢
    · cases l <;> simp [enterTrap, he, setTregs, tregs] at hl ⊢
  · unfold enterTrap
    simp only [he, if_true]
    clear he
    obtain ⟨pc, lvl, bk, run, xu, xs, xf, cr, lp, ts, tf, tc, wd, par, vec, tile, acc, mem, task, cyc, isy, ias⟩ := k
    refine ⟨?_, ?_, ?_, ?_, ?_, ?_, ?_, ?_, ⟨trivial, trivial⟩, ?_⟩
    · cases l <;> simp at hl ⊢
    · refine ⟨?_, Eq.trans ?_ hcause, ?_⟩ <;> cases l <;> simp [setTregs, tregs, swapSp] at hl ⊢
    · refine entryStatus_says lvl bk _ _ _ ?_
      cases l <;> simp [setTregs, tregs, swapSp, entryStatus] at hl ⊢
    · refine ⟨?_, ?_, Eq.trans ?_ hloop⟩ <;> cases l <;> simp [setTregs, tregs, swapSp] at hl ⊢
    · cases l <;> cases bk <;> simp [setTregs, tregs, swapSp, bset] at hl ⊢
    · refine ⟨?_, ?_, fun b n => ?_⟩
      · cases l <;> cases bk <;> simp [setTregs, tregs, swapSp, bset] at hl ⊢
      · cases l <;> simp [setTregs, tregs, swapSp] at hl ⊢ <;> cases bk <;> rfl
      · by_cases hn : n = 2
        · subst hn
          cases l <;> cases bk <;> cases b <;> simp [setTregs, tregs, swapSp, bset, bget, bankOf] at hl ⊢
        · cases l <;> cases bk <;> cases b <;>
            simp [setTregs, tregs, swapSp, bset, bget, bankOf, tget_tset, hn] at hl ⊢
    · cases l <;> simp [setTregs, tregs, swapSp] at hl ⊢
    · cases l <;> cases bk <;> simp [setTregs, tregs, swapSp, bset] at hl ⊢
    · cases l <;> cases bk <;> simp [setTregs, tregs, swapSp, bset] at hl ⊢

theorem target_ne_u (k : Core) (code : Byte) : k.target code ≠ .u := by
  unfold Core.target; split <;> simp

/-- A trap raised while its target's handler is not running enters it (R91). -/
theorem raise_entered {k : Core} {t : Trap} (h : stIH (tregs k (k.target t.code)) = false) :
    raise k t = .entered (enterTrap k (k.target t.code) k.pc t) := by
  simp [raise, raiseAt, trapTarget_eq, h]

/-- A synchronous trap: the core enters the handler, and nothing else changes. -/
theorem trap_traps {s s' : State} {c : Nat} {t : Trap} (hk : s'.core c = s.core c) (ho : ∀ n, n ≠ c → s'.core n = s.core n)
    (hs : { s' with cores := s.cores } = s) (hc : s.canTrap c t.code = true) : s.traps (s'.trap c t) c t := by
  have hi : stIH (tregs (s.core c) ((s.core c).target t.code)) = false := by simpa [State.canTrap] using hc
  have he : s'.trap c t =
      s'.setCore c (enteredCore (s.core c) ((s.core c).target t.code) (s.core c).pc t) := by
    rw [State.trap, hk, raise_entered hi, taken_entered _ _ _ _ (target_ne_u _ _)]
  refine ⟨_, enters_enterTrap (s.core c) _ (target_ne_u _ _) (s.core c).pc t, ?_⟩
  rw [he]
  exact ⟨by simp, fun n hn => by rw [core_setCore_other _ _ _ hn, ho n hn], hs⟩

/-- An instruction whose body traps with its core as it was. -/
theorem exec_trap {s : State} {h : Issue} (hr : s.ready h.core.val = true) (hz : h.rsvz = 0) (w : BitVec 32)
    {f : Ctx → Core → CoreRes} {t : Trap}
    (hf : f (s.ctxOf h.core.val) (s.core h.core.val) = .trap (s.core h.core.val) t)
    (hc : s.canTrap h.core.val t.code = true) :
    ∃ u, (s.cmd fun s => s.issueCore h w f) = .next u ∧ s.traps u h.core.val t := by
  have hd := issueCore_trap hr hz w hf (ready_prog hr)
  have ht : s.traps ((s.setCore h.core.val (s.core h.core.val)).trap h.core.val t) h.core.val t :=
    trap_traps (by simp) (fun n hn => core_setCore_other _ _ _ hn) rfl hc
  refine ⟨_, cmd_next_same hd ?_, ht⟩
  obtain ⟨k', _, _, _, h3⟩ := ht
  rw [← congrArg State.pending h3]

end Sys2Proof.Laws
end

