-- ==== Sys2Proof/Laws/Vector.lean ====
section
/-! SUPPORT. Laws of vector elements (R106): a read after a write of elements of one width. -/

namespace Sys2Proof.Laws

open Sys2Proof.Machine

/-- A field of a word whose bits in another place were replaced. -/
theorem field_put {N : Nat} (x : BitVec N) (lo w v lo' : Nat) (h : lo + w ≤ N) (h' : lo' + w ≤ N)
    (hd : lo' = lo ∨ lo' + w ≤ lo ∨ lo + w ≤ lo') :
    field ((x &&& ~~~(ones lo w)) ||| BitVec.ofNat N (v % 2 ^ w * 2 ^ lo)) lo' w =
      if lo' = lo then v % 2 ^ w else field x lo' w := by
  have hb : ∀ y : BitVec N, ∀ i, (field y lo' w).testBit i = (decide (i < w) && y.getLsbD (lo' + i)) := by
    intro y i
    rw [field, Nat.testBit_mod_two_pow, Nat.testBit_div_two_pow, BitVec.getLsbD, Nat.add_comm]
  have hones : ∀ i, (ones lo w : BitVec N).getLsbD i = (decide (i < N) && (decide (lo ≤ i) && decide (i < lo + w))) := by
    intro i
    rw [ones, BitVec.getLsbD_ofNat, Nat.testBit_mul_two_pow, Nat.testBit_two_pow_sub_one]
    by_cases h1 : lo ≤ i
    · have : (i - lo < w) = (i < lo + w) := propext ⟨fun _ => by omega, fun _ => by omega⟩
      simp [h1, this]
    · simp [h1]
  apply Nat.eq_of_testBit_eq
  intro i
  rw [hb]
  have hv : (BitVec.ofNat N (v % 2 ^ w * 2 ^ lo)).getLsbD (lo' + i) =
      (decide (lo' + i < N) && (decide (lo ≤ lo' + i) && (decide (lo' + i - lo < w) && v.testBit (lo' + i - lo)))) := by
    rw [BitVec.getLsbD_ofNat, Nat.testBit_mul_two_pow, Nat.testBit_mod_two_pow]
  rw [BitVec.getLsbD_or, BitVec.getLsbD_and, BitVec.getLsbD_not, hones, hv]
  by_cases hi : i < w
  · have hN : lo' + i < N := by omega
    rcases hd with rfl | hd | hd
    · have : lo' + i - lo' = i := by omega
      simp only [hN, hi, this, if_true, Nat.testBit_mod_two_pow]
      simp [hi]
    · have h1 : ¬ lo ≤ lo' + i := by omega
      have h2 : lo' ≠ lo := by omega
      simp [h1, h2, hi, hN, hb]
    · have h1 : ¬ lo' + i < lo + w := by omega
      have h2 : lo' ≠ lo := by omega
      have h3 : ¬ lo' + i - lo < w := by omega
      simp [h1, h2, h3, hi, hN, hb]
  · split
    · simp [hi, Nat.testBit_mod_two_pow]
    · simp [hi, hb]

/-- Elements of one width do not straddle registers. -/
theorem elem_fits {w : Nat} (hw : w ∣ 128) (i : Nat) : i * w % 128 + w ≤ 128 := by
  obtain ⟨m, hm⟩ := hw
  have hw0 : 0 < w := by rcases Nat.eq_zero_or_pos w with h | h <;> simp_all
  have hm0 : 0 < m := by rcases Nat.eq_zero_or_pos m with h | h <;> simp_all
  rw [hm, Nat.mul_comm i w, Nat.mul_mod_mul_left]
  have := Nat.mod_lt i hm0
  calc w * (i % m) + w = w * (i % m + 1) := by ring
    _ ≤ w * m := Nat.mul_le_mul_left _ this

/-- Two elements in one register are the same or apart. -/
theorem elem_apart {w i j : Nat} (hw : w ∣ 128) (hr : i * w / 128 = j * w / 128) (hij : i ≠ j) :
    j * w % 128 + w ≤ i * w % 128 ∨ i * w % 128 + w ≤ j * w % 128 := by
  have hw0 : 0 < w := by rcases Nat.eq_zero_or_pos w with h | h <;> simp_all
  have e1 := Nat.div_add_mod (i * w) 128
  have e2 := Nat.div_add_mod (j * w) 128
  rw [hr] at e1
  rcases Nat.lt_or_gt_of_ne hij with h | h
  · right
    have := Nat.mul_le_mul_right w (show i + 1 ≤ j from h)
    rw [Nat.add_mul] at this; omega
  · left
    have := Nat.mul_le_mul_right w (show j + 1 ≤ i from h)
    rw [Nat.add_mul] at this; omega

/-- A read after a write of one element. -/
theorem vElem_vPut {v : Tbl (BitVec 128)} {b w : Nat} (hw : w ∣ 128) (i j x : Nat) :
    vElem (vPut v b w i x) b w j = if j = i then x % 2 ^ w else vElem v b w j := by
  unfold vElem vPut tmod
  by_cases hr : i * w / 128 = j * w / 128
  · rw [hr, tget_tset_same, field_put _ _ _ _ _ (elem_fits hw i) (elem_fits hw j)]
    · by_cases hij : j = i
      · subst hij; simp
      · have : j * w % 128 ≠ i * w % 128 := by
          intro he
          rcases elem_apart hw hr (Ne.symm hij) with h | h <;>
          · rw [he] at h
            have hw0 : 0 < w := by rcases Nat.eq_zero_or_pos w with h | h <;> simp_all
            omega
        rw [if_neg this, if_neg hij]
    · by_cases hij : j = i
      · left; rw [hij]
      · rcases elem_apart hw hr (Ne.symm hij) with h | h <;> omega
  · rw [tget_tset_other _ _ (by omega)]
    rw [if_neg (by rintro rfl; exact hr rfl)]

/-- A write of one element leaves the registers that do not hold it. -/
theorem tget_vPut_other {v : Tbl (BitVec 128)} {b w i x r : Nat} (h : r ≠ b + i * w / 128) :
    tget 0 (vPut v b w i x) r = tget 0 v r := tget_tset_other _ _ h

/-- A read after a write of several elements, each given by its index. -/
theorem vElem_vPuts {b w : Nat} (hw : w ∣ 128) (f : Nat → Nat) (l : List Nat) (v : Tbl (BitVec 128)) (j : Nat) :
    vElem (vPuts v b w (l.map (fun i => (i, f i)))) b w j = if j ∈ l then f j % 2 ^ w else vElem v b w j := by
  induction l generalizing v with
  | nil => rfl
  | cons i l ih =>
    have := ih (vPut v b w i (f i))
    simp only [vPuts, List.map_cons, List.foldl_cons] at this ⊢
    rw [this, vElem_vPut hw]
    by_cases h1 : j ∈ l <;> by_cases h2 : j = i <;> simp [h1, h2]

theorem tget_vPuts_other {b w r : Nat} (l : List (Nat × Nat)) (v : Tbl (BitVec 128))
    (h : ∀ e ∈ l, r ≠ b + e.1 * w / 128) : tget 0 (vPuts v b w l) r = tget 0 v r := by
  induction l generalizing v with
  | nil => rfl
  | cons e l ih =>
    simp only [vPuts, List.foldl_cons] at ih ⊢
    rw [ih _ (fun x hx => h x (List.mem_cons_of_mem _ hx)), tget_vPut_other (h e (List.mem_cons_self ..))]

/-- Writing the elements of `l`, all below `n`, changes exactly them. -/
theorem wroteElems_vWrite {k : Core} {vd w n : Nat} (hw : w ∣ 128) (l : List Nat) (f : Nat → Nat)
    (hl : ∀ i ∈ l, i < n) :
    k.wroteElems (vWrite k vd w (l.map (fun i => (i, f i)))) vd w n (fun i => decide (i ∈ l)) (fun i => f i % 2 ^ w) := by
  refine ⟨fun i _ => ?_, fun r hr => ?_, rfl⟩
  · simp only [vWrite, vElem_vPuts hw, decide_eq_true_eq]
  · simp only [vWrite]
    apply tget_vPuts_other
    intro e he
    obtain ⟨i, hi, rfl⟩ := List.mem_map.mp he
    have h1 := hl i hi
    have hw0 : 0 < w := by rcases Nat.eq_zero_or_pos w with h | h <;> simp_all
    have h2 : i * w / 128 < (n * w + 127) / 128 := by
      rw [Nat.div_lt_iff_lt_mul (by omega)]
      have : (i + 1) * w ≤ n * w := Nat.mul_le_mul_right _ h1
      have h3 := Nat.div_add_mod (n * w + 127) 128
      have h4 := Nat.mod_lt (n * w + 127) (show 0 < 128 by omega)
      rw [Nat.add_mul] at this
      omega
    simp only
    omega

theorem wroteElems_congr {k k' : Core} {vd w n : Nat} {p q : Nat → Bool} {f g : Nat → Nat}
    (h : k.wroteElems k' vd w n p f) (hp : ∀ i, i < n → p i = q i) (hf : ∀ i, i < n → p i = true → f i = g i) :
    k.wroteElems k' vd w n q g := by
  refine ⟨fun i hi => ?_, h.2.1, h.2.2⟩
  rw [h.1 i hi, ← hp i hi]
  split
  · exact hf i hi (by assumption)
  · rfl

/-- The widths of the types of VSHAPE divide a register. -/
theorem tyWidth_dvd (x : Ctx) (k : Core) : tyWidth (vType x k) ∣ 128 := by
  have h : ∀ t : VTy, t ∈ [VTy.int 8, .int 16, .int 32, .int 64] ∨ (∃ f, t = .fp f) → tyWidth (effTy x.rung t) ∣ 128 := by
    rintro t (ht | ⟨f, rfl⟩)
    · simp only [List.mem_cons, List.not_mem_nil, or_false] at ht
      rcases ht with h | h | h | h <;> subst h <;> simp only [effTy, tyWidth] <;> decide
    · simp only [effTy]
      generalize effFmt x.rung f = f
      cases f <;> decide
  refine h _ ?_
  unfold tyOfCode
  split <;> simp

/-- Groups of one size that start at multiples of it are the same or apart. -/
theorem groupsOk_aligned {g : Nat} {l : List Nat} (h : ∀ v ∈ l, v % g = 0) :
    groupsOk (l.map (fun v => (v, g))) = true := by
  induction l with
  | nil => rfl
  | cons v l ih =>
    have h1 := h v (List.mem_cons_self ..)
    have h2 : ∀ u ∈ l, u % g = 0 := fun u hu => h u (List.mem_cons_of_mem _ hu)
    simp only [List.map_cons, groupsOk, Bool.and_eq_true, decide_eq_true_eq]
    refine ⟨⟨h1, ?_⟩, ih h2⟩
    rw [List.all_eq_true]
    intro e he
    obtain ⟨u, hu, rfl⟩ := List.mem_map.mp he
    have h3 := h2 u hu
    obtain ⟨a, ha⟩ := Nat.dvd_of_mod_eq_zero h1
    obtain ⟨b, hb⟩ := Nat.dvd_of_mod_eq_zero h3
    subst ha hb
    simp only [Bool.or_eq_true, decide_eq_true_eq, Prod.mk.injEq, and_true]
    rcases Nat.lt_trichotomy a b with h | h | h
    · left; right
      have := Nat.mul_le_mul_left g (show a + 1 ≤ b from h)
      rw [Nat.mul_add] at this; omega
    · left; left; rw [h]
    · right
      have := Nat.mul_le_mul_left g (show b + 1 ≤ a from h)
      rw [Nat.mul_add] at this; omega

/-- The active elements are the indices below VCNT that R111 calls active. -/
theorem mem_vActive {k : Core} {m : VMask} {i : Nat} : i ∈ vActive k m ↔ k.active m i = true := by
  simp [vActive, Core.active, bitAt, and_assoc]

/-- Groups of size G that start at multiples of G pass the group check (R106, R107). -/
theorem groupsOk_src {k : Core} {src : VSrc} {l : List (BitVec 6)} (ha : k.aligned (l ++ srcRegs src)) :
    groupsOk (l.map (fun v => (v.toNat, vG k)) ++ srcGroup src (vG k)) = true := by
  have := groupsOk_aligned (g := vG k) (l := (l ++ srcRegs src).map (·.toNat)) (by
    intro v hv; obtain ⟨u, hu, rfl⟩ := List.mem_map.mp hv; exact ha u hu)
  cases src <;> simpa [srcRegs, srcGroup, Function.comp_def] using this

/-- An integer vector operation that passes its checks (R115): its active elements take their results, VSTART becomes 0, and
nothing else changes. -/
theorem vInt_ok {x : Ctx} {wd : BitVec 32} {f : Nat → Nat → Nat → Nat} {vd vs1 : BitVec 6} {src : VSrc} {m : VMask}
    {k : Core} (ht : tyInt (vType x k) = true) (h0 : vStart k = 0) (hn : vCnt k ≤ vCap x k)
    (ha : k.aligned (vd :: vs1 :: srcRegs src)) :
    ∃ k', vInt x wd f vd vs1 src m k = ok k' ∧ k'.mem = k.mem ∧
      (k.atElem 0).wroteElems k' vd.toNat (tyWidth (vType x k)) (vCap x k) (k.active m)
        (fun j => f (tyWidth (vType x k)) (vElem k.vec.v vs1.toNat (tyWidth (vType x k)) j)
          (vSrc k src (tyWidth (vType x k)) j) % 2 ^ tyWidth (vType x k)) := by
  have hg := groupsOk_src (k := k) (src := src) (l := [vd, vs1]) ha
  have hw := wroteElems_vWrite (k := k.atElem 0) (vd := vd.toNat) (n := vCap x k) (tyWidth_dvd x k) (vActive k m)
    (fun i => f (tyWidth (vType x k)) (vElem k.vec.v vs1.toNat (tyWidth (vType x k)) i)
      (vSrc k src (tyWidth (vType x k)) i)) (by
    intro i hi; rw [mem_vActive] at hi; simp [Core.active] at hi; omega)
  refine ⟨_, ?_, ?_, wroteElems_congr hw (fun i _ => by rw [← Bool.coe_iff_coe]; simp [mem_vActive]) (fun _ _ _ => rfl)⟩
  · simp only [vInt, h0, ht]
    rw [if_neg (by simpa using hg)]
    rfl
  · rfl

end Sys2Proof.Laws
end

