-- ==== Sys2Proof/Tests/Slice0.lean ====
section
/-! SUPPORT. Tests. Words written out from the encoding tables of the spec, ill-formed terms that WellFormed refuses, and for
each statement a state and operands that meet its hypotheses. -/

namespace Sys2Proof.Tests

open Sys2Proof.Machine

-- one theorem at a time: in parallel each waits for the one before it with a stack of its own
set_option Elab.async false

/-- The issue part of an instruction of core 0. -/
def h0 : Issue := { core := 0 }

/-- `k` with the first line of memory in its instruction cache. -/
def warm (k : Core) : Core := { k with mem := { k.mem with icache := [(0, [{ line := 0, valid := 0xF, data := 0 }])] } }

/-- Reset with core 0 as `k`, which has fetched its first line. -/
def cored (k : Core) : State := State.reset.setCore 0 (warm k)

/-- Core 0 with 7, −1, −2^63, 2^63 − 1 and 64 in x1 to x5 of the bank F. -/
def kf : Core := { xf := [(1, 7), (2, 0xFFFFFFFFFFFFFFFF), (3, 0x8000000000000000), (4, 0x7FFFFFFFFFFFFFFF), (5, 64)] }

/-! ## Ill-formed terms -/

theorem test_wf_rsvz : Instr.wf (.clzCtzPopc { core := 0, rsvz := 0x800 } .clz 1 2) = true ∧
    Instr.wf (.clzCtzPopc { core := 0, rsvz := 1 } .clz 1 2) = false := by decide
theorem test_wf_unassigned : Instr.wf (.addSubLogicShift h0 (.unassigned 0x44000000) 0 0 0) = true ∧
    Instr.wf (.addSubLogicShift h0 (.unassigned 0) 0 0 0) = false := by decide
theorem test_wf_own_row : Instr.wf (.crput h0 0x070 1) = false ∧ Instr.wf (.crput h0 0x010 1) = true := by decide
theorem test_wf_crput_rd : Instr.wf (.lbcfgWrite h0 ⟨.put, 1, 1⟩) = false ∧ Instr.wf (.lbcfgWrite h0 ⟨.swap, 1, 1⟩) = true := by
  decide
theorem test_wf_sqrt : Instr.wf (.vfdivVfsqrt h0 true false 0 0 (.vec 1) ⟨0, false⟩) = false := by decide
theorem test_wf_fsgn : Instr.wf (.vfminVfmaxVfsgn h0 .fsgn false 0 0 (.sca 1) ⟨0, false⟩) = false := by decide
theorem test_wf_line : Instr.wf (.wcbIdleDrain 0 0x600000000) = false ∧ Instr.wf (.wcbIdleDrain 0 0x5FFFFFFFF) = true := by decide
theorem test_wf_dram : Instr.wf (.l2Fill 0x30000000000) = false ∧ Instr.wf (.l2Fill 0x2FFFFFFFFFF) = true := by decide
theorem test_wf_contribution : Instr.wf (.contribution ⟨1, 0, 0, 1, 0, 0, 0⟩) = false := by decide
theorem test_wf_host_read : Instr.wf (.hostApertureAccess 0 0 0 (.read 0)) = false ∧
    Instr.wf (.hostApertureAccess 0 0 0 (.read 4097)) = false ∧ Instr.wf (.hostApertureAccess 0 0 0 (.read 4096)) = true := by decide
theorem test_wf_host_write : Instr.wf (.hostQueuePageAccess 0 0 0 (.write [] false)) = false := by decide
theorem test_wf_window : Instr.wf (.hostWindowAccess 0 0 (.read 8)) = false ∧
    Instr.wf (.hostWindowAccess 0 0x100000000000 (.read 8)) = true := by decide
theorem test_wf_inbound : Instr.wf (.inboundHostWrite 0 0 0 [] false) = false := by decide
theorem test_wf_frame : Instr.wf (.put ⟨0, 0, 0, 0, [0]⟩) = false ∧ Instr.wf (.put ⟨16, 0, 0, 0, [0]⟩) = true := by decide
theorem test_wf_eth : Instr.wf (.ethernetReceive 0 [] 0) = false := by decide
theorem test_wf_sensors : Instr.wf (.sensorRead [] 0) = false := by decide
theorem test_wf_record : Instr.wf (.logRecord 0x86 17 0 []) = false ∧ Instr.wf (.logRecord 0x86 31 0 [0, 0, 0, 0, 0, 0]) = false := by
  decide
theorem test_wf_inject : Instr.wf (.injGoWrite 3 0) = false ∧ Instr.wf (.injGoWrite 4 0) = true := by decide
theorem test_wf_width : Instr.wf (.registerWrite 0 3 0) = false ∧ Instr.wf (.registerWrite 0 4 0) = true := by decide
theorem test_wf_bsr : Instr.wf (.samplePreload (some [])) = false := by decide
theorem test_wf_host_link : Instr.wf (.hostLinkUp 0 5 0 false) = false ∧ Instr.wf (.hostLinkUp 0 4 6 false) = false ∧
    Instr.wf (.hostLinkUp 0 4 5 true) = true := by decide

/-! ## Words of core instructions, field by field from Tables 4.1, 4.3, 4.5, 6.4, 6.5, 7.4, 8.3, 11.2 and 11.6 -/

/-- ADD x3, x1, x2. -/
theorem test_word_add : decodeWord 0 (0x00#6 ++ 3#5 ++ 1#5 ++ 2#5 ++ 0#11) = .addSubLogicShift h0 .add 3 1 2 := by decide
/-- LW x4, −4(x2). -/
theorem test_word_lw : decodeWord 0 (0x0A#6 ++ 4#5 ++ 2#5 ++ 4#3 ++ 0x1FFC#13) = .load h0 .lw 4 2 0x1FFC := by decide
/-- SD x4, 8(x2). -/
theorem test_word_sd : decodeWord 0 (0x0B#6 ++ 4#5 ++ 2#5 ++ 3#3 ++ 8#13) = .store h0 3 4 2 8 := by decide
/-- BLTU x1, x2, −8. -/
theorem test_word_bltu : decodeWord 0 (0x0C#6 ++ 1#5 ++ 2#5 ++ 4#3 ++ 0x1FFE#13) = .branch h0 4 1 2 0x1FFE := by decide
/-- LOOP of level 1, x7, 16 instructions. -/
theorem test_word_loop : decodeWord 0 (0x0F#6 ++ 1#1 ++ 0#1 ++ 0#3 ++ 7#5 ++ 0#6 ++ 15#10) = .loop h0 1 7 15 := by decide
/-- CRGET x5, CYCLE. -/
theorem test_word_crget : decodeWord 0 (0x10#6 ++ 5#5 ++ 0#5 ++ 0#4 ++ 0x000#12) = .crget h0 5 0x000 := by decide
/-- VADD.X v4, v8, x9 under mask m2. -/
theorem test_word_vaddx : decodeWord 0 (0x22#6 ++ 4#6 ++ 8#6 ++ 0#1 ++ 9#5 ++ 2#3 ++ 1#1 ++ 0#4) =
    .vaddVsubLogicShift h0 .add 4 8 (.sca 9) ⟨2, true⟩ := by decide
/-- VGATHER v16, (x10), v32 with IW 0 and SH 1 (the example of R130). -/
theorem test_word_vgather : decodeWord 0 (0x38#6 ++ 16#6 ++ 32#6 ++ 10#5 ++ 0#1 ++ 0#3 ++ 0#1 ++ 0#2 ++ 1#2) =
    .vgather h0 16 32 10 ⟨0, false⟩ 0 1 := by decide
/-- TLD.R t3, (x1), x2. -/
theorem test_word_tldr : decodeWord 0 (0x30#6 ++ 3#4 ++ 1#5 ++ 2#5 ++ 0#8 ++ 0#4) = .tldR h0 3 1 2 := by decide
/-- OPA acc2, t5.C, t6.R, x11. -/
theorem test_word_opa : decodeWord 0 (0x31#6 ++ 2#2 ++ 5#4 ++ 1#1 ++ 6#4 ++ 0#1 ++ 11#5 ++ 0#9) = .opa h0 2 5 .col 6 .row 11 := by
  decide
/-- FENCE.M with INV. -/
theorem test_word_fence : decodeWord 0 (0x3B#6 ++ 0#21 ++ 1#1 ++ 0#4) = .fenceMInv h0 := by decide
/-- SYNC.WAIT.AQ x1, x2, condition 2. -/
theorem test_word_wait : decodeWord 0 (0x3A#6 ++ 0#5 ++ 1#5 ++ 2#5 ++ 2#3 ++ 1#2 ++ 0#2 ++ 1#4) = .syncWait h0 2 1 1 2 := by decide
/-- A word of reserved major opcode 0x11 (R66). -/
theorem test_word_reserved : decodeWord 0 (0x11#6 ++ 0#26) = .addSubLogicShift h0 (.unassigned 0x44000000) 0 0 0 := by decide
/-- The rs2 field of CLZ is RsvZ: the word keeps its bits there, which raise ILLEGAL_INSN. -/
theorem test_word_rsvz : decodeWord 0 (0x00#6 ++ 3#5 ++ 1#5 ++ 2#5 ++ 0x010#11) =
    .clzCtzPopc { core := 0, rsvz := 0x1000 } .clz 3 1 := by decide

/-! ## Witnesses: each names a state and operands that meet the hypotheses of the statement of its name -/

/-- The same registers at U and at S, with a page of instructions and data at 0. -/
def ku : Core :=
  { level := .u, bank := .u, xu := kf.xf, mem := { tlb := [{ asid := 0, base := 0, log := 12, pte := 0x1F }] } }
def ks : Core :=
  { level := .s, bank := .s, xs := kf.xf, mem := { tlb := [{ asid := 0, base := 0, log := 12, pte := 0xF }] } }

theorem test_ready : (cored kf).ready 0 = true ∧ (cored ku).ready 0 = true ∧ (cored ks).ready 0 = true ∧ h0.rsvz = 0 := by decide +kernel

theorem test_witness_StepsTakeCommandsInOrder : (∃ t, step State.reset = .next t) ∧ State.reset.pending = [] ∧
    State.reset.pmem.lost = false ∧ ∀ e ∈ (State.reset.die 0).slices, e.2.queue.length < 256 := ⟨⟨_, rfl⟩, by decide⟩

theorem test_witness_MemoryKeepsItsCanonicalForm : State.reset.memWf = true ∧ ∃ t, step State.reset = .next t :=
  ⟨by decide, _, rfl⟩

theorem test_witness_DecodeInvertsEncode : (Instr.wfe h0).issue = some h0 ∧ (Instr.wfe h0).wf = true := by decide

/-- 7 + (−1) fits; 2^63 − 1 + 7 and −2^63 / −1 do not, with no enable; a divisor of 0. -/
theorem test_witness_IntegerInstructionsWriteTheirResult : let k := (cored kf).core 0
    (-(2 ^ 63) ≤ (xget k 1).toInt + (xget k 2).toInt) ∧ (xget k 1).toInt + (xget k 2).toInt < 2 ^ 63 ∧
    2 ^ 63 ≤ (xget k 4).toInt + (xget k 1).toInt ∧ enabled k 1 = false ∧ enabled k 0 = false ∧ xget k 2 ≠ 0 ∧ xget k 0 = 0 ∧
    (xget k 3).toInt.tdiv (xget k 2).toInt = 2 ^ 63 := by decide

/-- All enables set. -/
def kt : Core := { kf with tc := { trapenF := 0xF }, lp := { lc0 := 1 } }
theorem test_witness_ScalarInstructionsRaiseTheirTraps : let s := cored kt
    let k := s.core 0
    s.ready 0 = true ∧ s.canTrap 0 0x09 = true ∧ enabled k 1 = true ∧ 2 ^ 63 ≤ (xget k 4).toInt + (xget k 1).toInt ∧
    (xget k 3).toInt - (xget k 1).toInt < -(2 ^ 63) ∧ 2 ^ 63 ≤ (xget k 4).toInt * (xget k 4).toInt ∧
    (xget k 3).toInt = -(2 ^ 63) ∧ (xget k 2).toInt = -1 ∧ s.canTrap 0 0x08 = true ∧ enabled k 0 = true ∧ xget k 0 = 0 ∧
    s.canTrap 0 0x03 = true ∧ ((xget k 1).toInt + (-4#16).toInt) % 4 ≠ 0 ∧ s.canTrap 0 0x01 = true ∧ 6 ≤ (6#3).toNat ∧ k.lp.lc0 ≠ 0 := by
  decide +kernel

theorem test_witness_BoundaryChecksGoFirst :
    (let s := cored kf
     let h : Issue := { core := 0, rsvz := 0x800 }
     (Instr.clzCtzPopc h .clz 1 2).issue = some h ∧ s.ready 0 = true ∧ h.rsvz ≠ 0 ∧ s.canTrap 0 0x01 = true) ∧
    (∀ k ∈ [{ kf with watchdog := true }, { kf with parity := some 0 }],
      (cored k).canIssue 0 = true ∧ k.run = .running ∧ k.mem.miss = [] ∧ (cored k).midAccess 0 = false ∧
        (cored k).waiting (.core 0) = false ∧ stIH (tregs k .f) = false) ∧
    (let k : Core := { kf with tc := { ip := 0x30, imaskF := 0x30 }, tf := { status := 1 } }
     let x := (cored k).ctxOf 0
     k.watchdog = false ∧ k.parity = none ∧ bitAt (ipOf x k) 4 = true ∧ bitAt k.tc.imaskF 4 = true ∧ bitAt k.tc.iroute 4 = true ∧
       stIE (tregs k .f) = true ∧ stIH (tregs k .f) = false ∧ ∀ m, m < 4 → bitAt (ipOf x k) m = false) := by decide +kernel

theorem test_witness_HeldCoreExecutesNothing : ∀ r ∈ [Run.idle, .waitEvent, .waitSync true, .waitResp, .ending 0, .halted,
    .wedged ⟨1, 0, 0⟩], (Instr.tret h0).issue = some h0 ∧ (cored { kf with run := r }).canIssue 0 = false := by decide

theorem test_witness_BranchesAndLoopsTransferControl : let k := (cored kf).core 0
    xget k 1 ≠ xget k 2 ∧ ((xget k 1).toInt + (-7#16).toInt) % 4 = 0 ∧ k.lp.lc0 = 0 ∧ k.lp.lc1 = 0 ∧
    (xget k 0).toNat % 2 ^ 32 = 0 ∧ (xget k 1).toNat % 2 ^ 32 = 7 := by decide

/-- BF16: the largest value, 1, 0, −0, NaN. -/
def kb : Core := { xf := [(1, 0x7F7F), (2, 0x3F80), (4, 0x8000), (5, 0x7FC0)], tc := { trapenF := 0xF } }
theorem test_witness_ScalarFloatResultsAndTraps : let s := cored kb
    let k := s.core 0
    let v := fun r => decodeElem .bf16 ((xget k r).toNat % 65536)
    s.ready 0 = true ∧ (roundTo .bf16 .even ((v 1).add (v 2))).2 = false ∧ (roundTo .bf16 .even ((v 1).add (v 1))).2 = true ∧
    enabled k 3 = true ∧ s.canTrap 0 0x0A = true ∧ (v 2).isZero = false ∧ (v 3).isZero = true ∧ (v 5).isNum = false ∧
    (v 2).isNum = true ∧ (v 2).lt (v 1) = true ∧ (v 3).eqv (v 4) = true ∧ (v 4).neg? = true ∧ enabled k 0 = true ∧
    s.canTrap 0 0x08 = true ∧ enabled ((cored kf).core 0) 0 = false := by decide +kernel

theorem test_witness_ControlRegistersReadAndWrite : (cored kf).ready 0 = true ∧ (cored kf).crEvents 0 ≠ [] ∧ kf.level = .f ∧
    kf.level ≠ .u ∧ kf.tile.queue = [] ∧ kf.crPlainU ≠ [] ∧ kf.crPlainS ≠ [] ∧ kf.crPlainF ≠ [] := by decide +kernel

/-- The last assigned and the first unassigned of a group; a write at U of a register of S, at S of one of F; an ASID of
partition 1. -/
theorem test_witness_ControlRegisterChecks : (cored ku).ready 0 = true ∧ (cored ks).ready 0 = true ∧
    (cored ku).canTrap 0 0x01 = true ∧ (cored ku).canTrap 0 0x02 = true ∧ (cored ks).canTrap 0 0x07 = true ∧
    crCheck 0 ku 0x024 true false false = none ∧ crCheck 0 ku 0x025 true false false ≠ none ∧
    (let k : Core := { ks with xs := [(1, 0x0800000000000000)] }
     (cored k).ready 0 = true ∧ field (xget k 1) 48 16 / 2048 ≠ (cored k).owner 0) := by decide +kernel

theorem test_witness_ConfigurationWritesAndTlb :
    (let k : Core := { kf with xf := [(1, 2), (2, 1), (3, 0x94), (4, 0x0000000000090000)] }
     (cored k).ready 0 = true ∧ field (xget k 1) 0 2 ≠ 0 ∧ k.mem.wcb = [] ∧ field k.cr.lbcfg 0 2 ≠ field (xget k 1) 0 2 ∧
       field k.cr.lbcfg 0 2 = field (xget k 2) 0 2 ∧ bitAt (xget k 1) 1 ≠ saveset k ∧ bitAt (xget k 2) 1 = saveset k ∧
       stIH k.ts = false ∧ stIH k.tf = false ∧ bitAt k.ts.gstatus 0 = false ∧ bitAt k.tf.gstatus 0 = false ∧
       field (xget k 3) 4 4 ≤ 10 ∧ field (xget k 3) 0 3 ≤ 4 ∧ k.tile.queue = [] ∧ (cored k).armedParity 0 = none ∧
       tcfgOk (xget k 4) = true) ∧
    (let k : Core := { ks with xs := [(1, 0x0800)] }
     (cored k).ready 0 = true ∧ (xget k 0).toNat / 2048 = (cored k).owner 0 ∧ (xget k 1).toNat / 2048 ≠ (cored k).owner 0 ∧
       (cored k).canTrap 0 0x07 = true ∧ (cored ku).canTrap 0 0x02 = true) := by decide +kernel

theorem test_witness_EventsEnterHandlersAndTrapsEscalate :
    (let k : Core := { kf with tc := { wdctl := 0x10001, wdBase := -1024 } }
     let s := cored k
     s.canIssue 0 = true ∧ s.midAccess 0 = false ∧ s.waiting (.core 0) = false ∧ bitAt k.tc.wdctl 0 = true ∧
       max 1 (field k.tc.wdctl 16 16) * 1024 ≤ (s.now - k.tc.wdBase).toNat ∧ stIH (tregs k .f) = false) ∧
    (let k : Core := { ks with ts := { status := 4 } }
     (cored k).ready 0 = true ∧ k.target 0x01 = .s ∧ stIH k.ts = true ∧ stIH k.tf = false) ∧
    (let k : Core := { kf with tf := { status := 4 } }
     (cored k).ready 0 = true ∧ k.target 0x01 = .f ∧ stIH k.tf = true ∧ (cored k).taskOf 0 = none ∧
       (cored k).svc.pend.length < 255) := by decide +kernel

theorem test_witness_TretReturnsFromTrap : kf.level ≠ .u ∧ (cored ku).canTrap 0 0x02 = true ∧ (cored kf).canTrap 0 0x01 = true ∧
    2 ≤ field (0x100#64) 7 2 ∧ field (0x600#64) 9 2 = 3 := by decide

/-- A gate descriptor at 0x1000 for a table of one: ENTRY 0x2000, TLVL 1, VALID. -/
def gated : State := { cored { ku with tc := { gtbU := 0x1000, gtnU := 1 } } with
  mem := { cells := [(0x1000, 1), (0x1018, 1), (0x1019, 0x20)] } }
theorem test_witness_GatesCallAndReturn :
    gated.ready 0 = true ∧ (gated.gateDesc 0 0).2 = some (0x2001 * 2 ^ 192 + 1) ∧ (gated.gateDesc 0 0).1.midAccess 0 = false ∧
    (gated.gateArgs 0 (0x2001 * 2 ^ 192 + 1)).2 = none := by decide +kernel
theorem test_witness_GatesCallAndReturn_gret :
    (let k : Core := { ks with ts := { gstatus := 1 } }
     (cored k).ready 0 = true ∧ k.level ≠ .u ∧ bitAt k.ts.gstatus 0 = true) ∧
    (cored kf).canTrap 0 0x0D = true ∧ bitAt kf.tf.gstatus 0 = false ∧ (cored ku).canTrap 0 0x0D = true ∧
    field ku.tc.gtnU 0 11 ≤ (0#10).toNat := by decide +kernel

/-! ### Vector unit -/

/-- Core 0 at F with element type `ty`, four elements, groups of one register, and elements in v0 to v2. -/
def kv (ty : Nat) : Core :=
  { xf := kf.xf, vec := { vshape := BitVec.ofNat 64 (16 * ty), vcnt := 4, v := [(1, 0x3F803F803F803F80), (2, 0x7F7FFF7F7FC08000)] } }
/-- No mask. -/
def nm : VMask := ⟨0, false⟩

theorem test_witness_VectorIntegerAndFixedPointResults :
    (∀ ty ∈ [0, 1, 2], let s := cored (kv ty)
      let k := s.core 0
      s.ready 0 = true ∧ tyInt (vType (s.ctxOf 0) k) = true ∧ vStart k = 0 ∧ vCnt k ≤ vCap (s.ctxOf 0) k ∧
        ∀ v ∈ [0#6, 1, 2], v.toNat % vG k = 0) ∧
    (let k : Core := { kv 1 with tc := { trapenF := 4 } }
     let a := fun j => sgn 16 (vElem k.vec.v 2 16 j)
     enabled k 2 = true ∧ (cored k).canTrap 0 0x09 = true ∧ k.active nm 0 = true ∧ (a 0 + a 0 < -(2 ^ 15)) ∧
       (2 ^ 15 - 1 < a 1 + a 1) ∧ (-(2 ^ 15) ≤ a 2 + a 2 ∧ a 2 + a 2 ≤ 2 ^ 15 - 1) ∧ enabled (kv 1) 2 = false ∧
       groupsOk [(0, 1), (1, 1), (2, 1)] = true) := by decide +kernel

theorem test_witness_VectorMovesCountAndMasks : let k : Core := { kv 9 with vec := { (kv 9).vec with m := [(1, 6)] } }
    (cored k).ready 0 = true ∧ vStart k = 0 ∧ vCnt k ≤ vCap ((cored k).ctxOf 0) k ∧ 0 < vCnt k ∧ vCnt kf = 0 ∧
    (tget 0 k.vec.m 1).getLsbD 0 = false ∧ (tget 0 k.vec.m 1).getLsbD 1 = true ∧ (∀ j, j < 4 → (tget 0 k.vec.m 0).getLsbD j = false) ∧
    vType ((cored k).ctxOf 0) k = .fp .bf16 ∧ tyInt (vType ((cored (kv 2)).ctxOf 0) (kv 2)) = true := by decide +kernel

/-- BF16: −0, NaN, −3.4e38, 3.4e38 in v2, ones in v1; one over −0 divides by zero. -/
theorem test_witness_VectorFloatResults : let s := cored (kv 9)
    let k := s.core 0
    let v := fun r j => decodeElem .bf16 (vElem k.vec.v r 16 j)
    s.ready 0 = true ∧ vType (s.ctxOf 0) k = .fp .bf16 ∧ vStart k = 0 ∧ vCnt k ≤ vCap (s.ctxOf 0) k ∧
    (v 1 0).isNum = true ∧ (v 1 0).isZero = false ∧ (v 2 0).isZero = true ∧ v 2 1 = .nan ∧
    (roundTo .bf16 .even ((v 2 3).add (v 2 3))).2 = true ∧ (roundTo .bf16 .even ((v 1 3).add (v 2 3))).2 = false ∧
    k.active nm 3 = true := by decide +kernel

theorem test_witness_VectorReductions : let s := cored (kv 9)
    let k := s.core 0
    s.ready 0 = true ∧ vStart k = 0 ∧ groupsOk [(0, 1), (2, vG k)] = true ∧ k.active nm 0 = true ∧ k.active ⟨1, true⟩ 0 = false ∧
    (decodeElem .bf16 (vElem k.vec.v 2 16 1)).isNum = false ∧ tyInt (vType ((cored (kv 1)).ctxOf 0) (kv 1)) = true := by decide +kernel

theorem test_witness_VectorInstructionChecks : let k : Core := { kv 1 with vec := { (kv 1).vec with vstart := 1, vshape := 0x11 } }
    (cored k).ready 0 = true ∧ (cored k).canTrap 0 0x01 = true ∧ vStart k ≠ 0 ∧ enabled k 2 = false ∧ (1#6).toNat % vG k ≠ 0 ∧
    tyFloat (vType ((cored k).ctxOf 0) k) = false ∧ tyInt (vType ((cored (kv 9)).ctxOf 0) (kv 9)) = false ∧
    unitElems (vType ((cored (kv 6)).ctxOf 0) (kv 6)) = 2 ∧ unitElems (vType ((cored (kv 8)).ctxOf 0) (kv 8)) = 2 ∧
    11 ≤ (11#4).toNat ∧ nm.masked = false := by decide +kernel

theorem test_witness_VectorConversions : let k := kv 9
    let x := (cored k).ctxOf 0
    (cored k).ready 0 = true ∧ vType x k = .fp .bf16 ∧ vStart k = 0 ∧ vCnt k ≤ vCap x k ∧ x.rung = 0 ∧
    (∀ dw ∈ [8, 16, 32, 64], vDerived (vG k) dw 16 ≠ none ∧ groupsOk [(4, max 1 (vG k * dw / 16)), (1, 1), (3, 1)] = true) ∧
    (∀ j, j < 4 → decodeElem .bf16 (vElem k.vec.v 1 16 j) ≠ .nan) ∧ k.vec.vcens.getLsbD 15 = false ∧
    (toIntSat 8 (decodeElem .bf16 (vElem k.vec.v 2 16 3))).2 = true := by decide +kernel

/-! ### Memory -/

/-- A read of the landing buffer, a store that misses the buffers, an address that no table assigns. -/
theorem test_witness_ScalarLoadsAndStores : let s := cored kf
    (0x7#64).toNat % 8 ≠ 0 ∧ s.canTrap 0 0x03 = true ∧
    (∃ t, (s.aim 0 .load false 0xE00000400000 8 8).2 = .error t ∧ s.canTrap 0 t.code = true) ∧
    (s.aim 0 .load false 0 8 8).2 = .ok [⟨.dram 0 0, 0, 8⟩] ∧ ((s.aim 0 .load false 0 8 8).1.loadHit 0 0 8).2 = none ∧
    (∃ ps, (s.aim 0 .load false 0xE00000000000 8 8).2 = .ok ps ∧ (State.loadPieces 0 .l1 0 ps s).2 = .ok [0, 0, 0, 0, 0, 0, 0, 0]) ∧
    (s.writes 0 false [fullWrite 0 0 8 [0, 0, 0, 0, 0, 0, 0, 0]]).2 = .done ∧
    (s.writes 0 false [fullWrite 0 0 8 [0, 0, 0, 0, 0, 0, 0, 0]]).1.midAccess 0 = false :=
  ⟨by decide, by decide, ⟨_, rfl, by decide⟩, rfl, by decide +kernel, ⟨_, rfl, by decide +kernel⟩, by decide +kernel,
    by decide +kernel⟩

theorem test_witness_LandingBufferAndWriteCombining : let s := cored kf
    kf.level = .f ∧ s.locate 0xE0000000FFF8 = .locl 0xFFF8 ∧ 0xFFF8 + 8 ≤ lbSize kf ∧ kf.mem.lbBad = [] ∧
    s.locate 0x17FFFFFFFF8 = .dram 0 0x17FFFFFFFF8 ∧ s.granOwner (.dram 0 0x17FFFFFFFF8) = some (s.owner 0) ∧
    kf.mem.wcb.length < 16 ∧
    (let k : Core := { kf with cr := { coreCfg := 0 }, mem := { wcb := [{ line := 0, mask := 0xFF, data := 5, last := 0 }] } }
     bitAt k.cr.coreCfg 0 = false ∧ (cored k).ready 0 = true ∧
       k.mem.wcb.find? (fun e => decide (e.line = 0)) = some { line := 0, mask := 0xFF, data := 5, last := 0 } ∧
       ∀ j, j < 8 → (0xFF#128).getLsbD j = true) := by decide +kernel

/-- Four bytes of the landing buffer; a byte past its end. -/
theorem test_witness_VectorMemoryAccesses : let s := cored (kv 0)
    let r := fun (a : Word) => (List.range 4).map (fun j => ({ idx := j, va := a + BitVec.ofNat 64 j, align := 1, n := 1 } : Read))
    vCnt (kv 0) ≤ vCap (s.ctxOf 0) (kv 0) ∧ (s.reads 0 (r 0xE00000000000)).2 = .done [(0, [0]), (1, [0]), (2, [0]), (3, [0])] ∧
    (∃ t, (s.reads 0 (r 0xE0000000FFFE)).2 = .trap 2 t [(0, [0]), (1, [0])] ∧ s.canTrap 0 t.code = true) ∧
    (s.writes 0 false [fullWrite 0 0xE00000000000 1 [7]]).2 = .done ∧
    vDerived (vG (kv 0)) 32 8 = some 4 ∧ groupsOk [(0, 1), (4, 4)] = true ∧
    (State.gatherRun 0 1 [(0, 0)] [] (s.drainWcb 0)).2 = .done [(0, [0])] ∧
    (∃ t, (State.gatherRun 0 1 [(0, 0), (1, 0xE00000000000)] [] (s.drainWcb 0)).2 = .trap 1 t [(0, [0])] ∧ s.canTrap 0 t.code = true) ∧
    (State.scatterRun 0 [(0, 0, [7])] 0 false (s.drainWcb 0)).2 = .done :=
  ⟨by decide, by decide +kernel, ⟨⟨0x07, 0xE00000010000, 1⟩, by decide +kernel, by decide⟩, by decide +kernel, by decide, by decide,
    by decide +kernel, ⟨⟨0x10, 0xE00000000000, 0x2801⟩, by decide +kernel, by decide⟩, by decide +kernel⟩

theorem test_witness_VectorEmitQueues : let k := kv 9
    let x := (cored k).ctxOf 0
    let d := destOf x k 0 0
    let far := destOf x k 0 64
    vStart k = 0 ∧ k.tile.tprog.getLsbD 15 = false ∧ k.tile.queue.length < 16 ∧ (cored k).armedParity 0 = none ∧ vCnt k ≠ 0 ∧
    d.row < d.shape.nr ∧ d.col + vCnt k ≤ d.shape.nc ∧ ¬ far.row < far.shape.nr ∧ (cored k).canTrap 0 0x0B = true ∧
    vCnt kf = 0 ∧
    (let k2 : Core := { k with tile := { cfg := [(1, 0xA01FF)] } }
     (destOf x k2 1 0).shape.fmt ≠ (destOf x k2 0 0).shape.fmt ∧ (cored k2).canTrap 0 0x0C = true) := by decide

/-- Tile 3 of two rows of one step; the second row ends past the landing buffer where the rows start at x1, 16 bytes apart. -/
def ktile : Core := { xf := [(1, 0xE0000000FFF0), (2, 16)], tile := { cfg := [(3, 0x90001)] } }
/-- The reads of its rows from an address. -/
def tileReads (a : Word) : List Read := [0, 1].map (fun r => { idx := r, va := a + BitVec.ofNat 64 (16 * r), align := 16, n := 16 })
theorem test_witness_TileLoadsAndStores : let s := cored ktile
    let k := s.core 0
    let sh := tshape (s.ctxOf 0) k 3
    s.ready 0 = true ∧ k.tile.tprog.getLsbD 15 = false ∧ k.tile.queue = [] ∧ sh.rows = 2 ∧ sh.rowBytes = 16 ∧ sh.rowAlign = 16 ∧
    ((State.readEach 0 (tileReads 0xE00000000000) [] s).2 = .done [(0, List.replicate 16 0), (1, List.replicate 16 0)] ∧
      (State.readEach 0 (tileReads 0xE00000000000) [] s).1.midAccess 0 = false) ∧
    (∃ t, (State.readEach 0 (tileReads (xget k 1)) [] s).2 = .trap 1 t [(0, List.replicate 16 0)] ∧ s.canTrap 0 t.code = true) ∧
    ((State.storeRows 0 3 sh (fun r => 0xE00000000000 + BitVec.ofNat 64 (16 * r)) [0, 1] 0 false s).2 = .done ∧
      (State.storeRows 0 3 sh (fun r => 0xE00000000000 + BitVec.ofNat 64 (16 * r)) [0, 1] 0 false s).1.midAccess 0 = false) ∧
    (∃ e ∈ [({ op := .wr 0 false (destOf (s.ctxOf 0) k 3 0) } : QItem)], 3 ∈ e.op.reads) ∧
    (∃ e ∈ [({ op := .rd 0 false (destOf (s.ctxOf 0) k 3 0) none (randOf k) } : QItem)], 3 ∈ e.op.writes) :=
  ⟨by decide +kernel, by decide, by decide, by decide, by decide, by decide, by decide +kernel,
    ⟨⟨0x07, 0xE00000010000, 1⟩, by decide +kernel, by decide⟩, by decide +kernel, by decide +kernel, by decide +kernel⟩
/-- A tile of E4M3 rows with scales of its side array; a TPROG of a row store of it. -/
theorem test_witness_TileLoadsAndStores_side :
    (let k : Core := { ktile with tile := { cfg := [(3, 0x44001)] } }
     let s := cored k
     let sh := tshape (s.ctxOf 0) k 3
     0 < sh.ns ∧ sh.ns ≤ 512 ∧ (s.reads 0 [{ idx := 0, va := 0xE00000000000, align := 1, n := sh.ns }]).2 =
       .done [(0, List.replicate sh.ns 0)] ∧
     (s.writes 0 false [fullWrite 0 0xE00000000000 1 ((List.range sh.ns).map (tileScale k 3))]).2 = .done) ∧
    (let k : Core := { ktile with tile := { ktile.tile with tprog := 0xCC01 } }
     k.tile.tprog.getLsbD 15 = true ∧ k.tile.tprog.getLsbD 14 = true ∧ field k.tile.tprog 10 4 = 3 ∧ (cored k).canTrap 0 0x01 = true ∧
       (cored k).ready 0 = true) := by decide +kernel

theorem test_witness_EnginesQueueAndReport : let s := cored kf
    let x := s.ctxOf 0
    let o := tileOp x kf
    s.armedParity 0 = none ∧ kf.tile.queue.length < 16 ∧ kf.cr.engmask.getLsbD 0 = true ∧ kf.tile.tprog.getLsbD 15 = false ∧
    opaChecks 0 kf [(0, o 0 .col, o 1 .row)] [(o 0 .col, o 1 .row)] 0 7 = none ∧
    wrChecks 0 kf 0 false (destOf x kf 0 0) 64 = none ∧ wrChecks 0 kf 0 false (destOf x kf 0 1) 64 ≠ none ∧
    (∃ op, rdIssue x 0 kf 0 0 0 none = .ok op) ∧ (∃ op, mpIssue x 0 0 kf 0 0 .col 1 .row 0 = .ok op) ∧
    (let k : Core := { kf with cr := { engmask := 0xE } }
     k.cr.engmask.getLsbD 0 = false ∧ (cored k).canTrap 0 0x01 = true) ∧ (cored ku).canTrap 0 0x02 = true :=
  ⟨by decide, by decide, by decide, by decide, by decide, by decide, by decide, ⟨_, rfl⟩, ⟨_, rfl⟩, by decide, by decide⟩

theorem test_witness_KStepRunsTheEngines : let s := cored kf
    let o := tileOp (s.ctxOf 0) kf
    s.dom (clDom 0) = .on ∧ s.armedParity 0 = none ∧ kf.tile.inj = none ∧ kf.tile.queue = [] ∧ s.pmem.fcl = false ∧
    s.pmem.crit = false ∧ ({ kf.tile with cycles := 3 } : Tiles).cycles % 4 ≠ 0 ∧
    (∃ x y, x = o 0 .col ∧ y = o 1 .row ∧ pairRank x.shape.fmt y.shape.fmt = some 1) :=
  ⟨by decide, by decide, by decide, by decide, by decide, by decide, by decide, _, _, rfl, rfl, rfl⟩

/-! ### Packets -/

/-- Queue 0 of partition 0 on die 0, and its packet at position 0. -/
def rf : PktRef := ⟨⟨0, 0, 0⟩, 0⟩
def pk (op : Nat) (w : List Word) : Pkt := { pos := 0, h0 := BitVec.ofNat 64 op, h1 := 0, w := w, sat := 0xF, asked := true }
def qu (p : Pkt) : Queue := { cfg := 0x8808, pkts := [p], nextPos := 1 }
def qs (p : Pkt) : State := State.reset.setQueue rf.queue (qu p)

theorem qs_turn (p : Pkt) (h : (p.pos = 0 ∧ p.asked = true) ∧ bitAt p.h0 8 = false ∧ p.part = 0)
    (hm : (qs p).mayStart rf.queue p = true ∧ (qs p).inRotation rf.queue = true) : (qs p).turn rf p.op p := by
  have e : (qs p).queue rf.queue = qu p := rfl
  obtain ⟨⟨h1, h2⟩, h3, h4⟩ := h
  refine ⟨⟨by simp [e, qu], by simpa [rf] using h1, rfl⟩, ?_, hm, ?_, ?_, fun _ => h4⟩
  · simp [e, qu, h2]
  · simp [e, qu]
  · simp [h3]

/-- A COPY of 64 bytes to 0x200 from 0x400 and one that is misaligned in its source; a FILL. -/
theorem test_witness_PacketsCompleteCopyAndFill :
    (∀ p ∈ [pk 0 [], pk 7 [], pk 5 [0, 0, 0], pk 6 [0, 1, 0], pk 3 [0x200, 0x400, 64], pk 3 [0x200, 0x401, 64], pk 4 [0x100, 64, 7]],
      (qs p).turn rf p.op p ∧ p.sigs = [] ∧ p.work = []) ∧
    (let s := (qs (pk 3 [0x200, 0x400, 64])).begun rf.queue (pk 3 [0x200, 0x400, 64])
     s.quietBefore rf.queue 0 = true ∧ s.locate 0x200 = .dram 0 0x200 ∧ s.locate 0x400 = .dram 0 0x400 ∧
       s.rangeBad 0 0x200 64 true true = none ∧ s.rangeBad 0 0x400 64 true true = none ∧ (s.pktSectors rf.queue 0 0x400 64).2.2 = [] ∧
       s.rangeBad 0 0x2FFFFFFFFE0 64 true true ≠ none ∧ s.syncOwner 0 0 = 0 ∧ s.syncOwner 1 4095 = 0 ∧ s.devid = 0 ∧
       s.waiting (.pkt rf.queue 0 4) = false ∧ condHolds 0 0 0 = true ∧ condHolds 0 0 1 = false) ∧
    (let p : Pkt := { pk 6 [0, 1, 0x10000] with st := .begun }
     field (p.word 2) 16 16 ≠ 0 ∧ p.began + 25000 * field (p.word 2) 16 16 ≤ ({ qs p with now := 25000 } : State).now) := by
  refine ⟨fun p hp => ?_, by decide +kernel, by decide⟩
  simp only [List.mem_cons, List.not_mem_nil, or_false] at hp
  rcases hp with rfl | rfl | rfl | rfl | rfl | rfl | rfl <;> exact ⟨qs_turn _ (by decide) (by decide +kernel), by decide, by decide⟩

/-- A LAUNCH on core 0 of a block of zeros at 0x1000; the core when its task ends, alone and beside another. -/
theorem test_witness_TasksStartAndEnd :
    (let p := pk 1 [0x1000, 0x10001]
     (qs p).turn rf p.op p) ∧
    (let p := pk 1 [0x1000, 0x10001]
     let s1 := (qs p).begun rf.queue p
     (qs p).launchTurn rf.queue p = true ∧ p.cores = [0] ∧ field (p.word 1) 24 2 ≤ 1 ∧
       (∀ c, c < 16 → bitAt (p.word 1) c = true → (qs p).owner c = 0) ∧ s1.rangeBad 0 0x1000 64 true false = none ∧
       (s1.blkRead rf.queue 0 0 0x1000 64).2 = .bytes (List.replicate 64 0) ∧
       (s1.blkRead rf.queue 0 0 0x1000 64).1.cores = (qs p).cores ∧ (s1.blkRead rf.queue 0 0 0x1000 64).1.clusters = (qs p).clusters ∧
       (s1.blkRead rf.queue 0 0 0x1000 64).1.dom (clDom 0) = .on ∧ (pk 1 [0x1000, 0]).cores = []) ∧
    (let k : Core := { run := .ending 0, task := some { queue := rf.queue, pos := 0 } }
     let u : Task := { q := rf.queue, pos := 0, part := 0, cores := [0], ended := [], rung := 0, region := false }
     let s := (qs (pk 1 [])).setCore 0 k
     s.outstanding (.core 0) = false ∧ k.tile.queue = [] ∧ k.mem.wcb = [] ∧ s.armedParity 0 = none ∧ k.cr.cflags &&& 3 = 0 ∧
       (∀ d, d < 2 → (s.die d).sync.waits = []) ∧ u.cores.length ≤ u.ended.length + 1 ∧
       u.ended.length + 1 < ({ u with cores := [0, 1] } : Task).cores.length ∧ (s.queue u.q).pkts = [pk 1 []]) := by
  exact ⟨qs_turn _ (by decide) (by decide +kernel), by decide +kernel, by decide⟩

/-- An idle entry, its fill, a hit and a miss of a slice, a hit of the control cache. -/
theorem test_witness_CachesServeAndOperate :
    (let e : Wcb := { line := 0, mask := 0xFF, data := 5, last := 0 }
     let k : Core := { kf with mem := { wcb := [e] } }
     (let s := (cored k).setDie 0 { cyc := 256 }
      (s.core 0).mem.wcb = [e] ∧ e.last + 256 ≤ s.cycles 0 ∧ s.armedAt 0 0x05 = none) ∧ (cored k).cycles 0 < e.last + 256) ∧
    (let m : Miss := { line := 0, first := 0 }
     let w : Waiter := { rd := 1, size := .ld, pa := 0, va := 0, pc := 0, lp := {} }
     let s := cored { kf with mem := { miss := [m], loads := [w] } }
     let bad := s.writeMem 0 (List.replicate 32 0) true
     let k := s.core 0
     k.mem.miss = [m] ∧ k.mem.loads = [w] ∧ (s.l2Read 0 [0, 1, 2, 3] true).1.core 0 = k ∧
       (bad.l2Read 0 [0, 1, 2, 3] true).1.core 0 = k ∧ (s.l2Read 0 [0, 1, 2, 3] true).1.pending = [] ∧
       bitAt (s.l2Read 0 [0, 1, 2, 3] true).2.2 0 = false ∧
       bitAt (bad.l2Read 0 [0, 1, 2, 3] true).2.2 0 = true ∧ stIH (tregs k (k.target 0x07)) = false) ∧
    (let s := State.reset
     let full := s.setSlice 1 (paSlice 0x18000000000)
       { miss := (List.range 16).map (fun i => { line := 0x18000000000 / 128, way := i, reqs := List.replicate 32 ⟨0, .read⟩ }) }
     let other := s.setSlice 1 (paSlice 0x18000000000)
       { miss := (List.range 16).map (fun i => { line := (0x18000000000 + 2 ^ 13 * 1536 * (i + 1)) / 128, way := i, reqs := [] }) }
     let free := s.setSlice 1 (paSlice 0x18000000000)
       { ways := (List.range 16).map (fun i => (16 * paSet 0x18000000000 + i, some { line := i, dead := true })) }
     locPA 0x18000000000 = .dram 1 0x18000000000 ∧ (s.wakeL2 0x18000000000).groupAt 0x18000000000 = none ∧
       (s.wakeL2 0x18000000000).l2Find 0x18000000000 = none ∧ needSecs 0x18000000000 .read ≠ [] ∧ (s.slice 0 0).room 0 = true ∧
       (s.slice 0 0).joins 0 = none ∧ (s.openMiss 0 [] none).2 = true ∧
       needSecs 0x18000000000 (.write (BitVec.allOnes 128) 0) = [] ∧ (full.l2Alloc 0x18000000000).2 = none ∧
       (full.slice 1 (paSlice 0x18000000000)).joins (0x18000000000 / 128) = none ∧
       (full.slice 1 (paSlice 0x18000000000)).room 0x18000000000 = false ∧ (other.openMiss 0x18000000000 [] none).2 = false ∧
       (free.l2Alloc 0x18000000000).2.isSome = true) ∧
    (let l : L2Line := { line := 0, valid := 0xF }
     let s := State.reset.setSlice (homeDie 0) (paSlice 0) { ways := [(0, some l)], miss := [{ line := 1, way := 1, reqs := [] }] }
     let e : CLine := { line := 0, valid := 0xF, data := 7 }
     let y := State.reset.setDie 0 { cc := [(ccHalf 0, { sets := [(0, [e])] })] }
     (s.l2Find 0).map (·.1) = some 0 ∧ ((s.slice (homeDie 0) (paSlice 0)).joins 1).isSome = true ∧ 1 < 256 ∧
       (∃ side : Fin 2, ccHalf 0 ≠ side.val) ∧
       (tget [] (tget {} (y.die 0).cc (ccHalf 0)).sets 0).find? (fun e => decide (e.line = 0)) = some e) ∧
    (∀ op ∈ [0#64, 1, 2, 3, 4, 5, 6], let p := pk 8 [0x2000, 0x2000, op]
     (qs p).turn rf p.op p) ∧
    (let s := (qs (pk 8 [])).begun rf.queue (pk 8 [])
     s.rangeBad 0 0x2000 0x2000 true false = none ∧ s.rangeBad 17 0x2000 0x2000 true false ≠ none ∧ (s.die 0).locks = [] ∧
       (s.die 0).groups = []) := by
  refine ⟨by decide +kernel, by decide +kernel, by decide +kernel, by decide +kernel, fun op ho => ?_, by decide +kernel⟩
  simp only [List.mem_cons, List.not_mem_nil, or_false] at ho
  rcases ho with rfl | rfl | rfl | rfl | rfl | rfl | rfl <;> exact qs_turn _ (by decide) (by decide +kernel)

/-- A group of one line and one rank, unordered, and one ordered of two ranks; their contributions. -/
theorem test_witness_ReductionGroups :
    (let p := pk 8 [0x2000, 0x80, 0x10008, 0, 0x3000]
     (qs p).turn rf p.op p) ∧
    (let p := pk 8 [0x2000, 0x80, 0x10008, 0, 0x3000]
     let s1 := (qs p).begun rf.queue p
     s1.cacheBad p 128 true = none ∧ s1.rangeBad 0 0x3000 8 true true = none ∧ (qs p).syncOwner 0 0 = 0 ∧
       s1.groupFits 0 0 0x2000 0x80 = false ∧ field (p.word 2) 16 5 = 1) ∧
    (let g : Group := { part := 0, g := 0, base := 0x2000, len := 0x80, ordered := false, ranks := 1, step := 0, done := 0, status := 0,
                        timeout := 1, opened := 0 }
     let h : Group := { g with g := 1, base := 0x2080, ordered := true, ranks := 2 }
     let s : State := { State.reset.setDie 0 { groups := [g, h], ways := [(0, { use := 2 })] } with now := 25000 }
     g.timeout * 25000 ≤ s.now - g.opened ∧ s.granOwner (.dram 0 0x2000) = some 0 ∧ locPA 0x2000 = .dram 0 0x2000 ∧
       locPA 0x2080 = .dram 0 0x2080 ∧ ((s.wakeL2 0x2080).die 0).groups = [g, h] ∧ (1 : Nat) ≠ (h.lineAt 0x2080).nxt ∧
       (h.lineAt 0x2080).got.getLsbD 1 = false ∧ (s.wakeL2 0x2080).holdRoom 0 0 0x2080 = true ∧
       ((g.setLine 0x2000 { got := 1 }).lines.filter (fun e => decide (e.2.got = ones 0 1) && e.2.held.isEmpty)).length = g.len / 128) := by
  exact ⟨qs_turn _ (by decide) (by decide +kernel), by decide +kernel, by decide +kernel⟩

theorem test_witness_CensusCountsAndPackets :
    (let g : Region := { startPos := 0, len := 1, rung := 0, blockDie := 0, block := 0 }
     let x : Task := { q := rf.queue, pos := 0, part := 0, cores := [0], ended := [], rung := 0, region := true }
     let s : State := { (State.reset.setQueue rf.queue { region := some g }).setCore 0 { task := some { queue := rf.queue, pos := 0 } } with
                        tasks := [x] }
     State.reset.taskOf 0 = none ∧ s.taskOf 0 = some x ∧ (s.queue x.q).region = some g) ∧
    (let c : CSlot := { thr := 2, ctl := 1 }
     bitAt c.ctl 0 = true ∧ bitAt ({} : CSlot).ctl 0 = false ∧ c.cur.nonfin + c.shadow.nonfin < field c.thr 0 32 ∧
       field c.thr 0 32 ≤ (satAdd c.cur.nonfin 2) + c.shadow.nonfin ∧ ¬ field c.thr 0 32 ≤ (satAdd c.cur.nonfin 1) + c.shadow.nonfin) ∧
    (∀ p ∈ [pk 0x16 [0x0BFF, 0], pk 0x16 [0x13FF, 0], pk 0x17 [0x100003FF, 0x1000], pk 0x17 [0x0BFF, 0x1001]], (qs p).turn rf p.op p) ∧
    (let p := pk 0x17 [0x10000BFF, 0x1000]
     let w := p.word 0
     field w 0 10 = 1023 ∧ field w 11 11 = 1 ∧ (qs p).censusOwner 0 1023 = 0 ∧
       ((qs p).begun rf.queue p).rangeBad 0 0x1000 112 true true = none ∧
       ((qs p).begun rf.queue p).cfgWaits (pk 0x16 [0x0BFF, 0]) 0 1023 = false) := by
  refine ⟨by decide, by decide, fun p hp => ?_, by decide⟩
  simp only [List.mem_cons, List.not_mem_nil, or_false] at hp
  rcases hp with rfl | rfl | rfl | rfl <;> exact qs_turn _ (by decide) (by decide +kernel)

/-- A region of one packet that starts at 0; its LAYER_COMMIT at position `n`, in a step that is open. -/
def rg : Region := { startPos := 0, len := 1, rung := 0, blockDie := 0, block := 0 }
def rs (n : Nat) (g : Region) : State := State.reset.setQueue rf.queue
  { (qu { pk 0x13 [] with pos := n }) with stepOpen := true, region := some g }
theorem rs_turn (n : BitVec 64) (g : Region)
    (hm : (rs n.toNat g).mayStart rf.queue { pk 0x13 [] with pos := n.toNat } = true ∧ (rs n.toNat g).inRotation rf.queue = true) :
    (rs n.toNat g).turn ⟨rf.queue, n⟩ 0x13 { pk 0x13 [] with pos := n.toNat } := by
  have e : (rs n.toNat g).queue rf.queue = { (qu { pk 0x13 [] with pos := n.toNat }) with stepOpen := true, region := some g } := rfl
  refine ⟨⟨by simp [e, qu], rfl, show (pk 19 []).op = 19 by decide⟩, ?_, hm, ?_, fun _ h => absurd rfl h, fun h => absurd h (by decide)⟩
  · simp [e, qu, pk]
  · exact fun _ _ => .inr ⟨.inl rfl, by decide⟩

/-- A LAYER_BEGIN outside a step; a LAYER_COMMIT of the right shape, of a wrong one, of attempts marked. -/
theorem test_witness_RegionsReplayAndPoison :
    (let p := pk 0x12 [1]
     (qs p).turn rf p.op p) ∧
    (let p := pk 0x12 [1]
     let u : Queue := { (qu p) with stepOpen := true }
     let s := State.reset.setQueue rf.queue u
     ¬ (0x100000000000 ≤ u.qbase.toNat ∨ u.region.isSome = true ∨ u.stepOpen = false) ∧
       ¬ (2 < field (p.word 0) 12 2 ∨ s.syncOwner (field (p.word 0) 16 1) (64 * field (p.word 0) 17 6) ≠ p.part) ∧
       ¬ (1024 < field (p.word 0) 0 11 ∨ 2 ^ field u.cfg 0 5 ≤ field (p.word 0) 0 11) ∧ field (p.word 0) 0 11 ≠ 0 ∧ p.sigs = []) ∧
    (rs 1 rg).turn ⟨rf.queue, 1⟩ 0x13 { pk 0x13 [] with pos := 1 } ∧
    (∀ n ∈ [1, 2], (rs n rg).quietFrom rf.queue 0 n = true) ∧ (1 : Nat) = rg.startPos + rg.len ∧
    ({ rg with ovf := true, rung := 2 } : Region).ovf = true ∧ ({ rg with pe := true, attempt := 2 } : Region).attempt = 2 ∧
    (let s := State.reset.setQueue rf.queue { stepOpen := true, stepCtr := 1 }
     s.syncOwner 0 5 = 0 ∧ s.syncOwner 0 5 ≠ 1 ∧ (1 : Nat) ≠ s.devid ∧ (s.queue rf.queue).poisonObj = (0, 0) ∧
       (s.queue rf.queue).stepOpen = true ∧ rf.queue ∈ s.queues) := by
  exact ⟨qs_turn _ (by decide) (by decide +kernel), by decide, rs_turn 1 rg (by decide +kernel), by decide, rfl, rfl, rfl, by decide⟩

theorem test_witness_FencesOrderAndCoresWait :
    (let s := cored kf
     s.ready 0 = true ∧ (s.drainWcb 0).outstanding (.core 0) = false ∧ (s.drainWcb 0).midAccess 0 = false ∧ s.armedParity 0 = none ∧
       kf.tile.queue = [] ∧ (∀ n ∈ s.owned 0, s.ctxQuiet 0 n = true) ∧ ipOf (s.ctxOf 0) kf = 0) ∧
    (let s := cored { kf with tile := { queue := [{ op := .clr 0 false 0 }] } }
     s.ready 0 = true ∧ (s.core 0).tile.queue ≠ []) ∧
    (let s := (cored kf).setCtx 0 3 { st := .running }
     s.ready 0 = true ∧ 3 ∈ s.owned 0 ∧ s.ctxQuiet 0 3 = false) ∧
    (let r : FReq := { who := .core 0, kind := .signal, frame := State.reset.mkFrame 4 0 1 0 0 0 0 0 [], sent := 0 }
     let s : State := { cored kf with fab := { reqs := [(0, some r)] } }
     s.ready 0 = true ∧ (s.drainWcb 0).outstanding (.core 0) = true ∧ (s.drainWcb 0).midAccess 0 = false) ∧
    (let k : Core := { kf with run := .waitEvent, tc := { ctcmp := 5 } }
     k.tc.ctcmp.toNat ≤ ((cored k).setDie 0 { cyc := 5 }).cycles 0 ∧ (cored k).cycles 0 < k.tc.ctcmp.toNat) ∧
    (let k : Core := { kf with tc := { ip := 0x30 } }
     ipOf ((cored k).ctxOf 0) k ≠ 0) := by
  decide +kernel

/-- A name of this device, one of device 1, and a malformed one. -/
theorem test_witness_SyncObjects :
    (let s := cored { kf with xf := [(1, 5), (2, 0x8001000000000005), (3, 0x4000000000000000)] }
     let k := s.core 0
     s.ready 0 = true ∧ s.canTrap 0 0x11 = true ∧ s.canTrap 0 0x01 = true ∧ bitAt (xget k 3) 62 = true ∧
       bitAt (xget k 2) 63 = true ∧ field (xget k 2) 13 35 = 0 ∧ field (xget k 2) 48 14 ≠ s.devid ∧
       s.syncOwner 0 5 = s.owner 0 ∧ field (xget k 1) 13 35 = 0 ∧ s.outstanding (.core 0) = false ∧ s.midAccess 0 = false ∧
       condHolds 0 (s.objVal 0 5) (xget k 0) = true ∧ condHolds 0 (s.objVal 0 5) (xget k 1) = false) ∧
    (let s := State.reset
     (∀ q ∈ s.queues, (s.queue q).stepOpen = false) ∧ s.credited 0 5 = []) := by decide +kernel

/-! ### Stream contexts -/

/-- Context 0 of cluster 0 running word `w`, with the page of instructions and data at 0. -/
def cx (w : Word) : SCtx := { st := .running, prog := [(0, w)], progLen := 64, a := [(1, 0x1000), (2, 0x2000), (3, 5)],
                              pats := [(1, { base := 1 }), (2, { base := 2 })] }
def cs (c : SCtx) : State :=
  { State.reset with clusters := [(0, { tlb := [{ asid := 0, base := 0, log := 21, pte := 0x1F }] }) ] } |>.setCtx 0 0 c

/-- Host port 0 trained, its window's first granule at host address 2^30, and the aperture of the PF at 0. -/
def hs (r : Bool) : State := { State.reset.setHport 0 { root := r, link := 1, wxlat := [(0, 0x40000001)] } with aper := [(0, 1)] }

theorem test_witness_StreamsAndTransfersRun :
    (∀ p ∈ [pk 2 [0, 0x2000, 0x0000000400000000], pk 2 [0x200000000, 0x2000, 0x0000000400000001], pk 2 [0x400000000, 0, 0],
        pk 0x14 [0x2000, 0x4000, 32], pk 0x15 [0x2000, 0x4000, 32]], (qs p).turn rf p.op p) ∧
    (let s := (qs (pk 2 [])).begun rf.queue (pk 2 [])
     s.owner 0 = 0 ∧ asidOk 0 0 = true ∧ (s.ctx 0 0).st = .unbound ∧ s.rangeBad 0 0x2000 512 true false ≠ some stBAD_PARAM ∧
       s.syncOwner 0 0 = 0 ∧ s.ctxQuiet 0 0 = true ∧ s.rangeBad 0 0x100000002000 32 false true = none ∧
       s.rangeBad 0 0x4000 32 true false = none) ∧
    (let c : SCtx := { (cx 0) with st := .idle, burst := [(0, 1), (1, 0x20)] }
     let s : State := cs c
     let t := s.setDie 0 { s.die 0 with sync := { vals := [(0, 2)] } }
     c.st = .idle ∧ (s.objVal 0 (field c.ctl 31 12)).toNat ≤ c.pos ∧ c.pos < (t.objVal 0 (field c.ctl 31 12)).toNat ∧
       (t.descriptor 0 0 0).2 = .ok 1 ∧ badDesc 1 = false ∧ badDesc 0x20 = true ∧ c.lastProg = none ∧
       (t.ctxRead 0 0 0 8).2 = .got (List.replicate 8 0) ∧ s.ctxDone 0 0 = true ∧ (s.stitcher 0).runs = [] ∧
       (({ (cs { (cx 0) with st := .idle }) with own := { gran := [(0, 1)] } } : State).descriptor 0 0 0).2 = .error ⟨5, 0, 0⟩) ∧
    (let s := (cs { (cx 0) with ended := true }).unicasts 0 0
     (s.ctx 0 0).st = .running ∧ (s.ctx 0 0).ended = true ∧ s.ctxDone 0 0 = true) ∧
    (let x : Transfer := { q := rf.queue, pos := 0, part := 0, pref := false, src := 0, dst := 0x100000000000, len := 5000 }
     (State.reset.tokens 0 x.part (min 4096 (x.len - x.next)) true).isSome = true ∧
       ((hs false).chunkBad x 4096).isNone = true ∧ (({ hs false with own := { gran := [(0, 1)] } } : State).chunkBad x 4096).isSome = true ∧
       (State.reset.setDie 0 { tny := { rate := [(0, 0x10000)], wr := [(0, { bytes := 0 })] } }).tokens 0 0 4096 true = none) := by
  refine ⟨fun p hp => ?_, by decide +kernel, by decide +kernel, by decide +kernel, by decide +kernel⟩
  simp only [List.mem_cons, List.not_mem_nil, or_false] at hp
  rcases hp with rfl | rfl | rfl | rfl | rfl <;> exact qs_turn _ (by decide) (by decide +kernel)

/-- The word of an instruction with opcode `o` and the fields `f`. -/
def chw (o : Nat) (f : Word) : Word := BitVec.ofNat 64 (o * 2 ^ 58) ||| f

theorem test_witness_ChroupInstructionsRun :
    (∀ e ∈ [(0, 0xFC00000000000000), (1, 0xFC00000000000000), (2, 0xFFFF1E00FFFFFFFF), (3, 0xFFFCFFFFFFFFFFFF),
        (4, 0xFFE000FFFFFFFFFF), (5, 0xFFE000FFFFFFFFFF), (6, 0xFFFF800000000000), (0x18, 0xFFFF0000FFFFFFFF),
        (0x19, 0xFFFF0000FFFFFFFF)],
      field (chw e.1 0) 58 6 = e.1 ∧ chw e.1 0 &&& ~~~(e.2 : Word) = 0) ∧
    field (chw 7 0) 58 6 ∉ [0, 1, 2, 3, 4, 5, 6, 0x10, 0x11, 0x12, 0x13, 0x14, 0x18, 0x19] ∧ chw 0 1 &&& ~~~0xFC00000000000000 ≠ 0 ∧
    (let w := chw 2 0x0001000000000002
     field w 55 3 = 0 ∧ field w 48 7 = 1 ∧ 0 + 1 < 64 ∧ field w 0 32 ≠ 0 ∧ field (chw 2 0x0080000000000000) 55 3 ≠ 0) := by decide
theorem test_witness_ChroupInstructionsRun_moves :
    let w := chw 0x10 0x0180000000000000
    let s := cs (cx w)
    field w 56 2 = 1 ∧ field w 54 2 = 2 ∧ (cx w).st = .running ∧ (cx w).ended = false ∧ (s.moveAddr 0 0 0 1).2 = .got 0x1000 ∧
    (s.moveAddr 0 0 1 2).2 = .got 0x2000 ∧ (s.ctxResolve 0 0 .load 0x1000 32).2 = .ok [⟨.dram 0 0x1000, 0x1000, 32⟩] ∧
    (s.ctxResolve 0 0 .store 0x2000 32).2 = .ok [⟨.dram 0 0x2000, 0x2000, 32⟩] ∧
    (s.piecesBlocked 0 0 [⟨.dram 0 0x2000, 0x2000, 32⟩]).2 = none ∧
    (s.piecesRead 0 0 [⟨.dram 0 0x1000, 0x1000, 32⟩]).2 = .got (List.replicate 32 0) ∧ lbSize (s.core 0) < 0x2000 * 8 + 32 ∧
    0x2000 + 32 ≤ lbSize (s.core 0) ∧ s.nameFault (s.owner 0) true 5 = none ∧ s.nameFault (s.owner 0) true 0x2000 ≠ none ∧
    s.ctxDone 0 0 = true ∧ s.pairRemote 5 = false ∧ s.pairRemote 0x8001000000000005 = true ∧ s.noRoute 1 = true := by decide +kernel

/-- An MCAST without a window, with one that has room and one that has none; a RED, and one that received RETRY. -/
theorem test_witness_MulticastAndReductionStreams :
    let w := chw 0x12 0x0180080000000000
    let s : State := { cs (cx w) with mem := { cells := [(0x1000, 1), (0x1017, 0x80)] } }
    let m : McRun := { id := 1, ctx := 0, pc := 0, detach := 1, recvs := [{ e0 := 0x8000000000000000, e1 := 0 }] }
    let g : Group := { part := 0, g := 0, base := 0, len := 128, ordered := true, ranks := 2, step := 0, done := 0, status := 0,
                       timeout := 0, opened := 0 }
    let y : Contribution := ⟨0, 0, 0, 0, 0, 1, 0⟩
    field w 58 6 = 0x12 ∧ w &&& ~~~0xFFFFFF0000000000#64 = 0 ∧ (s.stitcher 0).runs.length < 4 ∧
    (s.readGroup 0 0 ((cx w).reg 1)).2 = .got (1000, [{ e0 := 0x8000000000000000, e1 := 0 }]) ∧ m.room = true ∧
    ({ m with next := 8 } : McRun).room = false ∧
    (let t := (({ cs { (cx w) with st := .held } with now := 25 } : State).setStitcher 0
       { ctxs := [(0, { (cx w) with st := .held })], runs := [{ m with next := 8, since := some 0 }] }).unicasts 0 0
     (t.ctx 0 0).st = .held ∧ ((t.stitcher 0).runs.map (·.since)) = [some 0] ∧ 25 * m.detach ≤ t.now - 0) ∧
    (let r : FReq := { who := .ctx 0 0, kind := .red 1 true, frame := s.mkFrame 7 0 1 0 0 0 0 0 [], sent := 0 }
     let due := fun (e : Nat × Option FReq) => match e.2 with
       | some r => decide (r.who = .ctx 0 0) && (match r.kind with | .red _ d => d | _ => false)
       | none => false
     [(0, some r)].find? due = some (0, some r) ∧ (cx w).red = []) ∧
    field (chw 0x13 0x0180000000000000) 58 6 = 0x13 ∧ chw 0x13 0x0180000000000000 &&& ~~~0xFFFFFFFF80000000#64 = 0 ∧
    ((State.reset.setDie 0 { groups := [g] }).contribute y).2 = .retry ∧ 1 < s.retryLim 0 := by
  decide +kernel

/-! ### Queues, partitions, steward packets -/

/-- A STEP_BEGIN of step 1, one of a step that skips, a STEP_END; a queue with a packet to read, one whose reply has room. -/
theorem test_witness_StepsAndQueues :
    (∀ p ∈ [pk 0x10 [1, 0x1000, 0], pk 0x11 [1]], (qs p).turn rf p.op p) ∧
    (let s1 := (qs (pk 0x10 [])).begun rf.queue (pk 0x10 [])
     (s1.queue rf.queue).stepOpen = false ∧ (1 : Nat) = (s1.queue rf.queue).stepCtr.toNat + 1 ∧ (2 : Nat) ≠ (s1.queue rf.queue).stepCtr.toNat + 1 ∧
       s1.syncOwner 0 0 = 0 ∧ s1.rangeBad 0 0x1000 512 true true ≠ some stBAD_PARAM ∧ s1.rangeBad 0 0x1000 512 true false = none ∧
       (s1.blkRead rf.queue 0 0 0x1000 8).2 = .bytes (List.replicate 8 0) ∧ (s1.blkRead rf.queue 0 0 0x1000 8).1.objVal 0 0 ≠ 1 ∧
       s1.quietBefore rf.queue 0 = true ∧ (s1.queue rf.queue).psnTags = []) ∧
    (let u : Queue := { cfg := 0x8808, qbase := 0x1000, tail := 2, nextPos := 0, stop := true }
     let s := State.reset.setQueue rf.queue { u with stop := false }
     bitAt u.cfg 15 = true ∧ bitAt u.cfg 16 = false ∧ u.nextPos ≤ 2 ∧ (2#64).toNat ≤ u.tail.toNat ∧ ¬ (3#64).toNat ≤ u.tail.toNat ∧
       u.nextPos < u.tail.toNat ∧ (s.ccBytes 0 0 0x1000 64).2 = (List.replicate 64 0, none) ∧ field (0 : Word) 16 16 = u.nextPos % 65536) := by
  refine ⟨fun p hp => ?_, by decide +kernel, by decide +kernel⟩
  simp only [List.mem_cons, List.not_mem_nil, or_false] at hp
  rcases hp with rfl | rfl <;> exact qs_turn _ (by decide) (by decide +kernel)

/-- The block of zeros: it changes nothing of partition 0. -/
theorem test_witness_PartitionsAreMadeAndDestroyed :
    (∀ p ∈ [pk 0x20 [0x2000], pk 0x21 [1], pk 0x22 [0x2000, 0x100000000], pk 0x23 [0x2000, 0x100000000]], (qs p).turn rf p.op p) ∧
    (let p := pk 0x20 [0x2000]
     let s := qs p
     let z : List Byte := List.replicate 0x9C0 0
     p.work = [] ∧ s.opPkts [0x20, 0x21] = [] ∧ s.rangeBad 0 0x2000 0x9C0 true true = none ∧
       s.partHeadBad ⟨z⟩ = none ∧ s.partQueueBad ⟨z⟩ = none ∧ (s.partGrant ⟨z⟩).partRingBad ⟨z⟩ = none ∧
       (s.partGrant ⟨z⟩).partShort ⟨z⟩ = none ∧ s.partHeadBad ⟨1 :: z⟩ ≠ none ∧ (PartBlk.target ⟨1 :: z⟩) ≠ 0 ∧ s.exists_ 1 = false ∧
       { s with own := { s.own with parts := [(16, true)] } }.exists_ 16 = true) ∧
    (let p := pk 0x22 [0x2000, 0x100000000]
     let s1 := (qs p).begun rf.queue p
     field (p.word 1) 32 13 = 1 ∧ s1.rangeBad 0 0x2000 16 true true = none ∧ s1.rangeBad 0 0 8 true true = none ∧
       (s1.blkRead rf.queue 0 0 0x2000 16).2 = .bytes (List.replicate 16 0) ∧ (0 : Nat) / 2048 = p.part ∧ 4096 < 4097) := by
  refine ⟨fun p hp => ?_, by decide +kernel, by decide +kernel⟩
  simp only [List.mem_cons, List.not_mem_nil, or_false] at hp
  rcases hp with rfl | rfl | rfl | rfl <;> exact qs_turn _ (by decide) (by decide +kernel)

/-- The steward's packets, at places and lengths that pass their checks and (the last two) that do not. An image that is
accepted needs the opaque signatures of Config, so none is written out. -/
theorem test_witness_StewardPacketsComplete :
    (∀ p ∈ [pk 0x30 [0x2000, 1], pk 0x31 [0x101], pk 0x38 [1, 1000], pk 0x39 [0x2000], pk 0x3A [0x2000, 64, 0],
        pk 0x4A [0x0001000B, 5], pk 0x48 [0x2000, 0x4000], pk 0x40 [0x2000, 0, 0x40000], pk 0x41 [0x2000, 0x100, 8],
        pk 0x49 [0x2000, 4096], pk 0x38 [1, 999], pk 0x41 [0x2000, 0xFF, 8]], (qs p).turn rf p.op p ∧ p.work = []) ∧
    (let p := pk 0x30 [0x2000, 1]
     let s1 := (qs p).begun rf.queue p
     s1.rangeBad 0 0x2000 65792 true true = none ∧ s1.rangeBad 0 0x30000000000 32 true true ≠ none ∧ s1.pins.dbgen = false ∧
       s1.opPkts [0x40, 0x41] = [] ∧ s1.opPkts [0x49] = [] ∧ s1.sec.calBad = true ∧ s1.sec.tree = 0 ∧ s1.sec.next < 2 ^ 40 ∧
       s1.sec.fin ≤ s1.sec.next ∧ (s1.memRd rf.queue 0 0 0x4000 32).2 = .bytes (List.replicate 32 0) ∧
       calAllowed (flashPut s1.flash.cal 0x100 (List.replicate 8 0)) = false ∧ (s1.fport 0).st = .disabled ∧
       (s1.linkCtrl 0 0).pwr.eff = s1.effPoint ∧ ¬ (1000 < 1000 ∨ 2800 < 1000)) ∧
    (let p : Pkt := { pk 0x31 [0x101] with st := .begun }
     let s : State := { qs p with now := 25000000 }
     p.began + 25000000 ≤ s.now ∧ ((List.range 8).filter (fun n => bitAt (0x101#64) n)).filter (fun n =>
       !decide ((s.fport n).st = .up)) = [0]) := by
  refine ⟨fun p hp => ?_, by decide +kernel, by decide⟩
  simp only [List.mem_cons, List.not_mem_nil, or_false] at hp
  rcases hp with rfl | rfl | rfl | rfl | rfl | rfl | rfl | rfl | rfl | rfl | rfl | rfl <;>
    exact ⟨qs_turn _ (by decide) (by decide +kernel), rfl⟩

/-! ### Host, channels, fabric -/

theorem test_witness_HostAccessesReachTheirFunction :
    (let s := hs false
     (s.hport 0).root = false ∧ (s.hport 0).up = true ∧ s.pmem.lost = false ∧ s.sec.st ≠ .recovery ∧ bitAt (tget 0 s.aper 0) 0 = true ∧
       0xFFFFFFF8 + 8 ≤ 2 ^ 32 ∧ s.rangeBad 0 0xFFFFFFF8 8 true false = none ∧ (s.readMem 0xFFFFFFF8 8).2 = (List.replicate 8 0, none) ∧
       s.rangeBad 1 0 8 true false ≠ none ∧ ¬ (State.reset.hport 0).up = true ∧
       ({ s with sec := { s.sec with st := .recovery } } : State).sec.st = .recovery) ∧
    (let s := (hs false).setQueue rf.queue { cfg := 0x8808 }
     (s.queue rf.queue).v = true ∧ 0x18 / 0x1000 % 64 = 0 ∧ 0x440000 - 0x440000 < 0x40000 ∧ 0x20FF8 + 0x440000 - 0x440000 < 0x21000) ∧
    (let s := hs true
     (s.hport 0).root = true ∧ (s.hport 0).up = true ∧ s.syncOwner 0 0 = 0) := by decide +kernel

theorem test_witness_HostWindowReadsAndWritesComplete :
    (let s := hs false
     (0x100000000000#48).toNat = 0x100000000000 + 0x40000000000 * 0 + 0 ∧ s.rangeBad 0 0x100000000000 8 false true = none ∧
       bitAt (tget 0 (s.hport 0).wxlat 0) 0 = true ∧ bitAt (tget 0 (s.hport 0).wxlat 1) 0 = false ∧ s.answers = [] ∧
       (s.hport 0).reqs = [] ∧ (0xFF8 : Nat) + 8 ≤ 4096) ∧
    (let r : HostReq := ⟨.core 0, 0x100000000000, 8, 0, 0⟩
     let s : State := { State.reset.setHport 0 { link := 1, reqs := [(0, some r)] } with now := 250000 }
     tget none (s.hport 0).reqs 0 = some r ∧ tget none (s.hport 0).reqs 1 = none ∧ s.hostComp 0 = none ∧ r.sent + 250000 ≤ s.now) ∧
    (let k : Core := { kf with run := .waitResp }
     k.run = .waitResp ∧ k.mem.miss = [] ∧ (cored k).outstanding (.core 0) = false ∧ (cored k).hosts = []) := by decide

theorem test_witness_ChannelsScrubRefreshAndRest :
    (let c : Chan := { state := 1, pos := [(0, 16 * 196608 * 64 - 1)] }
     let s := State.reset.setChan 0 c
     field c.scrub 0 16 ≠ 0 ∧ c.sleep = false ∧ s.pmem.lost = false ∧ (tget 0 c.pos 0 + 1) % (16 * 196608 * 64) = 0 ∧
       (s.memRead (burstAddr 0 0 0 0)).2 = (0, false, false)) ∧
    (let c : Chan := { state := 1 }
     let s : State := { State.reset.setChan 0 c with now := 100, pwr := { dom := [(11, .parked)] } }
     field c.sref 0 20 ≠ 0 ∧ c.lastReq + field c.sref 0 20 ≤ s.now ∧ s.dom 11 = .parked) := by decide +kernel

/-- A device of two, its port 0 in state `st`. -/
def fs (st : PortSt) (n : Nat) : State :=
  { State.reset with pins := { fcfg := 0x4000 }, fab := { rtab := [(1, 0)] }, now := n } |>.setFport 0 { st := st, width := 3 }
/-- A request of type `t` for this device. -/
def rq (t len : Nat) (h2 h3 : Word) : Frame := State.reset.mkFrame t (if t = 3 ∨ t = 7 then 1 else 0) 0 0 0 0 h2 h3 (List.replicate len 0)

theorem test_witness_FramesActAtTheirTarget :
    (∀ f ∈ [rq 1 16 0 0xFFFF, rq 2 0 0x2FFFFFFFFE00 16, rq 3 16 0 0, rq 4 4 0 0, rq 5 0 0x4005 1, rq 6 2 1 0, rq 7 0 2 0],
      frameOk f = true ∧ f.dst = State.reset.devid ∧ f.part = 0) ∧
    frameOk (rq 2 0 0 17) = false ∧ tget 0 State.reset.own.gran (field (rq 1 16 0 0).h2 0 48 / 2 ^ 30) = 0 ∧
    (State.reset.readMem 0 512).2 = (List.replicate 512 0, none) ∧ 0x30000000000 ≤ field (rq 1 1 0x30000000000 0).h2 0 48 ∧
    (let s := State.reset.setCluster 0 { owner := 1 }
     s.owner 0 ≠ 0 ∧ State.reset.owner 0 = 0 ∧ (State.reset.cluster 0).retired = false ∧ 0 + 32 ≤ 65536 * field ({} : Core).cr.lbcfg 0 2 ∧
       s.syncOwner 0 5 = 0 ∧ ({ s with own := { s.own with sync := [(0, 1)] } } : State).syncOwner 0 5 ≠ 0) := by
  decide +kernel

theorem test_witness_ResponsesReachTheirRequester :
    (let q := fun (k : FKind) => ({ who := .core 0, kind := k, frame := rq 2 0 0 16, sent := 0 } : FReq)
     let s := fun (k : FKind) => ({ State.reset with fab := { rtab := [(0, 0)], reqs := [(0, some (q k))] }, now := 250000 } : State)
     (∀ k ∈ [FKind.read 0 512 0 512, .write 8, .signal, .red 4094 false, .psn 3 false false, .psn 0 false true, .psn 2 true false],
       tget none (s k).fab.reqs 0 = some (q k) ∧ tget none (s k).fab.reqs 1 = none ∧
         (q k).sent + 25000 * max 1 (field (s k).fab.e2e 0 16) ≤ (s k).now) ∧
       (s .signal).noRoute 0 = false ∧ 4094 + 1 < max 1 (field ({} : Stitcher).retrylim 0 16) ∧
       max 1 (field ({} : Stitcher).retrylim 0 16) ≤ 4095 + 1) ∧
    (∀ c ∈ [0, 1, 2, 3, 4], let f := rq 7 0 (BitVec.ofNat 64 (c + 256 * 2)) 0
      frameOk f = true ∧ f.type = 7 ∧ f.tag = 0 ∧ field f.h2 0 8 = c ∧ field f.h2 8 8 = 2) ∧
    (rq 3 16 0 0).type = 3 ∧ ((qs (pk 3 [])).queue rf.queue).pkts = [pk 3 []] ∧ (pk 3 []).work.getD 1 1 ≠ 0 ∧
    ({ pk 3 [] with work := [1, 0] } : Pkt).work.getD 1 1 = 0 := by decide

/-- Frames and HELLOs at a port of each state: the partner of port 0 is port 1 of device 1. -/
theorem test_witness_LinksDeliverInOrderAndTrain :
    (∀ st ∈ [PortSt.disabled, .training, .hello, .check, .up, .miswired], ((fs st 0).fport 0).st = st) ∧
    (let s := fs .up 75000
     let f := rq 1 1 0 1
     f.type ≠ 0 ∧ f.lseq = (s.fport 0).rxSeq ∧ frameOk f = true ∧ f.dst = s.devid ∧ (s.fport 0).heard + 75000 ≤ s.now ∧
       (s.fport 0).nakSent = false ∧ (s.fport 0).width ≠ 0 ∧ ({ f with h1 := 0xFFFFFFFFFFFFFFFF } : Frame).lseq ≠ (s.fport 0).rxSeq ∧
       7 + 1 = 8 ∧ s.partner 0 0 = some (1, 1)) ∧
    (let s := fs .hello 0
     let pl : Sector := BitVec.ofNat 256 (1 + 2 ^ 16 + field s.fabCfg 0 20 * 2 ^ 32)
     s.partner s.devid 0 = some (field pl 0 14, field pl 16 3) ∧ field pl 32 20 = field s.fabCfg 0 20) := by decide

theorem test_witness_RoutesFollowTheLinkState :
    (let s := fs .up 0
     s.badCfg = false ∧ 1 < 2 ^ s.dimLo 4 ∧ ¬ 2 < 2 ^ s.dimLo 4 ∧ s.devid = 0 ∧ s.pathLen 64 0 0 = some 0 ∧ s.pathLen 64 0 1 = none ∧
       tget 0x8000 s.fab.rtab 1 ≠ 0x8000 ∧ tget none s.fab.lsas 1 = none) ∧
    (let s : State := { fs .up 0 with fab := { (fs .up 0).fab with lsas := [(0, some (1, 0xFFFF)), (1, some (1, 0xFFFF))] } }
     s.pathLen 64 0 1 = some 1 ∧ tget none s.fab.lsas 1 = some (1, 0xFFFF) ∧ 1 < 2) := by decide

/-- Frames of 60 bytes: to the address of pair 0, and one too short. -/
theorem test_witness_EthernetSendsAndReceives :
    (let s := State.reset.setEport 0 { rate := 1 }
     (s.eport 0).rate ≠ 0 ∧ (60 : Nat) ≤ (List.replicate 60 (1 : Byte)).length ∧ ((List.replicate 60 (1 : Byte)).drop 12).take 2 ≠ [0x88, 0x08] ∧
       bitAt ((List.replicate 60 (1 : Byte)).headD 0) 0 = true ∧ ¬ 60 ≤ (List.replicate 59 (1 : Byte)).length) := by decide

/-- The area of partition 0 at 0: a pair enabled with rings of 16, a frame to send and a buffer to fill at 0x1000 and 0x2000. -/
theorem test_witness_EthernetSendsAndReceives_pair :
    let e : EthPair := { txdb := 1, rxdb := 1, ctl := 0x40401, txb := 0x1000, rxb := 0x2000 }
    let s : State := { State.reset.setDie 0 { sync := { vals := [(60, 1), (62, 1)] } } with
      mem := { cells := [(0x1008, 60), (0x2009, 1)] } } |>.setEport 0 { rate := 1, pairs := [(0, e)] }
    s.ethPlace 0 0 = some (0, 0) ∧ s.ethRefresh 0 0 = s ∧ s.ethTurn 0 = some 0 ∧ s.ethPlace 0 1 = none ∧
    (s.ethGet 0 0 0x1000 16).2 = .bytes [0, 0, 0, 0, 0, 0, 0, 0, 60, 0, 0, 0, 0, 0, 0, 0] ∧
    (s.ethGet 0 0 0 60).2 = .bytes (List.replicate 60 0) ∧ e.rpos < e.rxdb.toNat ∧
    (s.ethGet 0 0 0x2000 16).2 = .bytes [0, 0, 0, 0, 0, 0, 0, 0, 0, 1, 0, 0, 0, 0, 0, 0] ∧ s.rangeBad 0 0 60 true true = none ∧
    (60 : Nat) ≤ 256 := by decide +kernel

/-! ### Power, boot, service -/

theorem test_witness_PowerFollowsItsInputs :
    (let s : State := { State.reset with now := 25000000000, pmem := { badIn := some 0, fcl := true, below := some 0, clIdle := [(0, some 0)] } }
     s.clusterQuiet 0 = true ∧ 0 + 25 * max 1 (field s.pwr.clctl 16 16) ≤ s.now ∧ 0 + 250 ≤ s.now ∧ s.pins.pwrgd = true ∧
       s.dom 20 = .on ∧ State.reset.pmem.badIn = none) ∧
    (let s : State := { State.reset with now := 25000000000, pmem := { l2Idle := [(0, some 0)] },
                                         pwr := { dom := (List.range 8).map (fun i => (i, DomSt.off)) } }
     s.halfQuiet 0 = true ∧ s.dom 8 = .on ∧ 25000 * max 1 (field s.pwr.clctl 32 8) ≤ s.now ∧ s.dom 7 = .off) ∧
    (let s := State.reset
     s.pmem.hold ≤ s.now ∧ s.pwr.cap < 2801 ∧ s.pwr.capPt < 3 ∧ ¬ 100 * 2660 < 95 * s.pwr.cap ∧ 100 * 2659 < 95 * s.pwr.cap) := by
  decide +kernel

theorem test_witness_TemperatureLimitsThePoint :
    (let l : List (BitVec 16) := List.replicate 41 0 ++ [1920]
     l.length = 42 ∧ (∀ m, m < 41 → (l.getD m 0).toInt < 1920) ∧ (1920 : Int) ≤ (l.getD 41 0).toInt) ∧
    (let l : List (BitVec 16) := [1919, 1919] ++ List.replicate 40 0xFFFF
     l.length = 42 ∧ (∀ n, n < 42 → (l.getD n 0).toInt < 1920) ∧
       (∀ n, n < 42 → (State.reset.sensed n (l.getD n 0)).toInt ≤ (State.reset.sensed 0 (l.getD 0 0)).toInt)) ∧
    (let s : State := { State.reset with now := 25000, pmem := { hot := true, stepAt := some 0 } }
     s.pmem.hot = true ∧ s.pwr.therm < 3 ∧ 0 + 25000 ≤ s.now ∧ s.pmem.logged = false) ∧
    (let s : State := { State.reset with now := 2500000, pwr := { therm := 1 }, pmem := { cool := some 0 } }
     s.pmem.hot = false ∧ 0 + 2500000 ≤ s.now ∧ 0 < s.pwr.therm) := by decide

theorem test_witness_ResetStartsTheDevice : State.reset.pins.pwrgd = true ∧ (250 : Nat) ≤ 250 ∧ ¬ (250 : Nat) ≤ 249 ∧
    (let s : State := { State.reset with pins := { pwrgd := false }, pmem := { lost := true } }
     s.pins.pwrgd = false ∧ s.pmem.lost = true) := by decide

/-- Both slots erased; firmware with a cool device and with a hot sensor. -/
theorem test_witness_BootRunsItsStages :
    (let s := State.reset
     s.sec.st = .rom ∧ s.pmem.lost = false ∧ s.svc.bootSlot = 0 ∧ imgGen (s.flash.slot 1) ≤ imgGen (s.flash.slot 0) ∧
       (imgBad s.flash.minsvn (s.flash.slot 0) false false).isSome = true ∧ s.sec.tree ≤ s.sec.next / 2 ^ 20 ∧ s.opPkts [0x48] = [] ∧
       (calCheck s.flash.cal).isSome = true ∧ s.badCfg = false ∧ (s.hport 0).root = false) ∧
    (let s : State := { State.reset with sec := { st := .firmware }, pwr := { temps := [(41, 1760)] } }
     s.sec.booted = false ∧ s.tooHot = true ∧ ({ s with pwr := {} } : State).tooHot = false) ∧
    (let p : Pkt := { pk 0x48 [0x2000, 0x4000] with st := .begun, work := [1] }
     let s := qs p
     s.opPkts [0x48] = [(rf.queue, p)] ∧ s.sec.fin ≤ s.sec.next) := by decide +kernel

theorem test_witness_ServiceRecordsInjectsAndRetires :
    (let s := State.reset
     s.svc.pend.length < 255 ∧ ¬ (List.replicate 255 (⟨0, 0x81, false, 0, 0, 0, [], 0⟩ : LogRec)).length < 255 ∧
       ({ s with now := 25000000 } : State).svc.flushAt + 25000000 ≤ 25000000 ∧ (s.core 0).task = none ∧ s.armedAt 0 0x13 = none ∧
       s.dom (12 * (0 / 64) + 0 / 8 % 8) = .on ∧ tget 0 s.svc.katFail 0 = 0 ∧ (7 : Nat) ≤ 7 ∧ s.svc.uncom = []) ∧
    (let s := State.reset.setInj 4 { point := 0x0000000B, arg := 5 }
     injValid 4 11 0 5 = true ∧ injValid 0 11 0 5 = false ∧ firesNow 11 = false ∧ firesNow 9 = true ∧ (s.injBlk 4).kept = []) ∧
    field (0x38000001#32) 0 30 = 0x38000000 + 1 ∧ (∀ r ∈ [({ run := .halted } : Core)], r.run = .halted ∧ r.task = none) ∧
    State.reset.healthNow = State.reset.svc.health := by decide +kernel

/-- The first and the last register of a space, an address of none, the pins either way. -/
theorem test_witness_TestPortAndRegisterWrites :
    (0xF00000000000#48).toNat = 0xF00000000000 + 0x100000000 * 0 + 0 ∧ (0xF010FFFFFFF8#48).toNat = 0xF01000000000 + 0xFFFFFFF8 ∧
    0xFFFFFFF8 % 8 = 0 ∧ (0xF00200000000#48).toNat ≠ 0xF01000000000 ∧ ({ low := true, dbgen := true } : Pins).low = true ∧
    State.reset.pins.low = false ∧ State.reset.pins.dbgen = false := by decide

/-! ## Further cases of the statements -/

/-- BF16 to BF16 and to a scaled format; a register, the last of a space and an address of memory. -/
theorem test_witness_ConversionsAndTestPortComplete :
    (let s := cored (kv 9)
     let k := s.core 0
     let x := s.ctxOf 0
     s.ready 0 = true ∧ h0.rsvz = 0 ∧ vStart k = 0 ∧ vCnt k ≤ vCap x k ∧ tyScaled (vType x k) = false ∧
       (∀ n ∈ [0, 1, 2, 3, 4, 5, 6, 7, 8, 9, 10], (tyOfCode n).isSome = true) ∧
       tyScaled (effTy x.rung (.fp .bf16)) = false ∧ vDerived (vG k) 16 16 = some 1 ∧ groupsOk [(3, 1), (1, vG k)] = true ∧
       tyScaled (effTy x.rung (.fp .e4m3)) = true ∧ vDerived (vG k) 8 16 ≠ none ∧
       groupsOk [(4, (vDerived (vG k) 8 16).getD 0), (1, vG k), (3, 1)] = true ∧ bitAt k.vec.vcens 15 = false) ∧
    (let k : Core := { kv 9 with vec := { (kv 9).vec with vcens := 0x8000 } }
     bitAt k.vec.vcens 15 = true ∧ field ((cored k).cslot 0 (field k.vec.vcens 0 10)).thr 0 32 = 0) ∧
    (let a := (0xF00009000008#48).toNat
     locPA a = .reg 0 0x09000008 ∧ stewardOnly 0 0x09000008 = true ∧ 0x09000008 % 8 = 0 ∧ 0x0900000C % 4 = 0 ∧
       stewardOnly 0 0x00200018 = false ∧ locPA (0#48).toNat = .dram 0 0 ∧ ({ dbgen := true } : Pins).dbgen = true) := by
  decide +kernel

/-- A STEP_END behind a packet that has begun, and one whose poisoning SIGNALs are in flight; a ring in a granule that the
partition does not hold; a reply to write. -/
theorem test_witness_StepsAndQueues_ends :
    (let p : Pkt := { pk 0x11 [1] with pos := 1 }
     let u : Queue := { cfg := 0x8808, pkts := [{ pk 0 [] with st := .begun }, p], nextPos := 2, stepOpen := true, stepCtr := 1 }
     let v : Queue := { u with pkts := [p], psnTags := [3] }
     p.op = 0x11 ∧ p.st = .waiting ∧ p.word 0 = u.stepCtr ∧ u.region = none ∧ (∀ x ∈ u.pkts, x.asked = true ∧ (x.pos = p.pos → x = p)) ∧
       (State.reset.setQueue rf.queue u).quietBefore rf.queue 1 = false ∧ v.psnTags ≠ []) ∧
    (let s := State.reset.setQueue rf.queue (qu (pk 0 []))
     s.ringHeld rf.queue 0x1000 64 = true ∧ ({ s with own := { gran := [(0, 1)] } } : State).ringHeld rf.queue 0x1000 64 = false) ∧
    (let u : Queue := { cfg := 0x808, waitRep := [⟨0, 0, 0, 0, 0, 0, 0⟩] }
     let s := State.reset.setQueue rf.queue u
     u.waitRep ≠ [] ∧ ¬ u.rdone.toNat + 2 ^ field u.cfg 8 5 ≤ u.rtail ∧ s.outstanding (.pkt rf.queue 0) = false) := by decide +kernel

/-- A set of 700 mV everywhere, throttling at 90 °C and critical at 100 °C. -/
def calOf : List Byte := (List.replicate 16 (toBytes 8 700)).flatten ++ List.replicate 128 0 ++ toBytes 8 90 ++ toBytes 8 100
theorem test_witness_StewardPacketsComplete_second :
    calAllowed (flashPut [] 0x20300 calOf) = true ∧
    (let p : Pkt := { pk 0x41 [0x2000, 0x20300, 272] with st := .begun, work := [0x100000001, 2] }
     let f : Pkt := { pk 0x49 [0x2000, 4096] with st := .begun, work := [0x100000001, 2] }
     ((qs p).setPkt rf.queue p).opPkts [0x40, 0x41] = [(rf.queue, p)] ∧ ((qs f).setPkt rf.queue f).opPkts [0x49] = [(rf.queue, f)] ∧
       ((qs f).setPkt rf.queue f).rangeBad 0 0x2000 4096 true true = none ∧ 4096 ≤ (f.word 1).toNat) ∧
    imgBad 0 (flashOf (List.replicate 64 0)) true false ≠ none := by decide +kernel

/-- A poisoned sector that the 112 bytes at 0x1000 cover in part; partition 1 made away with, its queue idle, and one whose
packet waits to be read from host memory. -/
theorem test_witness_PartitionsAreMadeAndDestroyed_gone :
    (let p := pk 0x17 [0x10000BFF, 0x1000]
     let s := qs p
     (s.edgeBad rf.queue 0 0x1000 112).2 = none ∧
       ((s.writeMem 0x1060 (List.replicate 32 0) true).edgeBad rf.queue 0 0x1000 112).2 ≠ none) ∧
    (let q : QId := ⟨0, 1, 0⟩
     let s := (qs (pk 0x21 [1])).setQueue q { cfg := 0x8808 }
     let s : State := { s with own := { s.own with parts := [(1, true)] } }
     let w := s.setQueue q { cfg := 0x8808, qbase := 0x100000000000, tail := 1 }
     let w : State := { w with own := { w.own with hgran := [(0, 1)] } }
     s.exists_ 1 = true ∧ (s.destroy1 1).2 = false ∧
       ((w.setHport 0 { link := 1, wxlat := [(0, 0x40000001)] }).destroy1 1).2 = true) := by decide +kernel

/-- A SIGNAL whose object carries an open step's poisoning; a channel that is parked; a late answer of a poisoning SIGNAL and
one whose destination has no route; a port that has taken more than 100 ms to train, and one that has sent seven NAKs. -/
theorem test_witness_FabricAndChannels_more :
    (let u : Queue := { cfg := 0x8808, stepOpen := true, stepCtr := 7 }
     let s := State.reset.setQueue rf.queue u
     s.syncOwner 0 0 = 0 ∧ ((s.queues.filter (fun q => (s.queue q).stepOpen && decide ((s.queue q).poisonObj = (0, 0)))).find?
       (fun q => decide ((7 : Word) = (s.queue q).stepCtr))) = some rf.queue ∧ (State.reset).credited 0 0 = []) ∧
    (let s : State := { State.reset.setChan 0 { state := 1, sref := 0 } with pwr := { dom := [(11, .parked)] } }
     s.dom 11 = .parked ∧ (s.chan 0).state = 1 ∧ (s.chan 0).sleep = false ∧ (((s.chan 0).rest 5).sleep) = true) ∧
    (let r : FReq := { who := .ring rf.queue, kind := .psn 0 false true, frame := rq 5 0 0x4005 1, sent := 0 }
     let s : State := { State.reset with fab := { rtab := [(0, 0), (1, 0x8000)], reqs := [(0, some r)] }, now := 250000 }
     tget none s.fab.reqs 0 = some r ∧ r.sent + 250000 ≤ s.now ∧ s.noRoute 0 = false ∧ s.noRoute 1 = true) ∧
    (let p : FPort := { st := .training, left := some 0 }
     p.left = some 0 ∧ 0 + 2500000 < (2500001 : Nat) ∧ ({ st := .up, sentN := 7 } : FPort).nakSent = false) ∧
    (let f : List Byte := List.replicate 60 1
     crc32 f = crc32 f ∧ (0 : BitVec 32) ≠ crc32 f) := by decide +kernel

/-- Power below 64 V after power-up; samples of the power; a domain that stays dark; both halves off; an override that holds. -/
theorem test_witness_PowerFollowsItsInputs_more :
    (let s : State := { State.reset with pmem := { inrush := true } }
     s.pmem.inrush = true ∧ (6399#16).toNat < 6400 ∧ ¬ (6400#16).toNat < 6400) ∧
    (let s : State := { State.reset with now := 25000, pmem := { power := [(25000, 28010000)] } }
     s.pmem.capAt + 25000 ≤ s.now ∧ s.pmem.hold ≤ s.now ∧ s.pwr.capPt < 3 ∧
       10000 * (s.pmem.power.filter (fun e => decide (s.now < e.1 + 250000))).length * s.pwr.cap <
         ((s.pmem.power.filter (fun e => decide (s.now < e.1 + 250000))).map Prod.snd).sum) ∧
    (let s : State := { State.reset with pwr := { dom := [(0, .off), (9, .off)] }, pmem := { held := true } }
     s.dom 0 ≠ .on ∧ s.pmem.held = true ∧ tget .on (tset .on s.pwr.dom 8 .off) 9 = .off ∧ State.reset.modsLeft 1 ≠ 0) ∧
    (overNow 5 (some (1, 10)) = some (1, 10) ∧ overNow 10 (some (1, 10)) = none) := by decide

/-- A slot cut off while it was programmed; a leaf record that stands and one that was cut off. -/
theorem test_witness_BootRunsItsStages_more :
    (let r : LeafRec := ⟨1, 1024, crc32 (toBytes 8 1 ++ toBytes 8 1024)⟩
     let f : Flash := { leafs := [(0, some r), (1, some ⟨2, 2048, 0⟩)] }
     f.leaf 0 = some r ∧ f.leaf 1 = none) ∧
    (let s : State := { State.reset with sec := { st := .firmware }, pmem := { held := true } }
     s.pmem.held = true ∧ s.lkOut 0 = false ∧ ({ s with sec := { s.sec with fwProg := some 4096 } } : State).sec.fwProg ≠ none) := by
  exact ⟨by decide +kernel, by decide⟩

/-- A corrected error reported less than a second after a record; the last module of a connection; an engine whose test is due,
and one that failed the test before. -/
theorem test_witness_ServiceRecordsInjectsAndRetires_more :
    (let s : State := { State.reset with svc := { coal := [(65536, (some 0, 3))] }, now := 24999999 }
     (∃ x, (tget (none, 0) s.svc.coal 65536).1 = some x ∧ s.now - x < 25000000)) ∧
    (let s : State := { State.reset with svc := { mods := [(1, modules 1), (3, modules 3)] } }
     s.modsLeft 1 = 0 ∧ s.modsLeft 3 = 0 ∧ State.reset.modsLeft 0 ≠ 0) ∧
    (let s : State := { State.reset with svc := { katEng := [0] } }
     s.katTests 0 = [0] ∧ (s.core 0).task = none ∧ s.dom 0 = .on ∧ s.armedAt 0 0x13 = none ∧ tget 0 s.svc.katFail 0 = 0 ∧
       tget 0 ({ s with svc := { s.svc with katFail := [(0, 1)], katDue := [0] } } : State).svc.katFail 0 ≠ 0) :=
  ⟨⟨0, by decide⟩, by decide, by decide⟩

/-- A frame whose soft entry is committed and whose hard one is not is reported soft; an engine whose entry waits is not reported;
the commit of the hard entry programs S in the same slot (R408, R409). -/
theorem test_retirement_is_reported_with_its_commit :
    (let s : State := { State.reset with
       mem := { retired := [(0, [⟨5, true⟩])] }, svc := { uncom := [5#32, 0x30000001#32] }, flash := { retire := [0x40000005#32, 0xB0000007#32] },
       cores := [(0, { Core.reset with cr := { Core.reset.cr with engmask := 0xD } })] }
     s.framesShown 0 = [⟨5, false⟩] ∧ s.engShown 1 = false ∧ s.reported 7 = true ∧ s.clRetired = 0 ∧
       (s.flash.commit 5#32).retire = [5#32, 0xB0000007#32] ∧
       ({ s with svc := { uncom := [0x30000001#32] } } : State).framesShown 0 = [⟨5, true⟩] ∧
       ({ s with svc := {} } : State).engShown 1 = true) := by decide +kernel

/-- The places that the example under R416 gives: FCFG7 and FCFG24. -/
theorem test_land_of_straps : land 7 39 = .single (.fcfg 7) ∧ land 8 1 = .single (.fcfg 24) := by decide +kernel

/-- How many lands Table 20.1 gives a kind of signal. -/
def lands (p : Land → Bool) : Nat :=
  ((List.range 64).map (fun r => ((List.range 72).filter (fun c => p (land (r + 1) (c + 1)))).length)).sum

/-- The lane counts under Table 20.2. -/
theorem test_land_counts :
    lands (fun l => match l with | .lumette .. => true | _ => false) = 512 ∧
    lands (fun l => match l with | .ethernet .. => true | _ => false) = 64 ∧
    lands (fun l => match l with | .host .. => true | .refclk .. => true | _ => false) = 264 ∧
    lands (fun l => match l with | .single s => decide (s ≠ .reserved) | _ => false) = 57 ∧
    lands (fun l => match l with | .single s => decide (s = .reserved) | .unused _ => true | _ => false) = 39 ∧
    lands (fun l => decide (l = .vss)) = 3672 := by decide +kernel

/-! ## Refusals, waits and tests: further clauses -/

/-- ASCTL of partitions 0 and 1, PLVL and PBANK at their bounds, WDCTL.LVL from S, CFLAGS behind a row read; a SIZE of 0 beside
a SIZE that changes; a gate at S that forbids a new SAVEMODE. -/
theorem test_witness_ControlRegisters_more :
    (let s := cored { ks with xs := [(1, 0x280), (2, 0x0800000000000000), (3, 2)] }
     let k := s.core 0
     field (xget k 2) 48 16 / 2048 ≠ s.owner 0 ∧ field (xget k 0) 48 16 / 2048 = s.owner 0 ∧ field (xget k 1) 7 2 < 2 ∧
       field (xget k 1) 9 2 < 2 ∧ bitAt (xget k 3) 1 ≠ bitAt k.tc.wdctl 1 ∧ bitAt (xget k 0) 1 = bitAt k.tc.wdctl 1 ∧
       s.canTrap 0 0x02 = true ∧ k.level = .s) ∧
    (let k : Core := { kf with tile := { queue := [{ op := .rd 0 false (destOf ((cored kf).ctxOf 0) kf 3 0) none (randOf kf) }] } }
     (cored k).ready 0 = true ∧ ∃ e ∈ k.tile.queue, e.op.skiver = true) ∧
    (let k : Core := { kf with ts := { gstatus := 1 } }
     bitAt (2#64) 1 ≠ saveset k ∧ bitAt k.ts.gstatus 0 = true ∧ (cored k).canTrap 0 0x01 = true ∧ field k.cr.lbcfg 0 2 ≠ 2) := by
  refine ⟨by decide +kernel, ⟨by decide +kernel, _, .head _, rfl⟩, by decide⟩

/-- BF16 to the scaled formats with a scale register of its own, counted in a slot that the partition holds; a scaled source. -/
theorem test_witness_VectorConversions_more :
    (let k : Core := { kv 9 with vec := { (kv 9).vec with vcens := 0x8000 } }
     let s := cored k
     k.vec.vcens.getLsbD 15 = true ∧ s.censusOwner 0 (field k.vec.vcens 0 10) = s.owner 0 ∧
       (∀ dw ∈ [4, 6, 8], groupsOk [(4, max 1 (vG k * dw / 16)), (1, vG k), (3, 1)] = true) ∧ (k.active nm 0 = true)) ∧
    (let k := kv 4
     tyScaled (vType ((cored k).ctxOf 0) k) = true ∧ (3#6) ≠ (4#6)) := by decide +kernel

/-- A load that a poisoned entry of the write-combining buffer serves; an entry and a miss register whose granule went to
partition 1. -/
theorem test_witness_CachesServe_more :
    (let k : Core := { kf with mem := { wcb := [{ line := 0, mask := 0xFF, data := 5, last := 0, poison := 1 }] } }
     (((cored k).loadHit 0 0 8).2).isSome = true) ∧
    (let e : Wcb := { line := 2 ^ 23, mask := 0xFF, data := 5, last := 0 }
     let s : State := { (cored { kf with mem := { wcb := [e] } }).setDie 0 { cyc := 256 } with own := { gran := [(1, 1)] } }
     s.granOwner (.dram 0 (128 * e.line)) ≠ some (s.owner 0) ∧ e.last + 256 ≤ s.cycles 0) := by decide +kernel

/-- A retired engine, a TPROG that waits, OPA.MP at U, a vsc of an unscaled type. -/
theorem test_witness_EnginesQueueAndReport_more :
    (let k : Core := { kf with cr := { engmask := 0xE } }
     k.cr.engmask.getLsbD 0 = false ∧ (cored k).canTrap 0 0x01 = true) ∧
    (let k : Core := { kf with tile := { tprog := 0x8000 } }
     k.tile.tprog.getLsbD 15 = true ∧ k.level = .f ∧ (cored k).canTrap 0 0x01 = true) ∧
    (ku.level ≠ .f ∧ ((cored ku).ctxOf 0).test = false ∧ (cored ku).canTrap 0 0x02 = true) ∧
    tyScaled (vType ((cored kf).ctxOf 0) kf) = false ∧
    (∃ t', wrChecks 0 kf 0 false (destOf ((cored kf).ctxOf 0) kf 0 1) 64 = some t' ∧ (cored kf).canTrap 0 t'.code = true) :=
  ⟨by decide, by decide, by decide +kernel, by decide, ⟨_, rfl, by decide⟩⟩

/-- An arrival with no step open: at a queue that names its object, at one that does not, for a partition that goes. -/
theorem test_witness_RegionsReplayAndPoison_more :
    (let s := State.reset.setQueue rf.queue { cfg := 0x8808, stepCtr := 1 }
     (s.queues.filter (fun q => (s.queue q).stepOpen && decide ((s.queue q).poisonObj = (0, 5)))) = [] ∧ s.credited 0 5 = [] ∧
       s.own.dying = none ∧ s.syncOwner 0 5 = 0 ∧ rf.queue ∈ s.queues ∧
       ({ s with own := { s.own with dying := some 0 } } : State).own.dying = some 0) ∧
    ({ pe := true, peInj := true, startPos := 0, len := 1, rung := 0, blockDie := 0, block := 0 } : Region).injected = true := by decide

/-- The release part of a SYNC.WAIT behind an unanswered write; a RETRY that is due and a local one; a STEP_END of a poisoned
step; replies behind a signal. -/
theorem test_witness_Waits_more :
    (let r : FReq := { who := .core 0, kind := .write 8, frame := State.reset.mkFrame 1 0 1 0 0 0 0 1 [0], sent := 0 }
     let s : State := { cored kf with fab := { reqs := [(0, some r)] } }
     s.ready 0 = true ∧ s.outstanding (.core 0) = true ∧ s.nameFault 0 true 5 = none) ∧
    (let y : Contribution := ⟨0, 0, 0, 0, 0, 1, 0⟩
     let r : FReq := { who := .ctx 0 0, kind := .red 1 true, frame := State.reset.mkFrame 4 0 1 0 0 0 0 0 [], sent := 0 }
     let s : State := { (cs { cx 0 with red := [(none, y)] }) with fab := { reqs := [(0, some r)] } }
     (s.ctx 0 0).red ≠ [] ∧ (s.ctx 0 0).st = .running ∧ s.noRoute 1 = true ∧
       ({ s with fab := { s.fab with rtab := [(1, 0)] } } : State).noRoute 1 = false) ∧
    (let u : Queue := { cfg := 0x8808, stepOpen := true, poisoned := true, stepCtr := 1 }
     u.poisoned = true ∧ ({ u with poisoned := false } : Queue).poisoned = false) := by decide +kernel

/-- A port in training at stage 2, before it, and in RECOVERY; a frame and a SIGNAL for a partition that goes; an old contribution. -/
theorem test_witness_HostAndFabric_more :
    (let s := fun (b : Sec) => ({ State.reset with sec := b } : State)
     (s { st := .firmware, booted := true }).hostTrains 0 = true ∧ (s { st := .firmware }).hostTrains 0 = false ∧
       (s { st := .recovery }).hostTrains 0 = true ∧ (s { st := .recovery }).hostTrains 1 = false) ∧
    (let s : State := { State.reset with own := { dying := some 0 } }
     s.own.dying = some (rq 1 1 0 1).part ∧ State.reset.own.dying ≠ some (rq 1 1 0 1).part) ∧
    (let r : FReq := { who := .ctx 0 0, kind := .red 4095 false, frame := rq 4 4 0 0, sent := 0, stale := true }
     r.stale = true ∧ max 1 (field ({} : Stitcher).retrylim 0 16) ≤ 4095 + 1) := by decide

/-- A link die before stage 2, and one afterwards while a hot device holds. -/
theorem test_witness_Power_more :
    (let s : State := { State.reset with pwr := { dom := [(26, .off)] }, pmem := { held := true } }
     s.dom 26 ≠ .on ∧ s.pmem.held = true ∧ s.sec.st ≠ .hold ∧ s.noPower 26 = true ∧
       ({ s with sec := { s.sec with st := .hold } } : State).noPower 26 = false) ∧
    (let s : State := { State.reset with pmem := { lost := true } }
     s.pmem.lost = true) := by decide +kernel

/-- Engines whose test is due hold READY back; a leaf record in programming, alone and for a signature that is held. -/
theorem test_witness_BootRunsItsStages_ready :
    (let s : State := { State.reset with sec := { st := .firmware, booted := true }, svc := { katEng := [5] } }
     s.katBusy 1 = true ∧ ({ s with svc := {} } : State).katBusy 1 = false) ∧
    (let p : Pkt := { pk 0x48 [0x2000, 0x4000] with st := .begun, work := [1] }
     let s : State := { qs p with sec := { leafProg := some (0, 1) } }
     s.sec.leafProg = some (0, 1) ∧ s.opPkts [0x48] = [(rf.queue, p)] ∧
       ({ State.reset with sec := { leafProg := some (0, 1) } } : State).opPkts [0x48] = []) := by decide +kernel

/-- An ILO pass of walking ones: lane 0 times lane 0 is 1, lane 15 times lane 0 is 0x8000; a cell of engine 1 that reads
otherwise, one that the pass does not write, and sound ones. -/
theorem test_known_answer_cells :
    katAnswer 0 0 = 1 ∧ katAnswer 0 (64 * 15) = 0x8000 ∧ katAnswer 5 0 = 0xC000 ∧
    katFirst [⟨1, 5, 0, 0xC000⟩, ⟨1, 4, 7, 1⟩, ⟨1, 4, 3, 1⟩] 1 = some (4, 3) ∧ katFirst [⟨1, 4, 3, 1⟩] 0 = none ∧
    katFirst [⟨0, 8, 1, 1⟩] 0 = none ∧ katWord ⟨[⟨1, 4, 3, 1⟩], false, true⟩ = 2 ^ 14 + 2 ^ 41 := by decide +kernel

/-- Engine 0 of core 0 fails once and is tested again; a second failure retires it with its pass and cell. -/
theorem test_known_answer_retires :
    (let s : State := { State.reset with svc := { katEng := [0] } }
     let t := s.katEngine 0 (some (4, 3))
     t.svc.katEng = [0] ∧ tget 0 t.svc.katFail 0 = 1 ∧ t.svc.uncom = [] ∧
       (t.katEngine 0 (some (4, 3))).svc.uncom = [0x30000000] ∧ tget (0, 0) (t.katEngine 0 (some (4, 3))).svc.katPass 0 = (4, 3) ∧
       (t.katEngine 0 none).svc.katEng = [] ∧ tget 0 (t.katEngine 0 none).svc.katFail 0 = 0) := by decide +kernel

end Sys2Proof.Tests
end

section
/-! SUPPORT. The values of the integer instructions (Table 4.4): each bit-vector operation of the model is the arithmetic
on integers or naturals that its row names. -/

namespace Sys2Proof.Proofs

open Sys2Proof.Machine

/-! ### Shifts and comparisons -/

theorem shiftLeft_eq_ofNat (a : Word) (n : Nat) : a <<< n = BitVec.ofNat 64 (a.toNat * 2 ^ n) :=
  BitVec.eq_of_toNat_eq (by rw [BitVec.toNat_shiftLeft, Nat.shiftLeft_eq, BitVec.toNat_ofNat])

theorem ushiftRight_eq_ofNat (a : Word) (n : Nat) : a >>> n = BitVec.ofNat 64 (a.toNat / 2 ^ n) := by
  have hlt : a.toNat / 2 ^ n < 2 ^ 64 := (Nat.div_le_self _ _).trans_lt a.isLt
  exact BitVec.eq_of_toNat_eq (by
    rw [BitVec.toNat_ushiftRight, Nat.shiftRight_eq_div_pow, BitVec.toNat_ofNat, Nat.mod_eq_of_lt hlt])

theorem sshiftRight_eq_ofInt (a : Word) (n : Nat) : a.sshiftRight n = BitVec.ofInt 64 (a.toInt / 2 ^ n) := by
  rw [← BitVec.ofInt_toInt (x := a.sshiftRight n), BitVec.toInt_sshiftRight, Int.shiftRight_eq_div_pow]
  push_cast
  rfl

theorem ofInt_sub_eq (x y : Int) : BitVec.ofInt 64 (x - y) = BitVec.ofInt 64 x - BitVec.ofInt 64 y := by
  rw [Int.sub_eq_add_neg, BitVec.ofInt_add, BitVec.ofInt_neg, BitVec.sub_eq_add_neg]

theorem ite_slt {α : Type} (a b : Word) (x y : α) :
    (if a.slt b then x else y) = if a.toInt < b.toInt then x else y := by
  simp only [BitVec.slt_iff_toInt_lt]

theorem ite_ult {α : Type} (a b : Word) (x y : α) :
    (if a.ult b then x else y) = if a.toNat < b.toNat then x else y := by
  simp only [BitVec.ult_iff_lt, BitVec.lt_def]

/-! ### ADD to SRA, MIN to MAXU -/

theorem aluVal_add (a b : Word) : aluVal .add a b = BitVec.ofInt 64 (a.toInt + b.toInt) := by
  rw [BitVec.ofInt_add, BitVec.ofInt_toInt, BitVec.ofInt_toInt, aluVal]

theorem aluVal_sub (a b : Word) : aluVal .sub a b = BitVec.ofInt 64 (a.toInt - b.toInt) := by
  rw [ofInt_sub_eq, BitVec.ofInt_toInt, BitVec.ofInt_toInt, aluVal]

theorem aluVal_sll (a b : Word) : aluVal .sll a b = BitVec.ofNat 64 (a.toNat * 2 ^ (b.toNat % 64)) :=
  shiftLeft_eq_ofNat _ _

theorem aluVal_srl (a b : Word) : aluVal .srl a b = BitVec.ofNat 64 (a.toNat / 2 ^ (b.toNat % 64)) :=
  ushiftRight_eq_ofNat _ _

theorem aluVal_sra (a b : Word) : aluVal .sra a b = BitVec.ofInt 64 (a.toInt / 2 ^ (b.toNat % 64)) :=
  sshiftRight_eq_ofInt _ _

theorem minMaxVal_min (a b : Word) : minMaxVal .min a b = BitVec.ofInt 64 (min a.toInt b.toInt) := by
  rw [minMaxVal, ite_slt]
  split
  · rw [min_eq_left (by omega), BitVec.ofInt_toInt]
  · rw [min_eq_right (by omega), BitVec.ofInt_toInt]

theorem minMaxVal_max (a b : Word) : minMaxVal .max a b = BitVec.ofInt 64 (max a.toInt b.toInt) := by
  rw [minMaxVal, ite_slt]
  split
  · rw [max_eq_right (by omega), BitVec.ofInt_toInt]
  · rw [max_eq_left (by omega), BitVec.ofInt_toInt]

theorem minMaxVal_minu (a b : Word) : minMaxVal .minu a b = BitVec.ofNat 64 (min a.toNat b.toNat) := by
  rw [minMaxVal, ite_ult]
  split
  · rw [min_eq_left (by omega), BitVec.ofNat_toNat, BitVec.setWidth_eq]
  · rw [min_eq_right (by omega), BitVec.ofNat_toNat, BitVec.setWidth_eq]

theorem minMaxVal_maxu (a b : Word) : minMaxVal .maxu a b = BitVec.ofNat 64 (max a.toNat b.toNat) := by
  rw [minMaxVal, ite_ult]
  split
  · rw [max_eq_right (by omega), BitVec.ofNat_toNat, BitVec.setWidth_eq]
  · rw [max_eq_left (by omega), BitVec.ofNat_toNat, BitVec.setWidth_eq]

/-! ### CLZ, CTZ, POPC -/

/-- The leading zeros of a word, by the powers of two between which it lies. -/
theorem clz_spec (a : Word) : clz a ≤ 64 ∧ a.toNat < 2 ^ (64 - clz a) ∧ (clz a < 64 → 2 ^ (63 - clz a) ≤ a.toNat) := by
  unfold clz
  split
  case isTrue h => subst h; exact ⟨le_rfl, by decide, fun h => absurd h (lt_irrefl _)⟩
  case isFalse h =>
    have hne : a.toNat ≠ 0 := fun h0 => h (BitVec.eq_of_toNat_eq h0)
    have hlog : Nat.log2 a.toNat < 64 := (Nat.log2_lt hne).mpr a.isLt
    have e1 : 64 - (63 - Nat.log2 a.toNat) = Nat.log2 a.toNat + 1 := by omega
    have e2 : 63 - (63 - Nat.log2 a.toNat) = Nat.log2 a.toNat := by omega
    rw [e1, e2]
    exact ⟨by omega, Nat.lt_log2_self, fun _ => Nat.log2_self_le hne⟩

/-- A power of two divides a word when the bits below it are clear. -/
theorem two_pow_dvd_of_getLsbD (a : Word) (z : Nat) (h : ∀ j < z, a.getLsbD j = false) : 2 ^ z ∣ a.toNat := by
  refine Nat.dvd_of_mod_eq_zero (Nat.eq_of_testBit_eq fun j => ?_)
  rw [Nat.testBit_mod_two_pow, Nat.zero_testBit]
  by_cases hj : j < z
  · rw [BitVec.testBit_toNat, h j hj, Bool.and_false]
  · rw [decide_eq_false hj, Bool.false_and]

/-- A word with bit `z` set is no multiple of 2^(z+1). -/
theorem not_two_pow_dvd_of_getLsbD (a : Word) (z : Nat) (h : a.getLsbD z = true) : ¬ 2 ^ (z + 1) ∣ a.toNat := by
  rintro ⟨q, hq⟩
  rw [← BitVec.testBit_toNat, hq, Nat.testBit_two_pow_mul, decide_eq_false (by omega)] at h
  exact Bool.false_ne_true h

/-- The trailing zeros of a word, by the powers of two that divide it. -/
theorem ctz_spec (a : Word) : ctz a ≤ 64 ∧ 2 ^ ctz a ∣ a.toNat ∧ (ctz a < 64 → ¬ 2 ^ (ctz a + 1) ∣ a.toNat) ∧
    (ctz a = 64 → a = 0) := by
  unfold ctz
  cases hf : (List.range 64).find? (fun i => bitAt a i) with
  | none =>
    have hz : ∀ j < 64, a.getLsbD j = false := fun j hj => by
      simpa [bitAt] using List.find?_range_eq_none.mp hf j hj
    have h0 : a = 0 := BitVec.eq_of_getLsbD_eq fun j hj => (hz j hj).trans BitVec.getLsbD_zero.symm
    exact ⟨le_rfl, two_pow_dvd_of_getLsbD a 64 hz, fun h => absurd h (lt_irrefl _), fun _ => h0⟩
  | some z =>
    obtain ⟨hset, hmem, hlow⟩ := List.find?_range_eq_some.mp hf
    have hz : z < 64 := List.mem_range.mp hmem
    have hclr : ∀ j < z, a.getLsbD j = false := fun j hj => by simpa [bitAt] using hlow j hj
    exact ⟨hz.le, two_pow_dvd_of_getLsbD a z hclr, fun _ => not_two_pow_dvd_of_getLsbD a z hset,
      fun h => absurd h hz.ne⟩

theorem popc_eq_card (a : Word) : popc a = ((Finset.range 64).filter (fun j => a.getLsbD j = true)).card := by
  have hf : ∀ l : List Nat, (l.filter fun i => bitAt a i) = l.filter fun j => decide (a.getLsbD j = true) := fun l => by
    simp only [bitAt, Bool.decide_eq_true]
  rw [popc, hf]
  rfl

/-! ### SEXT.W, ZEXT.W, immediates, LSI -/

theorem extW_sext (a : Word) : extW false a = BitVec.ofInt 64 (a.toInt.bmod (2 ^ 32)) := by
  have h : (a.setWidth 32).toInt = a.toInt.bmod (2 ^ 32) := by
    rw [BitVec.toInt_setWidth, BitVec.toInt_eq_toNat_bmod, Int.bmod_bmod_of_dvd (Nat.pow_dvd_pow 2 (by omega))]
  rw [← h]
  rfl

theorem extW_zext (a : Word) : extW true a = BitVec.ofNat 64 (a.toNat % 2 ^ 32) := by
  have h : (a.setWidth 32).toNat = a.toNat % 2 ^ 32 := BitVec.toNat_setWidth _ _
  rw [← h, BitVec.ofNat_toNat]
  rfl

theorem immVal_addi (a : Word) (imm : BitVec 16) : immVal .addi a imm = BitVec.ofInt 64 (a.toInt + imm.toInt) := by
  rw [BitVec.ofInt_add, BitVec.ofInt_toInt]
  rfl

theorem immVal_slti (a : Word) (imm : BitVec 16) : immVal .slti a imm = if a.toInt < imm.toInt then 1 else 0 := by
  rw [immVal, ite_slt, BitVec.toInt_signExtend_of_le (by omega)]

theorem immVal_sltiu (a : Word) (imm : BitVec 16) :
    immVal .sltiu a imm = if a.toNat < (BitVec.ofInt 64 imm.toInt).toNat then 1 else 0 := ite_ult _ _ _ _

theorem lsiVal_eq (a : Word) (imm : BitVec 16) : lsiVal a imm = BitVec.ofNat 64 (a.toNat * 2 ^ 16 + imm.toNat) := by
  have hdisj : (a <<< 16) &&& imm.setWidth 64 = 0#64 := by
    ext j hj
    by_cases h : j < 16
    · simp [h]
    · simp [BitVec.getLsbD_of_ge imm j (by omega)]
  rw [lsiVal, ← BitVec.add_eq_or_of_and_eq_zero _ _ hdisj, shiftLeft_eq_ofNat, BitVec.ofNat_add, BitVec.ofNat_toNat]

/-! ### Multiplication and division -/

theorem mulVal_mul (a b : Word) : mulVal .mul a b = BitVec.ofInt 64 (a.toInt * b.toInt) := by
  rw [BitVec.ofInt_mul, BitVec.ofInt_toInt, BitVec.ofInt_toInt, mulVal]

theorem divVal_div {a b : Word} (hb : b ≠ 0) : divVal .div a b = BitVec.ofInt 64 (a.toInt.tdiv b.toInt) := if_neg hb

theorem divVal_divu {a b : Word} (hb : b ≠ 0) : divVal .divu a b = BitVec.ofNat 64 (a.toNat / b.toNat) := if_neg hb

theorem divVal_rem {a b : Word} (hb : b ≠ 0) : divVal .rem a b = BitVec.ofInt 64 (a.toInt.tmod b.toInt) := if_neg hb

theorem divVal_remu {a b : Word} (hb : b ≠ 0) : divVal .remu a b = BitVec.ofNat 64 (a.toNat % b.toNat) := if_neg hb

theorem overflows_eq_false {x : Int} : overflows x = false ↔ -(2 ^ 63) ≤ x ∧ x < 2 ^ 63 := by
  simp [overflows]

end Sys2Proof.Proofs
end

section
/-! SUPPORT. One rule per integer instruction: on a ready core it completes and writes its value to rd (R64, R67, R68). -/

namespace Sys2Proof.Proofs

open Sys2Proof.Machine Sys2Proof.Laws

/-- A checked operation that fits, or whose trap is not enabled, writes its result. -/
theorem bOvf_eq_putReg (k : Core) (rd : Reg) {x : Int} (hq : (-(2 ^ 63) ≤ x ∧ x < 2 ^ 63) ∨ enabled k 1 = false) :
    bOvf rd x k = putReg k rd (BitVec.ofInt 64 x) := by
  have hno : (overflows x && enabled k 1) = false := by
    rcases hq with hfit | hoff
    · rw [overflows_eq_false.mpr hfit, Bool.false_and]
    · rw [hoff, Bool.and_false]
  rw [bOvf, hno]
  rfl

/-- The signed quotient of two registers lies within 64 bits. -/
def QuotientFits (k : Core) (rs1 rs2 : Reg) : Prop :=
  -(2 ^ 63) ≤ (xget k rs1).toInt.tdiv (xget k rs2).toInt ∧ (xget k rs1).toInt.tdiv (xget k rs2).toInt < 2 ^ 63

/-- −2^63 / −1 is the quotient that does not fit. -/
theorem not_quotientFits {k : Core} {rs1 rs2 : Reg} (ha : xget k rs1 = BitVec.intMin 64)
    (hb : xget k rs2 = BitVec.allOnes 64) : ¬ QuotientFits k rs1 rs2 := by
  rw [QuotientFits, ha, hb]
  decide

/-- A division that raises neither DIV_ZERO nor INT_OVERFLOW writes its result (R68). -/
theorem bDiv_eq_putReg {op : DivOp} (k : Core) (rd rs1 rs2 : Reg) (h0 : xget k rs2 = 0 → enabled k 0 = false)
    (h1 : op = .div → xget k rs2 ≠ 0 → QuotientFits k rs1 rs2 ∨ enabled k 1 = false) :
    bDiv op rd rs1 rs2 k = putReg k rd (divVal op (xget k rs1) (xget k rs2)) := by
  have hzero : ¬ (xget k rs2 = 0 ∧ enabled k 0 = true) := fun ⟨hb, he⟩ => by simp [h0 hb] at he
  have hover : ¬ (op = .div ∧ xget k rs1 = BitVec.intMin 64 ∧ xget k rs2 = BitVec.allOnes 64 ∧ enabled k 1 = true) := by
    rintro ⟨hop, ha, hb, he⟩
    rcases h1 hop (by rw [hb]; decide) with hfit | hoff
    · exact not_quotientFits ha hb hfit
    · simp [hoff] at he
  rw [bDiv, if_neg hzero, if_neg hover]

section
variable {s : State} {h : Issue} (hr : s.ready h.core.val = true) (hz : h.rsvz = 0) (rd rs1 rs2 : Reg) {v : Word}
include hr hz

theorem exec_addSubLogicShift {op : AluOp} (hop : ∀ w, op ≠ .unassigned w)
    (hv : aluVal op (xget (s.core h.core.val) rs1) (xget (s.core h.core.val) rs2) = v) :
    ∃ t, exec (.addSubLogicShift h op rd rs1 rs2) s = .next t ∧ s.writesReg t h.core.val rd v := by
  refine exec_putReg hr hz _ ?_
  rw [← hv]
  cases op with
  | unassigned w => exact absurd rfl (hop w)
  | _ => rfl

theorem exec_slt :
    ∃ t, exec (.sltSltu h false rd rs1 rs2) s = .next t ∧ s.writesReg t h.core.val rd
      (if (xget (s.core h.core.val) rs1).toInt < (xget (s.core h.core.val) rs2).toInt then 1 else 0) :=
  exec_putReg hr hz _ (congrArg (putReg _ rd) (ite_slt _ _ _ _))

theorem exec_sltu :
    ∃ t, exec (.sltSltu h true rd rs1 rs2) s = .next t ∧ s.writesReg t h.core.val rd
      (if (xget (s.core h.core.val) rs1).toNat < (xget (s.core h.core.val) rs2).toNat then 1 else 0) :=
  exec_putReg hr hz _ (congrArg (putReg _ rd) (ite_ult _ _ _ _))

theorem exec_minMax {op : MinMaxOp}
    (hv : minMaxVal op (xget (s.core h.core.val) rs1) (xget (s.core h.core.val) rs2) = v) :
    ∃ t, exec (.minMax h op rd rs1 rs2) s = .next t ∧ s.writesReg t h.core.val rd v :=
  exec_putReg hr hz _ (congrArg (putReg _ rd) hv)

theorem exec_clzCtzPopc {op : CountOp} (hv : countVal op (xget (s.core h.core.val) rs1) = v) :
    ∃ t, exec (.clzCtzPopc h op rd rs1) s = .next t ∧ s.writesReg t h.core.val rd v :=
  exec_putReg hr hz _ (congrArg (putReg _ rd) hv)

theorem exec_sextWZextW {zero : Bool} (hv : extW zero (xget (s.core h.core.val) rs1) = v) :
    ∃ t, exec (.sextWZextW h zero rd rs1) s = .next t ∧ s.writesReg t h.core.val rd v :=
  exec_putReg hr hz _ (congrArg (putReg _ rd) hv)

theorem exec_addiAndiOriXoriSlti {op : ImmOp} {imm : BitVec 16}
    (hv : immVal op (xget (s.core h.core.val) rs1) imm = v) :
    ∃ t, exec (.addiAndiOriXoriSlti h op rd rs1 imm) s = .next t ∧ s.writesReg t h.core.val rd v :=
  exec_putReg hr hz _ (congrArg (putReg _ rd) hv)

theorem exec_shi {kind : BitVec 2} {n : BitVec 6}
    (hb : ∀ w, bShi w kind n rd rs1 (s.core h.core.val) = putReg (s.core h.core.val) rd v) :
    ∃ t, exec (.shi h kind n rd rs1) s = .next t ∧ s.writesReg t h.core.val rd v :=
  exec_putReg hr hz _ (hb _)

theorem exec_lsi {imm : BitVec 16} (hv : lsiVal (xget (s.core h.core.val) rs1) imm = v) :
    ∃ t, exec (.lsi h rd rs1 imm) s = .next t ∧ s.writesReg t h.core.val rd v :=
  exec_putReg hr hz _ (congrArg (putReg _ rd) hv)

theorem exec_mulMulhMulhu {op : MulOp}
    (hv : mulVal op (xget (s.core h.core.val) rs1) (xget (s.core h.core.val) rs2) = v) :
    ∃ t, exec (.mulMulhMulhu h op rd rs1 rs2) s = .next t ∧ s.writesReg t h.core.val rd v :=
  exec_putReg hr hz _ (congrArg (putReg _ rd) hv)

/-- ADDO and SUBO write the wrapped result where no overflow trap is due (R68). -/
theorem exec_addoSubo {sub : Bool} {x : Int}
    (hx : addoExact sub (xget (s.core h.core.val) rs1) (xget (s.core h.core.val) rs2) = x)
    (hq : (-(2 ^ 63) ≤ x ∧ x < 2 ^ 63) ∨ enabled (s.core h.core.val) 1 = false) :
    ∃ t, exec (.addoSubo h sub rd rs1 rs2) s = .next t ∧ s.writesReg t h.core.val rd (BitVec.ofInt 64 x) := by
  subst hx
  exact exec_putReg hr hz _ (bOvf_eq_putReg _ rd hq)

theorem exec_mulo {x : Int} (hx : (xget (s.core h.core.val) rs1).toInt * (xget (s.core h.core.val) rs2).toInt = x)
    (hq : (-(2 ^ 63) ≤ x ∧ x < 2 ^ 63) ∨ enabled (s.core h.core.val) 1 = false) :
    ∃ t, exec (.mulo h rd rs1 rs2) s = .next t ∧ s.writesReg t h.core.val rd (BitVec.ofInt 64 x) := by
  subst hx
  exact exec_putReg hr hz _ (bOvf_eq_putReg _ rd hq)

theorem exec_divDivuRemRemu {op : DivOp}
    (h0 : xget (s.core h.core.val) rs2 = 0 → enabled (s.core h.core.val) 0 = false)
    (h1 : op = .div → xget (s.core h.core.val) rs2 ≠ 0 → QuotientFits (s.core h.core.val) rs1 rs2 ∨
      enabled (s.core h.core.val) 1 = false)
    (hv : divVal op (xget (s.core h.core.val) rs1) (xget (s.core h.core.val) rs2) = v) :
    ∃ t, exec (.divDivuRemRemu h op rd rs1 rs2) s = .next t ∧ s.writesReg t h.core.val rd v := by
  subst hv
  exact exec_putReg hr hz _ (bDiv_eq_putReg _ rd rs1 rs2 h0 h1)

end

end Sys2Proof.Proofs
end

section
/-! SUPPORT. The integer instructions together (R64, R67, R68). -/

namespace Sys2Proof.Proofs

open Sys2Proof.Machine Sys2Proof.Laws

/-- Settles O7, row by row of Table 4.4: each instruction writes the value of its operation, and that value is the
arithmetic that the row names. -/
theorem integerInstructionsWriteTheirResult : Obligations.IntegerInstructionsWriteTheirResult := by
  refine ⟨fun s h rd rs1 rs2 imm n hr hz => ?_, fun s h rd rs1 rs2 hr hz => ?_⟩
  · refine ⟨?alu, exec_slt hr hz .., exec_sltu hr hz .., ?minMax, ?clz, ?ctz, ?popc, ?sext, ?zext, ?imm, ?shi, ?lsi, ?mul⟩
    case alu =>
      simp only [List.forall_mem_cons, List.not_mem_nil, false_imp_iff, implies_true, and_true]
      have alu {op v} := exec_addSubLogicShift hr hz rd rs1 rs2 (op := op) (v := v)
      exact ⟨alu nofun (aluVal_add ..), alu nofun (aluVal_sub ..), alu nofun rfl, alu nofun rfl, alu nofun rfl,
        alu nofun (aluVal_sll ..), alu nofun (aluVal_srl ..), alu nofun (aluVal_sra ..)⟩
    case minMax =>
      simp only [List.forall_mem_cons, List.not_mem_nil, false_imp_iff, implies_true, and_true]
      exact ⟨exec_minMax hr hz rd rs1 rs2 (minMaxVal_min ..), exec_minMax hr hz rd rs1 rs2 (minMaxVal_max ..),
        exec_minMax hr hz rd rs1 rs2 (minMaxVal_minu ..), exec_minMax hr hz rd rs1 rs2 (minMaxVal_maxu ..)⟩
    case clz =>
      obtain ⟨t, ht, hw⟩ := exec_clzCtzPopc hr hz rd rs1 (op := .clz) rfl
      exact ⟨t, clz _, ht, hw, clz_spec _⟩
    case ctz =>
      obtain ⟨t, ht, hw⟩ := exec_clzCtzPopc hr hz rd rs1 (op := .ctz) rfl
      exact ⟨t, ctz _, ht, hw, ctz_spec _⟩
    case popc => exact exec_clzCtzPopc hr hz rd rs1 (congrArg (BitVec.ofNat 64) (popc_eq_card _))
    case sext => exact exec_sextWZextW hr hz rd rs1 (extW_sext _)
    case zext => exact exec_sextWZextW hr hz rd rs1 (extW_zext _)
    case imm =>
      simp only [List.forall_mem_cons, List.not_mem_nil, false_imp_iff, implies_true, and_true]
      have row {op v} := exec_addiAndiOriXoriSlti hr hz rd rs1 (op := op) (imm := imm) (v := v)
      exact ⟨row (immVal_addi ..), row rfl, row rfl, row rfl, row (immVal_slti ..), row (immVal_sltiu ..)⟩
    case shi =>
      simp only [List.forall_mem_cons, List.not_mem_nil, false_imp_iff, implies_true, and_true]
      exact ⟨exec_shi hr hz rd rs1 fun _ => congrArg (putReg _ rd) (shiftLeft_eq_ofNat ..),
        exec_shi hr hz rd rs1 fun _ => congrArg (putReg _ rd) (ushiftRight_eq_ofNat ..),
        exec_shi hr hz rd rs1 fun _ => congrArg (putReg _ rd) (sshiftRight_eq_ofInt ..)⟩
    case lsi => exact exec_lsi hr hz rd rs1 (lsiVal_eq ..)
    case mul =>
      simp only [List.forall_mem_cons, List.not_mem_nil, false_imp_iff, implies_true, and_true]
      exact ⟨exec_mulMulhMulhu hr hz rd rs1 rs2 (mulVal_mul ..), exec_mulMulhMulhu hr hz rd rs1 rs2 rfl,
        exec_mulMulhMulhu hr hz rd rs1 rs2 rfl⟩
  · refine ⟨?addo, exec_mulo hr hz rd rs1 rs2 rfl, fun hb hq => ?div, fun hb => ?unsigned, fun hb he => ?zero⟩
    case addo =>
      simp only [List.forall_mem_cons, List.not_mem_nil, false_imp_iff, implies_true, and_true]
      exact ⟨exec_addoSubo hr hz rd rs1 rs2 rfl, exec_addoSubo hr hz rd rs1 rs2 rfl⟩
    case div => exact exec_divDivuRemRemu hr hz rd rs1 rs2 (fun h0 => absurd h0 hb) (fun _ _ => hq) (divVal_div hb)
    case unsigned =>
      simp only [List.forall_mem_cons, List.not_mem_nil, false_imp_iff, implies_true, and_true]
      have row {op v} := exec_divDivuRemRemu hr hz rd rs1 rs2 (op := op) (v := v) (fun h0 => absurd h0 hb)
      exact ⟨row nofun (divVal_divu hb), row nofun (divVal_rem hb), row nofun (divVal_remu hb)⟩
    case zero =>
      simp only [List.forall_mem_cons, List.not_mem_nil, false_imp_iff, implies_true, and_true]
      have row {op v} := exec_divDivuRemRemu hr hz rd rs1 rs2 (op := op) (v := v) (fun _ => he)
        (fun _ hne => absurd hb hne)
      exact ⟨row (if_pos hb), row (if_pos hb), row (if_pos hb), row (if_pos hb)⟩

end Sys2Proof.Proofs
end

section
/-! SUPPORT. Branches, jumps and loops (R69, R70, R73): where each goes, and that only its core changes. -/

namespace Sys2Proof.Proofs

open Sys2Proof.Machine Sys2Proof.Laws

section
variable {s : State} {h : Issue} (hr : s.ready h.core.val = true) (hz : h.rsvz = 0) (w : BitVec 32)
  {f : Ctx → Core → CoreRes} {k : Core}
include hr hz

/-- An instruction whose body completes on its core alone. -/
theorem exec_completes (hf : f (s.ctxOf h.core.val) (s.core h.core.val) = ok k)
    (hk : k.mem = (s.core h.core.val).mem) :
    ∃ t, (s.cmd fun s => s.issueCore h w f) = .next t ∧ s.completes t h.core.val k :=
  have hp : k.mem.prog = 0 := hk ▸ ready_prog hr
  ⟨_, cmd_next_same (issueCore_done hr hz w hf hp) rfl, completes_after _ _ _⟩

/-- An instruction whose body transfers control. -/
theorem exec_jumps {pc : Word} (hf : f (s.ctxOf h.core.val) (s.core h.core.val) = .jump k pc)
    (hk : k.mem = (s.core h.core.val).mem) :
    ∃ t, (s.cmd fun s => s.issueCore h w f) = .next t ∧ s.jumps t h.core.val k pc :=
  have hp : k.mem.prog = 0 := hk ▸ ready_prog hr
  ⟨_, cmd_next_same (issueCore_jump hr hz w hf hp) rfl, jumps_setCore _ _ _ _⟩

end

/-! ### Targets -/

/-- Four times a signed offset in words is the offset in bytes. -/
theorem four_mul_signExtend {n : Nat} (woff : BitVec n) :
    4 * woff.signExtend 64 = BitVec.ofInt 64 (4 * woff.toInt) := by
  rw [BitVec.ofInt_mul]
  rfl

theorem add_signExtend (a : Word) (imm : BitVec 16) :
    a + imm.signExtend 64 = BitVec.ofInt 64 (a.toInt + imm.toInt) := by
  rw [BitVec.ofInt_add, BitVec.ofInt_toInt]
  rfl

/-- A multiple of 4 has its two low bits clear. -/
theorem ofInt_and_three {x : Int} (hx : x % 4 = 0) : BitVec.ofInt 64 x &&& 3 = 0 := by
  apply BitVec.eq_of_toNat_eq
  have hand : (BitVec.ofInt 64 x).toNat &&& 3 = (BitVec.ofInt 64 x).toNat % 4 :=
    Nat.and_two_pow_sub_one_eq_mod _ 2
  have hmod : (BitVec.ofInt 64 x).toNat % 4 = 0 := by
    rw [BitVec.toNat_ofInt]
    omega
  rw [BitVec.toNat_and]
  exact hand.trans hmod

theorem not_slt_iff {a b : Word} : (!a.slt b) = true ↔ b.toInt ≤ a.toInt := by
  rw [BitVec.slt_eq_decide, Bool.not_eq_true', decide_eq_false_iff_not, not_lt]

theorem not_ult_iff {a b : Word} : (!a.ult b) = true ↔ b.toNat ≤ a.toNat := by
  rw [BitVec.ult_eq_decide, Bool.not_eq_true', decide_eq_false_iff_not, not_lt]

/-! ### Branches and jumps -/

section
variable {s : State} {h : Issue} (hr : s.ready h.core.val = true) (hz : h.rsvz = 0) (rd rs1 rs2 : Reg)
include hr hz

/-- A branch goes to its target where its condition holds and completes where it does not (R70). -/
theorem exec_branch {cond : BitVec 3} {woff : BitVec 13} {taken : Bool} {P : Prop}
    (hb : branchTaken cond.toNat (xget (s.core h.core.val) rs1) (xget (s.core h.core.val) rs2) = some taken)
    (hP : taken = true ↔ P) :
    ∃ t, exec (.branch h cond rs1 rs2 woff) s = .next t ∧
      (P → s.jumps t h.core.val (s.core h.core.val)
        ((s.core h.core.val).pc + BitVec.ofInt 64 (4 * woff.toInt))) ∧
      (¬ P → s.completes t h.core.val (s.core h.core.val)) := by
  let w := wordOf (.branch h cond rs1 rs2 woff)
  have hbody : bBranch w cond rs1 rs2 woff (s.core h.core.val) =
      if taken then .jump (s.core h.core.val) ((s.core h.core.val).pc + BitVec.ofInt 64 (4 * woff.toInt))
      else ok (s.core h.core.val) := by
    rw [bBranch, hb, ← four_mul_signExtend]
    cases taken <;> rfl
  cases taken with
  | true =>
    obtain ⟨t, ht, hj⟩ := exec_jumps hr hz w (f := fun _ c => bBranch w cond rs1 rs2 woff c) hbody rfl
    exact ⟨t, ht, fun _ => hj, fun hn => absurd (hP.mp rfl) hn⟩
  | false =>
    obtain ⟨t, ht, hc⟩ := exec_completes hr hz w (f := fun _ c => bBranch w cond rs1 rs2 woff c) hbody rfl
    exact ⟨t, ht, fun hp => absurd (hP.mpr hp) Bool.false_ne_true, fun _ => hc⟩

theorem exec_jal (woff : BitVec 21) : ∃ t k', exec (.jal h rd woff) s = .next t ∧
    (s.core h.core.val).wroteReg k' rd ((s.core h.core.val).pc + 4) ∧
    s.jumps t h.core.val k' ((s.core h.core.val).pc + BitVec.ofInt 64 (4 * woff.toInt)) := by
  rw [← four_mul_signExtend]
  obtain ⟨t, ht, hj⟩ := exec_jumps hr hz _ (f := fun _ c => bJal rd woff c) rfl (xset_mem ..)
  exact ⟨t, _, ht, wroteReg_xset .., hj⟩

theorem exec_jalr {imm : BitVec 16} (hal : ((xget (s.core h.core.val) rs1).toInt + imm.toInt) % 4 = 0) :
    ∃ t k', exec (.jalr h rd rs1 imm) s = .next t ∧
      (s.core h.core.val).wroteReg k' rd ((s.core h.core.val).pc + 4) ∧
      s.jumps t h.core.val k' (BitVec.ofInt 64 ((xget (s.core h.core.val) rs1).toInt + imm.toInt)) := by
  have hbody : bJalr rd rs1 imm (s.core h.core.val) =
      .jump (xset (s.core h.core.val) rd ((s.core h.core.val).pc + 4))
        (BitVec.ofInt 64 ((xget (s.core h.core.val) rs1).toInt + imm.toInt)) := by
    rw [bJalr, add_signExtend, ofInt_and_three hal]
    rfl
  obtain ⟨t, ht, hj⟩ := exec_jumps hr hz _ (f := fun _ c => bJalr rd rs1 imm c) hbody (xset_mem ..)
  exact ⟨t, _, ht, wroteReg_xset .., hj⟩

end

/-! ### Loops -/

/-- The count that LOOP takes: the low word of its register. -/
theorem and_low_word (a : Word) : a &&& 0xFFFFFFFF#64 = BitVec.ofNat 64 (a.toNat % 2 ^ 32) := by
  apply BitVec.eq_of_toNat_eq
  rw [BitVec.toNat_and, BitVec.toNat_ofNat, BitVec.toNat_ofNat,
    Nat.mod_eq_of_lt (show a.toNat % 2 ^ 32 < 2 ^ 64 by omega)]
  exact Nat.and_two_pow_sub_one_eq_mod _ 32

/-- The length of a loop body in bytes. -/
theorem body_bytes (lenM1 : BitVec 10) :
    (4 * (lenM1.setWidth 64 + 1) : Word) = BitVec.ofNat 64 (4 * (lenM1.toNat + 1)) := by
  rw [BitVec.ofNat_mul, BitVec.ofNat_add, BitVec.ofNat_toNat]
  rfl

/-- Core `k` with loop level `l` armed with count `n` over the body that follows the PC and ends at `le`. -/
def armed (k : Core) (l : Fin 2) (n le : Word) : Core :=
  { k with lp := if l.val = 0 then { k.lp with lc0 := n, ls0 := k.pc + 4, le0 := le }
      else { k.lp with lc1 := n, ls1 := k.pc + 4, le1 := le } }

/-- LOOP on a level that is not armed arms it, and skips the body when the count is zero (R73). -/
theorem exec_loop {s : State} {h : Issue} (hr : s.ready h.core.val = true) (hz : h.rsvz = 0) (rs1 : Reg)
    (lenM1 : BitVec 10) {l : Fin 2}
    (hl : (if l.val = 0 then (s.core h.core.val).lp.lc0 else (s.core h.core.val).lp.lc1) = 0) :
    let k := s.core h.core.val
    let n : Word := BitVec.ofNat 64 ((xget k rs1).toNat % 2 ^ 32)
    let le : Word := k.pc + BitVec.ofNat 64 (4 * (lenM1.toNat + 1))
    ∃ t, exec (.loop h l rs1 lenM1) s = .next t ∧
      (n ≠ 0 → s.completes t h.core.val (armed k l n le)) ∧
      (n = 0 → s.jumps t h.core.val (armed k l n le) (le + 4)) := by
  intro k n le
  let w := wordOf (.loop h l rs1 lenM1)
  have hbody : bLoop w l rs1 lenM1 k =
      if n = 0 then .jump (armed k l n le) (le + 4) else ok (armed k l n le) := by
    rw [bLoop, and_low_word, body_bytes, if_neg (not_not_intro hl)]
    rfl
  by_cases hn : n = 0
  · obtain ⟨t, ht, hj⟩ := exec_jumps hr hz w (f := fun _ c => bLoop w l rs1 lenM1 c) (hbody.trans (if_pos hn)) rfl
    exact ⟨t, ht, fun hne => absurd hn hne, fun _ => hj⟩
  · obtain ⟨t, ht, hc⟩ := exec_completes hr hz w (f := fun _ c => bLoop w l rs1 lenM1 c) (hbody.trans (if_neg hn)) rfl
    exact ⟨t, ht, fun _ => hc, fun h0 => absurd h0 hn⟩

/-- Settles O11: each condition of Table 4.6 is the model's, and every rule above changes its core alone. -/
theorem branchesAndLoopsTransferControl : Obligations.BranchesAndLoopsTransferControl := by
  refine ⟨fun s h rd rs1 rs2 hr hz => ?_, fun s h rs1 lenM1 hr hz => ?_⟩
  · refine ⟨fun woff => ?_, exec_jal hr hz rd, fun imm hal => exec_jalr hr hz rd rs1 hal⟩
    simp only [List.forall_mem_cons, List.not_mem_nil, false_imp_iff, implies_true, and_true]
    have row {cond P taken} := exec_branch hr hz rs1 rs2 (cond := cond) (woff := woff) (P := P) (taken := taken)
    exact ⟨row rfl decide_eq_true_iff, row rfl decide_eq_true_iff, row rfl BitVec.slt_iff_toInt_lt,
      row rfl not_slt_iff, row rfl BitVec.ult_iff_lt, row rfl not_ult_iff⟩
  · exact ⟨fun hl => exec_loop hr hz rs1 lenM1 (l := 0) hl, fun hl => exec_loop hr hz rs1 lenM1 (l := 1) hl,
      exec_completes hr hz _ (f := fun _ c => bLoopX 0 c) rfl rfl,
      exec_completes hr hz _ (f := fun _ c => bLoopX 1 c) rfl rfl⟩

end Sys2Proof.Proofs
end

section
/-! SUPPORT. Return from a trap (R87): what TRET does to its core, and the writes of STATUS that are refused. -/

namespace Sys2Proof.Proofs

open Sys2Proof.Machine Sys2Proof.Laws

/-! ### Issue -/

theorem onlyCore_setCore (s : State) (c : Nat) (k : Core) : s.onlyCore (s.setCore c k) c k :=
  ⟨core_setCore s c k, fun _ hn => core_setCore_other s c k hn, rfl⟩

section
variable {s s' : State} {h : Issue} (hr : s.ready h.core.val = true) (hz : h.rsvz = 0) (w : BitVec 32)
  {body : State → SysRes}
include hr hz

/-- An instruction whose body sets PC and level itself, on its core alone. -/
theorem issue_left {k : Core} (hb : body s = .left (s.setCore h.core.val k)) :
    (s.cmd fun s => s.issue h w body) = .next (s.setCore h.core.val k) := by
  obtain ⟨-, -, -, hmid, -, -⟩ := ready_iff.mp hr
  refine cmd_next_same ?_ rfl
  rw [issue_ready hr hz, hb, State.complete, hmid]
  rfl

/-- An instruction whose body traps with its core as it was. -/
theorem issue_trap {t : Trap} (hb : body s = .trap s' t) (hs : s.onlyCore s' h.core.val (s.core h.core.val))
    (hc : s.canTrap h.core.val t.code = true) :
    ∃ u, (s.cmd fun s => s.issue h w body) = .next u ∧ s.traps u h.core.val t := by
  obtain ⟨hk, ho, hf⟩ := hs
  have hp : (s'.core h.core.val).mem.prog = 0 := by rw [hk, ready_prog hr]
  have ha : s'.answers.any (fun a => decide (a.who = .core h.core.val)) = false :=
    (congrArg (fun x : State => x.answers.any fun a => decide (a.who = .core h.core.val)) hf).trans (ready_noAnswer hr)
  have ht := trap_traps hk ho hf hc
  have hnext : s.issue h w body = .next (s'.trap h.core.val t) := by
    rw [issue_ready hr hz, hb, State.complete, endInsn_of hp ha]
  refine ⟨_, cmd_next_same hnext ?_, ht⟩
  obtain ⟨_, _, _, _, hrest⟩ := ht
  have hpending := congrArg State.pending hrest
  exact hpending

end

/-! ### The status that TRET leaves -/

theorem getLsbD_setBit (w : Word) {i : Nat} (hi : i < 64) (b : Bool) (j : Nat) :
    (setBit w i b).getLsbD j = if j = i then b else w.getLsbD j := by
  have hone : (ones i 1 : Word).getLsbD j = decide (j = i) := by
    rw [ones, BitVec.getLsbD_ofNat, Nat.pow_one, Nat.one_mul, Nat.testBit_two_pow]
    by_cases hj : j = i
    · subst hj; simp [hi]
    · simp [hj, Ne.symm hj]
  have hbit : place (b2n b) i 1 = if b then ones i 1 else 0 := by
    cases b
    · exact congrArg (BitVec.ofNat 64) (Nat.zero_mul _)
    · rfl
  rw [setBit, hbit, BitVec.getLsbD_or, BitVec.getLsbD_and, BitVec.getLsbD_not, hone]
  by_cases hj : j = i
  · subst hj
    cases b <;> simp [hone]
  · have hlt : w.getLsbD j = true → j < 64 := BitVec.lt_of_getLsbD
    cases b <;> simpa [hone, hj] using hlt

/-- STATUS with IE from PIE and IH clear. -/
def tretStatus (r : TrapRegs) : Word := setBit (setBit r.status 0 (stPIE r)) 2 false

theorem getLsbD_tretStatus (r : TrapRegs) (j : Nat) :
    (tretStatus r).getLsbD j = if j = 2 then false else if j = 0 then stPIE r else r.status.getLsbD j := by
  rw [tretStatus, getLsbD_setBit _ (by omega), getLsbD_setBit _ (by omega)]

theorem tretStatus_and_not_five (r : TrapRegs) : tretStatus r &&& ~~~5 = r.status &&& ~~~5 := by
  refine BitVec.eq_of_getLsbD_eq fun j hj => ?_
  rw [BitVec.getLsbD_and, BitVec.getLsbD_and, getLsbD_tretStatus]
  by_cases h2 : j = 2
  · subst h2; simp
  · by_cases h0 : j = 0
    · subst h0; simp
    · rw [if_neg h2, if_neg h0]

/-! ### The core that TRET leaves -/

/-- Core `k` with x2 and L.SP exchanged where L.STATUS.XSP says so. -/
def spReturned (k : Core) (l : Level) : Core := if stXSP (tregs k l) then swapSp k l else k

theorem bget_spReturned (k : Core) (l b : Level) (n : Nat) : bget (spReturned k l) b n =
    if stXSP (tregs k l) = true ∧ b = k.bank ∧ n = 2 then (tregs k l).sp else bget k b n := by
  unfold spReturned
  cases stXSP (tregs k l) with
  | false => simp
  | true => simp [bget_swapSp]

/-- The trap registers of level `l` once TRET has used them. -/
def tretRegs (k : Core) (l : Level) : TrapRegs :=
  { tregs k l with
    sp := if stXSP (tregs k l) then bget k k.bank 2 else (tregs k l).sp
    status := tretStatus (tregs k l) }

/-- A half of L.LOOP as a loop count. -/
theorem loopHalf_low (x : Word) : place (field x 0 32) 0 32 = BitVec.ofNat 64 (x.toNat % 2 ^ 32) := by
  rw [place, field, Nat.pow_zero, Nat.div_one, Nat.mod_mod, Nat.mul_one]

theorem loopHalf_high (x : Word) : place (field x 32 32) 0 32 = BitVec.ofNat 64 (x.toNat / 2 ^ 32) := by
  have hlt : x.toNat / 2 ^ 32 < 2 ^ 32 := by omega
  rw [place, field, Nat.mod_eq_of_lt hlt, Nat.mod_eq_of_lt hlt, Nat.pow_zero, Nat.mul_one]

/-- Core `k` once TRET at level `l` has run. -/
def returnedCore (k : Core) (l : Level) : Core :=
  let r := tregs k l
  let lp := { k.lp with lc0 := BitVec.ofNat 64 (r.loop.toNat % 2 ^ 32), lc1 := BitVec.ofNat 64 (r.loop.toNat / 2 ^ 32) }
  { setTregs k l (tretRegs k l) with
    xu := (spReturned k l).xu, xs := (spReturned k l).xs, xf := (spReturned k l).xf
    vec := { k.vec with vstart := r.vstart &&& 0x3FF }, tile := { k.tile with tprog := r.tprog &&& 0xFC3F }, lp := lp
    bank := if saveset k then .u else stPBANK r, level := stPLVL r, pc := r.epc }

theorem doTret_eq (k : Core) : doTret k = returnedCore k k.level := by
  obtain ⟨pc, l, bank, _, _, _, _, _, _, _, _, _, _, _, _, _, _, _, _, _, _, _⟩ := k
  simp only [returnedCore, ← loopHalf_low, ← loopHalf_high, doTret, spReturned, tretRegs]
  split
  · cases l <;> cases bank <;> rfl
  · cases l <;> rfl

theorem tregs_returnedCore (k : Core) (l : Level) : tregs (returnedCore k l) l = tretRegs k l := tregs_setTregs k l _

theorem bget_returnedCore (k : Core) (l b : Level) (n : Nat) : bget (returnedCore k l) b n =
    if stXSP (tregs k l) = true ∧ b = k.bank ∧ n = 2 then (tregs k l).sp else bget k b n := by
  rw [← bget_spReturned]
  cases b <;> rfl

/-- TRET leaves the trap registers of the other level. -/
theorem returnedCore_otherTregs (k : Core) (l : Level) :
    match l with | .f => (returnedCore k l).ts = k.ts | _ => (returnedCore k l).tf = k.tf := by
  cases l <;> rfl

theorem returnedCore_frame (k : Core) (l : Level) :
    { returnedCore k l with level := k.level, pc := k.pc, bank := k.bank, ts := k.ts, tf := k.tf, vec := k.vec,
                            tile := k.tile, lp := k.lp, xu := k.xu, xs := k.xs, xf := k.xf } = k := by
  cases l <;> rfl

/-! ### Writes of STATUS that are refused -/

/-- A write of a control register that the level may write and that waits for nothing, whose value is refused (R74). -/
theorem bCrWrite_error {x : Ctx} {w : BitVec 32} {op : CrOp} {rd rs1 : Reg} {n : Nat} {k : Core} {t : Trap}
    (hput : op = .put → rd = 0)
    (hcheck : crCheck w k n (decide (op ≠ .put)) true (decide (op = .bset ∨ op = .bclr)) = none)
    (hheld : crHeld n k = false) (hw : crWrite x w k n (crNew op (crRead x k n) (xget k rs1)) = .error t) :
    bCrWrite x w op rd n rs1 k = .trap k t := by
  rw [bCrWrite, if_neg fun ⟨hop, hrd⟩ => hrd (hput hop), hcheck]
  simp only [hheld, hw, Bool.false_eq_true, if_false]

/-- A control-register write whose body traps. -/
theorem crOp_trap {s : State} {h : Issue} (hr : s.ready h.core.val = true) (hz : h.rsvz = 0) (w : BitVec 32)
    {op : CrOp} {rd rs1 : Reg} {n : Nat} {t : Trap}
    (hb : bCrWrite (s.ctxOf h.core.val) w op rd n rs1 (s.core h.core.val) = .trap (s.core h.core.val) t)
    (hc : s.canTrap h.core.val t.code = true) :
    ∃ u, (s.cmd fun s => s.crOp h w op rd n rs1) = .next u ∧ s.traps u h.core.val t := by
  refine issue_trap hr hz w (s' := s.setCore h.core.val (s.core h.core.val)) ?_ (onlyCore_setCore ..) hc
  simp only [State.onCore, hb]

/-- S.STATUS takes no value with 2 or 3 in PLVL or PBANK. -/
theorem crWrite_sStatus (x : Ctx) (w : BitVec 32) (k : Core) {v : Word} (hv : 2 ≤ field v 7 2 ∨ 2 ≤ field v 9 2) :
    crWrite x w k 0x111 v = .error (tIllegal w) := by
  simp [crWrite, hv]

/-- F.STATUS takes no value with 3 in PLVL or PBANK. -/
theorem crWrite_fStatus (x : Ctx) (w : BitVec 32) (k : Core) {v : Word} (hv : field v 7 2 = 3 ∨ field v 9 2 = 3) :
    crWrite x w k 0x121 v = .error (tIllegal w) := by
  simp [crWrite, hv]

/-- S and F may use S.STATUS. -/
theorem crCheck_sStatus (w : BitVec 32) {k : Core} (hl : k.level ≠ .u) (rd bits : Bool) :
    crCheck w k 0x111 rd true bits = none := by
  have hinfo : crInfo 0x111 = some ⟨some .s, some .s, false⟩ := rfl
  have huse : mayUse k.level (some .s) = true := by
    cases hk : k.level with
    | u => exact absurd hk hl
    | s => rfl
    | f => rfl
  simp [crCheck, hinfo, huse]

/-- F may use F.STATUS. -/
theorem crCheck_fStatus (w : BitVec 32) {k : Core} (hl : k.level = .f) (rd bits : Bool) :
    crCheck w k 0x121 rd true bits = none := by
  have hinfo : crInfo 0x121 = some ⟨some .f, some .f, false⟩ := rfl
  have huse : mayUse k.level (some .f) = true := by rw [hl]; rfl
  simp [crCheck, hinfo, huse]

/-- Each operation of Table 4.9 on register `n` raises ILLEGAL_INSN for the values that `n` refuses. -/
theorem exec_crWrites_illegal {s : State} {h : Issue} (hr : s.ready h.core.val = true) (hz : h.rsvz = 0)
    (hc : s.canTrap h.core.val 0x01 = true) (n : BitVec 12) (rd rs1 : Reg) {Refused : Word → Prop}
    (hcheck : ∀ w reads bits, crCheck w (s.core h.core.val) n.toNat reads true bits = none)
    (hheld : crHeld n.toNat (s.core h.core.val) = false)
    (hrefused : ∀ w v, Refused v →
      crWrite (s.ctxOf h.core.val) w (s.core h.core.val) n.toNat v = .error (tIllegal w)) :
    let a := xget (s.core h.core.val) rs1
    let o := crRead (s.ctxOf h.core.val) (s.core h.core.val) n.toNat
    ∀ p ∈ [(Instr.crput h n rs1, a), (.crswap h rd n rs1, a), (.crbset h rd n rs1, o ||| a),
        (.crbclr h rd n rs1, o &&& ~~~a)], Refused p.2 →
      ∃ t, exec p.1 s = .next t ∧ s.traps t h.core.val ⟨0x01, (wordOf p.1).setWidth 64, 0⟩ := by
  intro a o
  have row {op : CrOp} {rd : Reg} (w : BitVec 32) (hput : op = .put → rd = 0) (hv : Refused (crNew op o a)) :=
    crOp_trap hr hz w (bCrWrite_error hput (hcheck w _ _) hheld (hrefused w _ hv)) hc
  simp only [List.forall_mem_cons, List.not_mem_nil, false_imp_iff, implies_true, and_true]
  exact ⟨row (op := .put) _ fun _ => rfl, row (op := .swap) _ nofun, row (op := .bset) _ nofun,
    row (op := .bclr) _ nofun⟩

/-- Settles O17: the core that TRET leaves is read part by part; at U its body traps; each STATUS refuses the values that
name no level or bank. -/
theorem tretReturnsFromTrap : Obligations.TretReturnsFromTrap := by
  intro s h hr hz c k l r
  refine ⟨fun hl => ?tret, fun hu hc => ?priv, fun hc rd rs1 => ⟨fun hl => ?sStatus, fun hl => ?fStatus⟩⟩
  case tret =>
    have hexec : exec (.tret h) s = .next (s.setCore c (doTret k)) := issue_left hr hz _ (if_neg hl)
    rw [doTret_eq] at hexec
    refine ⟨_, returnedCore k l, hexec, onlyCore_setCore .., ?_⟩
    rw [tregs_returnedCore]
    exact ⟨rfl, rfl, rfl, getLsbD_tretStatus r 0, getLsbD_tretStatus r 2, tretStatus_and_not_five r, rfl,
      bget_returnedCore k l, rfl, rfl, rfl, rfl, returnedCore_otherTregs k l, returnedCore_frame k l⟩
  case priv => exact issue_trap hr hz _ (if_pos hu) (t := tPriv _) ⟨rfl, fun _ _ => rfl, rfl⟩ hc
  case sStatus =>
    exact exec_crWrites_illegal hr hz hc 0x111 rd rs1 (fun w => crCheck_sStatus w hl) rfl
      fun w _ hv => crWrite_sStatus _ w k hv
  case fStatus =>
    exact exec_crWrites_illegal hr hz hc 0x121 rd rs1 (fun w => crCheck_fStatus w hl) rfl
      fun w _ hv => crWrite_fStatus _ w k hv

end Sys2Proof.Proofs
end

section
/-! SUPPORT. The values of the integer vector instructions (R115): each code that the model computes is the integer of the table
modulo 2^w. -/

namespace Sys2Proof.Proofs

open Sys2Proof.Machine Sys2Proof.Laws

/-! ### Codes -/

theorem field_lt {N : Nat} (x : BitVec N) (lo w : Nat) : field x lo w < 2 ^ w := Nat.mod_lt _ (Nat.two_pow_pos w)

theorem vElem_lt (v : Tbl (BitVec 128)) (base w i : Nat) : vElem v base w i < 2 ^ w := field_lt ..

theorem vSrc_lt (k : Core) (src : VSrc) (w i : Nat) : vSrc k src w i < 2 ^ w := by
  cases src with
  | vec v => exact vElem_lt ..
  | sca r => exact Nat.mod_lt _ (Nat.two_pow_pos w)

theorem natCast_emod_toNat (w n : Nat) : ((n : Int) % 2 ^ w).toNat = n % 2 ^ w := by
  have : ((n : Int) % 2 ^ w) = (n % 2 ^ w : Nat) := by push_cast; rfl
  rw [this, Int.toNat_natCast]

theorem unsgn_mod (w : Nat) (x : Int) : unsgn w x % 2 ^ w = (x % 2 ^ w).toNat := by
  have hpos : (0 : Int) < 2 ^ w := by positivity
  have hlt := Int.emod_lt_of_pos x hpos
  have hcast : ((2 ^ w : Nat) : Int) = 2 ^ w := by push_cast; rfl
  rw [unsgn, hcast]
  exact Nat.mod_eq_of_lt (by zify; rw [Int.toNat_of_nonneg (Int.emod_nonneg x hpos.ne')]; exact hlt)

theorem sgn_emod (w n : Nat) : (sgn w n % 2 ^ w).toNat = n % 2 ^ w := by
  have hcast := natCast_emod_toNat w n
  unfold sgn
  split
  · simpa using hcast
  · simpa using hcast

/-! ### VADD to VMAXU -/

theorem valuVal_add (w a b : Nat) : valuVal .add w a b % 2 ^ w = (((a : Int) + b) % 2 ^ w).toNat := by
  rw [← Nat.cast_add, natCast_emod_toNat]; rfl

theorem valuVal_sub {w b : Nat} (a : Nat) (hb : b < 2 ^ w) : valuVal .sub w a b % 2 ^ w = (((a : Int) - b) % 2 ^ w).toNat := by
  have hcast : ((a + 2 ^ w - b : Nat) : Int) = a - b + 2 ^ w := by
    rw [Nat.cast_sub (by omega)]; push_cast; ring
  rw [← Int.add_emod_right, ← hcast, natCast_emod_toNat]; rfl

theorem valuVal_sll (w a b : Nat) : valuVal .sll w a b % 2 ^ w = (((a : Int) * 2 ^ (b % w)) % 2 ^ w).toNat := by
  have hcast : (a : Int) * 2 ^ (b % w) = (a * 2 ^ (b % w) : Nat) := by push_cast; rfl
  rw [hcast, natCast_emod_toNat]; rfl

theorem valuVal_srl (w a b : Nat) : valuVal .srl w a b % 2 ^ w = (((a : Int) / 2 ^ (b % w)) % 2 ^ w).toNat := by
  have hcast : (a : Int) / 2 ^ (b % w) = (a / 2 ^ (b % w) : Nat) := by push_cast; rfl
  rw [hcast, natCast_emod_toNat]; rfl

theorem valuVal_min (w a b : Nat) : valuVal .min w a b % 2 ^ w = (min (sgn w a) (sgn w b) % 2 ^ w).toNat := by
  rw [min_def_lt, apply_ite (fun x : Int => (x % 2 ^ w).toNat), sgn_emod, sgn_emod, valuVal]
  exact apply_ite (· % 2 ^ w) ..

theorem valuVal_max (w a b : Nat) : valuVal .max w a b % 2 ^ w = (max (sgn w a) (sgn w b) % 2 ^ w).toNat := by
  rw [max_def_lt, apply_ite (fun x : Int => (x % 2 ^ w).toNat), sgn_emod, sgn_emod, valuVal]
  exact apply_ite (· % 2 ^ w) ..

theorem valuVal_minu (w a b : Nat) : valuVal .minu w a b % 2 ^ w = (min (a : Int) b % 2 ^ w).toNat := by
  rw [← Nat.cast_min, natCast_emod_toNat]; rfl

theorem valuVal_maxu (w a b : Nat) : valuVal .maxu w a b % 2 ^ w = (max (a : Int) b % 2 ^ w).toNat := by
  rw [← Nat.cast_max, natCast_emod_toNat]; rfl

/-! ### VMUL, VMULHU -/

theorem vmulVal_mul (w a b : Nat) : vmulVal .mul w a b % 2 ^ w = (((a : Int) * b) % 2 ^ w).toNat := by
  rw [← Nat.cast_mul, natCast_emod_toNat]; rfl

theorem vmulVal_mulhu (w a b : Nat) : vmulVal .mulhu w a b % 2 ^ w = (((a : Int) * b / 2 ^ w) % 2 ^ w).toNat := by
  have hcast : (a : Int) * b / 2 ^ w = (a * b / 2 ^ w : Nat) := by push_cast; rfl
  rw [hcast, natCast_emod_toNat]; rfl

end Sys2Proof.Proofs
end

section
/-! SUPPORT. The integer vector instructions (R115, R111, R112): their half of VectorIntegerAndFixedPointResults,
which holds as it stands. -/

namespace Sys2Proof.Proofs

open Sys2Proof.Machine Sys2Proof.Laws

/-- Command `i` gives every active element `j` of the group at `vd` the code of `f j` modulo 2^w, sets VSTART to 0, and changes
nothing else (R115). -/
def WritesModulo (s : State) (c : Nat) (i : Instr) (vd : BitVec 6) (m : VMask) (f : Nat → Int) : Prop :=
  let k := s.core c
  let w := tyWidth (vType (s.ctxOf c) k)
  ∃ t k', exec i s = .next t ∧ s.completes t c k' ∧
    (k.atElem 0).wroteElems k' vd.toNat w (vCap (s.ctxOf c) k) (k.active m) (fun j => (f j % 2 ^ w).toNat)

section
variable {s : State} {h : Issue} (hr : s.ready h.core.val = true) (hz : h.rsvz = 0) {vd vs1 : BitVec 6} {src : VSrc}
  {m : VMask} (ht : tyInt (vType (s.ctxOf h.core.val) (s.core h.core.val)) = true) (h0 : vStart (s.core h.core.val) = 0)
  (hn : vCnt (s.core h.core.val) ≤ vCap (s.ctxOf h.core.val) (s.core h.core.val))
  (ha : (s.core h.core.val).aligned (vd :: vs1 :: srcRegs src))
include hr hz ht h0 hn ha

/-- An instruction that is an integer operation whose code for each element is that of `g`. -/
theorem writesModulo_of_vInt {i : Instr} {wd : BitVec 32} {f : Nat → Nat → Nat → Nat} {g : Nat → Int}
    (hi : exec i s = s.cmd fun s => s.issueCore h wd fun x k => vInt x wd f vd vs1 src m k)
    (hg : let k := s.core h.core.val
      let w := tyWidth (vType (s.ctxOf h.core.val) k)
      ∀ j, f w (vElem k.vec.v vs1.toNat w j) (vSrc k src w j) % 2 ^ w = (g j % 2 ^ w).toNat) :
    WritesModulo s h.core.val i vd m g := by
  obtain ⟨k', hk', hmem, hwrote⟩ := vInt_ok (wd := wd) (f := f) (m := m) ht h0 hn ha
  obtain ⟨t, hnext, hdone⟩ := exec_completes hr hz wd (f := fun x k => vInt x wd f vd vs1 src m k) hk' hmem
  exact ⟨t, k', hi.trans hnext, hdone, wroteElems_congr hwrote (fun _ _ => rfl) fun j _ _ => hg j⟩

/-- R115: each instruction with the integer whose code it writes. -/
theorem integerVectorInstructionsWriteModulo :
    let k := s.core h.core.val
    let w := tyWidth (vType (s.ctxOf h.core.val) k)
    let a := fun j => vElem k.vec.v vs1.toNat w j
    let b := fun j => vSrc k src w j
    let x := fun j => sgn w (a j)
    let y := fun j => sgn w (b j)
    let n := fun j => b j % w
    (∀ p ∈ ([(.add, fun j => a j + b j), (.sub, fun j => a j - b j), (.and, fun j => (a j &&& b j : Nat)),
        (.or, fun j => (a j ||| b j : Nat)), (.xor, fun j => (a j ^^^ b j : Nat)), (.sll, fun j => a j * 2 ^ n j),
        (.srl, fun j => a j / 2 ^ n j), (.sra, fun j => x j / 2 ^ n j), (.min, fun j => min (x j) (y j)),
        (.max, fun j => max (x j) (y j)), (.minu, fun j => min (a j) (b j)), (.maxu, fun j => max (a j) (b j))] :
        List (VAluOp × (Nat → Int))), WritesModulo s h.core.val (.vaddVsubLogicShift h p.1 vd vs1 src m) vd m p.2) ∧
    (∀ p ∈ ([(.mul, fun j => a j * b j), (.mulh, fun j => x j * y j / 2 ^ w), (.mulhu, fun j => a j * b j / 2 ^ w)] :
        List (MulOp × (Nat → Int))), WritesModulo s h.core.val (.vmulVmulhVmulhu h p.1 vd vs1 src m) vd m p.2) := by
  intro k w a b x y n
  have alu {op : VAluOp} {g : Nat → Int} (hg : ∀ j, valuVal op w (a j) (b j) % 2 ^ w = (g j % 2 ^ w).toNat) :
      WritesModulo s h.core.val (.vaddVsubLogicShift h op vd vs1 src m) vd m g :=
    writesModulo_of_vInt hr hz ht h0 hn ha rfl hg
  have mul {op : MulOp} {g : Nat → Int} (hg : ∀ j, vmulVal op w (a j) (b j) % 2 ^ w = (g j % 2 ^ w).toNat) :
      WritesModulo s h.core.val (.vmulVmulhVmulhu h op vd vs1 src m) vd m g :=
    writesModulo_of_vInt hr hz ht h0 hn ha rfl hg
  have code (n : Nat) : n % 2 ^ w = ((n : Int) % 2 ^ w).toNat := (natCast_emod_toNat w n).symm
  simp only [List.forall_mem_cons, List.not_mem_nil, false_imp_iff, implies_true, and_true]
  exact ⟨⟨alu fun j => valuVal_add .., alu fun j => valuVal_sub _ (vSrc_lt ..), alu fun j => code _, alu fun j => code _,
      alu fun j => code _, alu fun j => valuVal_sll .., alu fun j => valuVal_srl .., alu fun j => unsgn_mod ..,
      alu fun j => valuVal_min .., alu fun j => valuVal_max .., alu fun j => valuVal_minu .., alu fun j => valuVal_maxu ..⟩,
    mul fun j => vmulVal_mul .., mul fun j => unsgn_mod .., mul fun j => vmulVal_mulhu ..⟩

end

end Sys2Proof.Proofs
end

section
/-! SUPPORT. The fixed-point operation (R116, R117, R112, R113, R107): what it leaves, and where it traps. -/

namespace Sys2Proof.Proofs

open Sys2Proof.Machine Sys2Proof.Laws

/-! ### Saturation -/

/-- The least value of the signed or unsigned range of `w` bits. -/
def rangeMin (uns : Bool) (w : Nat) : Int := if uns then 0 else -(2 ^ (w - 1))

/-- The greatest value of the signed or unsigned range of `w` bits. -/
def rangeMax (uns : Bool) (w : Nat) : Int := if uns then 2 ^ w - 1 else 2 ^ (w - 1) - 1

theorem rangeMin_le_rangeMax (uns : Bool) (w : Nat) : rangeMin uns w ≤ rangeMax uns w := by
  have h1 : (0 : Int) < 2 ^ w := by positivity
  have h2 : (0 : Int) < 2 ^ (w - 1) := by positivity
  cases uns <;> simp only [rangeMin, rangeMax, Bool.false_eq_true, if_true, if_false] <;> omega

theorem saturate_eq (uns : Bool) (w : Nat) (x : Int) :
    saturate uns w x = (max (rangeMin uns w) (min (rangeMax uns w) x), decide (x < rangeMin uns w ∨ rangeMax uns w < x)) := by
  have hle := rangeMin_le_rangeMax uns w
  change (if x < rangeMin uns w then (rangeMin uns w, true)
    else if rangeMax uns w < x then (rangeMax uns w, true) else (x, false)) = _
  split
  · next hlo => simp [hlo]; omega
  · next hlo =>
    split
    · next hhi => simp [hhi]; omega
    · next hhi => simp [hlo, hhi]; omega

/-! ### Active elements -/

theorem lt_vCnt_of_active {k : Core} {m : VMask} {j : Nat} (h : k.active m j = true) : j < vCnt k := by
  simp only [Core.active, Bool.and_eq_true, decide_eq_true_eq] at h
  exact h.1.1

theorem vActive_eq_filter (k : Core) (m : VMask) : vActive k m = (List.range (vCnt k)).filter (k.active m) := by
  refine List.filter_congr fun i hi => ?_
  simp [Core.active, bitAt, List.mem_range.mp hi]

/-- The lowest active element with a property is the one that a search of the active elements finds. -/
theorem find?_vActive {k : Core} {m : VMask} {p : Nat → Bool} {j : Nat} (hj : k.active m j = true) (hp : p j = true)
    (hlow : ∀ i, i < j → k.active m i = true → p i = false) : (vActive k m).find? p = some j := by
  rw [vActive_eq_filter, List.find?_filter, List.find?_range_eq_some]
  refine ⟨?_, List.mem_range.mpr (lt_vCnt_of_active hj), fun i hi => ?_⟩
  · simp [hj, hp]
  · cases hact : k.active m i with
    | false => simp
    | true => simp [hlow i hi hact]

/-! ### The group of the destination -/

theorem tyWidth_of_tyInt {x : Ctx} {k : Core} (ht : tyInt (vType x k) = true) : tyWidth (vType x k) ∈ [8, 16, 32, 64] := by
  have key : ∀ t : VTy, t ∈ [VTy.int 8, .int 16, .int 32, .int 64] ∨ (∃ f, t = .fp f) →
      tyInt (effTy x.rung t) = true → tyWidth (effTy x.rung t) ∈ [8, 16, 32, 64] := by
    rintro t (hmem | ⟨f, rfl⟩) hint
    · simp only [List.mem_cons, List.not_mem_nil, or_false] at hmem
      rcases hmem with rfl | rfl | rfl | rfl <;> simp [effTy, tyWidth]
    · exact absurd hint Bool.false_ne_true
  refine key _ ?_ ht
  unfold tyOfCode
  split <;> simp

/-- The width of the elements that a fixed-point operation writes (R116). -/
def destWidth (narrow : Bool) (w : Nat) : Nat := if narrow then w / 2 else w

/-- The size of the group that it writes (R107). -/
def destGroup (narrow : Bool) (g : Nat) : Nat := if narrow then max 1 (g / 2) else g

theorem map_srcRegs (src : VSrc) (g : Nat) : (srcRegs src).map (fun v => (v.toNat, g)) = srcGroup src g := by
  cases src <;> rfl

theorem vDerived_destWidth {narrow : Bool} {g w : Nat} (hg : 0 < g) (hg16 : g ≤ 16) (hw : w ∈ [8, 16, 32, 64]) :
    vDerived g (destWidth narrow w) w = some (destGroup narrow g) := by
  simp only [List.mem_cons, List.not_mem_nil, or_false] at hw
  cases narrow with
  | false =>
    have hfit : ¬ 16 * w < g * w := not_lt.mpr (Nat.mul_le_mul_right w hg16)
    have hw0 : 0 < w := by omega
    simp only [vDerived, destWidth, destGroup, Bool.false_eq_true, if_false, if_neg hfit, Nat.mul_div_cancel g hw0]
    rw [max_eq_right hg]
  | true =>
    have hhalf : 2 * (w / 2) = w := by omega
    have hfit : ¬ 16 * w < g * (w / 2) := by
      have := Nat.mul_le_mul_right (w / 2) hg16
      omega
    have hdiv : g * (w / 2) / w = g / 2 :=
      calc g * (w / 2) / w = g * (w / 2) / (2 * (w / 2)) := by rw [hhalf]
        _ = g / 2 := Nat.mul_div_mul_right _ _ (by omega)
    simp only [vDerived, destWidth, destGroup, if_true, if_neg hfit, hdiv]

theorem destWidth_dvd (narrow : Bool) (x : Ctx) (k : Core) (ht : tyInt (vType x k) = true) :
    destWidth narrow (tyWidth (vType x k)) ∣ 128 := by
  have hw := tyWidth_of_tyInt ht
  simp only [List.mem_cons, List.not_mem_nil, or_false] at hw
  rcases hw with hw | hw | hw | hw <;> rw [hw] <;> cases narrow <;> decide

/-! ### The operation -/

/-- The checks of a fixed-point operation (R112, R116, R107), passed. -/
structure FixedChecks (x : Ctx) (k : Core) (narrow : Bool) (vd vs1 : BitVec 6) (src : VSrc) : Prop where
  glog : vG k ≤ 16
  type : tyInt (vType x k) = true
  vstart : vStart k = 0 ∨ enabled k 2 = true
  narrowed : narrow = true → tyWidth (vType x k) ≠ 8
  groups : groupsOk ([(vd.toNat, destGroup narrow (vG k)), (vs1.toNat, vG k)] ++ srcGroup src (vG k)) = true

/-- The exact value of element `j`, before saturation. -/
def exactValue (x : Ctx) (k : Core) (f : Nat → Nat → Nat → Nat → Int) (vs1 : BitVec 6) (src : VSrc) (j : Nat) : Int :=
  let w := tyWidth (vType x k)
  f (field k.vec.vxrm 0 2) w (vElem k.vec.v vs1.toNat w j) (vSrc k src w j)

/-- `k` with the elements of `l` written, `F` their exact values. -/
def fixedWritten (k : Core) (vd : BitVec 6) (dw : Nat) (uns : Bool) (F : Nat → Int) (l : List Nat) : Core :=
  vWrite k vd.toNat dw (l.map fun j => (j, unsgn dw (saturate uns dw (F j)).1))

section
variable {x : Ctx} {k : Core} {wd : BitVec 32} {narrow uns : Bool} {f : Nat → Nat → Nat → Nat → Int} {vd vs1 : BitVec 6}
  {src : VSrc} {m : VMask} (hc : FixedChecks x k narrow vd vs1 src)
include hc

/-- A fixed-point operation that passes its checks ends as its search for the first element that QOV traps on says. -/
theorem vFixed_of_checks :
    let dw := destWidth narrow (tyWidth (vType x k))
    let F := exactValue x k f vs1 src
    let sat := fun j => (saturate uns dw (F j)).2
    vFixed x wd narrow uns f vd vs1 src m k =
      match (if enabled k 2 then (vActive k m).find? sat else none) with
      | some j =>
        .trap (fixedWritten (k.atElem j) vd dw uns F ((vActive k m).filter fun i => decide (i < j))) ⟨cINT_OVERFLOW, 0, 1⟩
      | none => ok (vDone (setFlags (fixedWritten k vd dw uns F (vActive k m)) (flagIf ((vActive k m).any sat) fQSAT))) := by
  intro dw F sat
  have hderived := vDerived_destWidth (narrow := narrow) (Nat.two_pow_pos (field k.vec.vshape 0 3)) hc.glog
    (tyWidth_of_tyInt hc.type)
  have hpass : ¬ ((vStart k ≠ 0 ∧ (!enabled k 2) = true) ∨ (!tyInt (vType x k)) = true ∨
      (narrow = true ∧ tyWidth (vType x k) = 8) ∨
      (!groupsOk ([(vd.toNat, destGroup narrow (vG k)), (vs1.toNat, vG k)] ++ srcGroup src (vG k))) = true) := by
    rintro (⟨hmid, hoff⟩ | hint | ⟨hnarrow, h8⟩ | hgroups)
    · rcases hc.vstart with h0 | hon
      · exact hmid h0
      · simp [hon] at hoff
    · simp [hc.type] at hint
    · exact hc.narrowed hnarrow h8
    · rw [hc.groups] at hgroups
      exact absurd hgroups Bool.false_ne_true
  unfold vFixed
  dsimp only
  rw [show vDerived (vG k) (if narrow = true then tyWidth (vType x k) / 2 else tyWidth (vType x k)) _ = _ from hderived]
  refine (if_neg hpass).trans ?_
  rw [List.find?_map, show (fun e : Nat × Int × Bool => e.2.2) ∘ _ = sat from rfl]
  cases enabled k 2 with
  | false =>
    simp only [List.map_map, List.any_map, Bool.false_eq_true, if_false]
    rfl
  | true =>
    cases (vActive k m).find? sat with
    | none =>
      simp only [List.map_map, List.any_map, if_true, Option.map_none]
      rfl
    | some j =>
      simp only [List.filter_map, List.map_map, if_true, Option.map_some]
      rfl

/-- Where QOV is clear, or no active element saturates, it writes them all, sets QSAT if one saturated, and completes. -/
theorem vFixed_completes {q : Bool} (hqov : enabled k 2 = true → q = false)
    (hq : q = true ↔ ∃ j, k.active m j = true ∧
      (saturate uns (destWidth narrow (tyWidth (vType x k))) (exactValue x k f vs1 src j)).2 = true) :
    vFixed x wd narrow uns f vd vs1 src m k =
      ok (fixedWritten ((k.flag q false false).atElem 0) vd (destWidth narrow (tyWidth (vType x k))) uns
        (exactValue x k f vs1 src) (vActive k m)) := by
  have hany : (vActive k m).any (fun j => (saturate uns (destWidth narrow (tyWidth (vType x k)))
      (exactValue x k f vs1 src j)).2) = q := by
    rw [← Bool.coe_iff_coe, List.any_eq_true, hq]
    simp only [mem_vActive]
  have hnone : (if enabled k 2 then (vActive k m).find? (fun j => (saturate uns (destWidth narrow (tyWidth (vType x k)))
      (exactValue x k f vs1 src j)).2) else none) = none := by
    split
    · next hen => rw [List.find?_eq_none, ← List.any_eq_false, hany, hqov hen]
    · rfl
  rw [vFixed_of_checks hc]
  simp only [hnone, hany]
  cases q <;> rfl

/-- Where QOV is set, the first active element that saturates traps, those below it done. -/
theorem vFixed_traps {j : Nat} (hqov : enabled k 2 = true) (hj : k.active m j = true)
    (hsat : (saturate uns (destWidth narrow (tyWidth (vType x k))) (exactValue x k f vs1 src j)).2 = true)
    (hlow : ∀ i, i < j → k.active m i = true →
      (saturate uns (destWidth narrow (tyWidth (vType x k))) (exactValue x k f vs1 src i)).2 = false) :
    vFixed x wd narrow uns f vd vs1 src m k =
      .trap (fixedWritten (k.atElem j) vd (destWidth narrow (tyWidth (vType x k))) uns (exactValue x k f vs1 src)
        ((vActive k m).filter fun i => decide (i < j))) ⟨cINT_OVERFLOW, 0, 1⟩ := by
  rw [vFixed_of_checks hc]
  simp only [hqov, if_true, find?_vActive hj hsat hlow]

end

/-! Writing elements, and VSTART, changes no other part of the core. -/

section
variable (k : Core) (i : Nat) (vd : BitVec 6) (dw : Nat) (uns : Bool) (F : Nat → Int) (l : List Nat)

@[simp] theorem fixedWritten_mem : (fixedWritten k vd dw uns F l).mem = k.mem := rfl
@[simp] theorem fixedWritten_pc : (fixedWritten k vd dw uns F l).pc = k.pc := rfl
@[simp] theorem fixedWritten_target (code : Byte) : (fixedWritten k vd dw uns F l).target code = k.target code := rfl
@[simp] theorem fixedWritten_tregs (v : Level) : tregs (fixedWritten k vd dw uns F l) v = tregs k v := by cases v <;> rfl
@[simp] theorem atElem_mem : (k.atElem i).mem = k.mem := rfl
@[simp] theorem atElem_pc : (k.atElem i).pc = k.pc := rfl
@[simp] theorem atElem_target (code : Byte) : (k.atElem i).target code = k.target code := rfl
@[simp] theorem atElem_tregs (v : Level) : tregs (k.atElem i) v = tregs k v := by cases v <;> rfl
@[simp] theorem flag_mem (q nf ovf : Bool) : (k.flag q nf ovf).mem = k.mem := rfl

end

/-- Elements of `l`, all below `n`, take the codes of their saturated values. -/
theorem wroteElems_fixedWritten {k : Core} {vd : BitVec 6} {dw n : Nat} {uns : Bool} {F : Nat → Int} {l : List Nat}
    {p : Nat → Bool} (hdw : dw ∣ 128) (hp : ∀ i, i ∈ l ↔ p i = true) (hl : ∀ i ∈ l, i < n) :
    k.wroteElems (fixedWritten k vd dw uns F l) vd.toNat dw n p
      (fun j => ((max (rangeMin uns dw) (min (rangeMax uns dw) (F j))) % 2 ^ dw).toNat) := by
  refine wroteElems_congr (wroteElems_vWrite hdw l _ hl) (fun i _ => ?_) (fun i _ _ => ?_)
  · rw [← Bool.coe_iff_coe, decide_eq_true_eq, hp]
  · rw [unsgn_mod, saturate_eq]

end Sys2Proof.Proofs
end

section
/-! SUPPORT. The fixed-point instructions (R116, R117, R112, R113): what VectorIntegerAndFixedPointResults says of them
holds while VSHAPE has no reserved GLOG. -/

namespace Sys2Proof.Proofs

open Sys2Proof.Machine Sys2Proof.Laws

/-- Command `i` gives every active element `j` of the group of `dw`-bit elements at `vd` the value `f j` saturated to `lo` to
`hi`. It completes and sets QSAT if an element saturated; with TRAPEN.QOV set the first such element raises INT_OVERFLOW with
DETAIL 1 and VSTART its number instead, the active elements below it done (R116, R113). -/
def SaturatesOrTraps (s : State) (c : Nat) (i : Instr) (vd : BitVec 6) (m : VMask) (dw : Nat) (lo hi : Int)
    (f : Nat → Int) : Prop :=
  let k := s.core c
  let n := vCap (s.ctxOf c) k
  let out := fun j => decide (f j < lo ∨ hi < f j)
  let val := fun j => ((max lo (min hi (f j))) % 2 ^ dw).toNat
  (∀ q, (enabled k 2 = true → q = false) → (q = true ↔ ∃ j, k.active m j = true ∧ out j = true) →
    ∃ t k', exec i s = .next t ∧ s.completes t c k' ∧
      ((k.flag q false false).atElem 0).wroteElems k' vd.toNat dw n (k.active m) val) ∧
  (enabled k 2 = true → s.canTrap c 0x09 = true → ∀ j, k.active m j = true → out j = true →
    (∀ j', j' < j → k.active m j' = true → out j' = false) →
    ∃ t k1 k', exec i s = .next t ∧ s.onlyCore t c k' ∧
      (k.atElem j).wroteElems k1 vd.toNat dw n (fun j' => k.active m j' && decide (j' < j)) val ∧
      k1.enters k' (k.target 0x09) k.pc ⟨0x09, 0, 1⟩)

section
variable {s : State} {h : Issue} (hr : s.ready h.core.val = true) (hz : h.rsvz = 0)
include hr hz

/-- An instruction whose body traps from a core that it has written to: that core enters the handler. -/
theorem exec_trapsFrom (w : BitVec 32) {f : Ctx → Core → CoreRes} {k : Core} {t : Trap}
    (hf : f (s.ctxOf h.core.val) (s.core h.core.val) = .trap k t) (hk : k.mem = (s.core h.core.val).mem)
    (hih : stIH (tregs k (k.target t.code)) = false) :
    ∃ u, (s.cmd fun s => s.issueCore h w f) = .next u ∧ s.trapsFrom u h.core.val k t := by
  have hp : k.mem.prog = 0 := hk ▸ ready_prog hr
  have htrap : (s.setCore h.core.val k).trap h.core.val t =
      (s.setCore h.core.val k).setCore h.core.val (enteredCore k (k.target t.code) k.pc t) := by
    rw [State.trap, core_setCore, raise_entered hih, taken_entered _ _ _ _ (target_ne_u _ _)]
  refine ⟨_, cmd_next_same ((issueCore_trap hr hz w hf hp).trans (congrArg _ htrap)) rfl, _,
    enters_enterTrap k _ (target_ne_u _ _) k.pc t, core_setCore .., fun n hn => ?_, rfl⟩
  rw [core_setCore_other _ _ _ hn, core_setCore_other _ _ _ hn]

variable {vd vs1 : BitVec 6} {src : VSrc} {m : VMask}
  (hn : vCnt (s.core h.core.val) ≤ vCap (s.ctxOf h.core.val) (s.core h.core.val))
include hn

/-- An instruction that is a fixed-point operation and passes its checks. -/
theorem saturatesOrTraps_of_vFixed {i : Instr} {wd : BitVec 32} {narrow uns : Bool} {f : Nat → Nat → Nat → Nat → Int}
    (hi : exec i s = s.cmd fun s => s.issueCore h wd fun x k => vFixed x wd narrow uns f vd vs1 src m k)
    (hc : FixedChecks (s.ctxOf h.core.val) (s.core h.core.val) narrow vd vs1 src) :
    let dw := destWidth narrow (tyWidth (vType (s.ctxOf h.core.val) (s.core h.core.val)))
    SaturatesOrTraps s h.core.val i vd m dw (rangeMin uns dw) (rangeMax uns dw)
      (exactValue (s.ctxOf h.core.val) (s.core h.core.val) f vs1 src) := by
  intro dw
  have hdw := destWidth_dvd narrow _ _ hc.type
  have hsat : ∀ x, decide (x < rangeMin uns dw ∨ rangeMax uns dw < x) = (saturate uns dw x).2 := fun x => by
    rw [saturate_eq]
  have hbelow : ∀ j ∈ vActive (s.core h.core.val) m, j < vCap (s.ctxOf h.core.val) (s.core h.core.val) := fun j hj =>
    (lt_vCnt_of_active (mem_vActive.mp hj)).trans_le hn
  simp only [SaturatesOrTraps, hsat]
  refine ⟨fun q hqov hq => ?completes, fun hqov hcan j hj hout hlow => ?traps⟩
  case completes =>
    obtain ⟨t, hnext, hdone⟩ := exec_completes hr hz wd (f := fun x k => vFixed x wd narrow uns f vd vs1 src m k)
      (vFixed_completes hc hqov hq) (by simp)
    exact ⟨t, _, hi.trans hnext, hdone, wroteElems_fixedWritten hdw (fun _ => mem_vActive) hbelow⟩
  case traps =>
    obtain ⟨t, hnext, k', henters, honly⟩ := exec_trapsFrom hr hz wd (f := fun x k => vFixed x wd narrow uns f vd vs1 src m k)
      (vFixed_traps hc hqov hj hout hlow) (by simp) (by simpa [State.canTrap, cINT_OVERFLOW] using hcan)
    rw [fixedWritten_target, atElem_target, fixedWritten_pc, atElem_pc] at henters
    refine ⟨t, _, k', hi.trans hnext, honly, wroteElems_fixedWritten hdw (fun i => ?_) (fun i hi => ?_), henters⟩
    · rw [List.mem_filter, mem_vActive, Bool.and_eq_true]
    · exact hbelow i (List.mem_of_mem_filter hi)

variable (ht : tyInt (vType (s.ctxOf h.core.val) (s.core h.core.val)) = true)
  (hv : vStart (s.core h.core.val) = 0 ∨ enabled (s.core h.core.val) 2 = true) (hg : vG (s.core h.core.val) ≤ 16)
include ht hv hg

/-- R116, R117: each instruction with its exact value and its range. The group size is one that R109 lets into VSHAPE. -/
theorem fixedPointInstructionsSaturateOrTrap (ha : (s.core h.core.val).aligned (vs1 :: srcRegs src)) :
    let k := s.core h.core.val
    let w := tyWidth (vType (s.ctxOf h.core.val) k)
    let a := fun j => vElem k.vec.v vs1.toNat w j
    let b := fun j => vSrc k src w j
    let x := fun j => sgn w (a j)
    let y := fun j => sgn w (b j)
    let rnd := fxRound (field k.vec.vxrm 0 2)
    let gives := fun i => SaturatesOrTraps s h.core.val i vd m
    (k.aligned [vd] →
      gives (.vqaddVqsub h .qadd vd vs1 src m) w (-(2 ^ (w - 1))) (2 ^ (w - 1) - 1) (fun j => x j + y j) ∧
      gives (.vqaddVqsub h .qsub vd vs1 src m) w (-(2 ^ (w - 1))) (2 ^ (w - 1) - 1) (fun j => x j - y j) ∧
      gives (.vqaddVqsub h .qaddu vd vs1 src m) w 0 (2 ^ w - 1) (fun j => a j + b j) ∧
      gives (.vqaddVqsub h .qsubu vd vs1 src m) w 0 (2 ^ w - 1) (fun j => a j - b j) ∧
      gives (.vqrmul h vd vs1 src m) w (-(2 ^ (w - 1))) (2 ^ (w - 1) - 1) (fun j => rnd (x j * y j) (w - 1)) ∧
      gives (.vqshrVqshrnVqshl h .qshl vd vs1 src m) w (-(2 ^ (w - 1))) (2 ^ (w - 1) - 1) (fun j => x j * 2 ^ (b j % w)) ∧
      gives (.vqshrVqshrnVqshl h .qshr vd vs1 src m) w (-(2 ^ (w - 1))) (2 ^ (w - 1) - 1) (fun j => rnd (x j) (b j % w))) ∧
    (w ≠ 8 →
      groupsOk ([(vd.toNat, max 1 (vG k / 2)), (vs1.toNat, vG k)] ++ (srcRegs src).map (fun v => (v.toNat, vG k))) = true →
      gives (.vqshrVqshrnVqshl h .qshrn vd vs1 src m) (w / 2) (-(2 ^ (w / 2 - 1))) (2 ^ (w / 2 - 1) - 1)
        (fun j => rnd (x j) (b j % w))) := by
  intro k w a b x y rnd gives
  refine ⟨fun hvd => ?sameWidth, fun hw8 hgroups => ?narrow⟩
  case sameWidth =>
    have hgroups := groupsOk_src (k := k) (src := src) (l := [vd, vs1])
      (List.forall_mem_cons.mpr ⟨hvd vd (List.mem_singleton.mpr rfl), ha⟩)
    have hc : FixedChecks (s.ctxOf h.core.val) k false vd vs1 src := ⟨hg, ht, hv, nofun, hgroups⟩
    have addSub (op : VQAddOp) := saturatesOrTraps_of_vFixed hr hz hn (i := .vqaddVqsub h op vd vs1 src m) (m := m)
      (uns := vqUns op) (f := vqAddVal op) rfl hc
    have mul := saturatesOrTraps_of_vFixed hr hz hn (i := .vqrmul h vd vs1 src m) (m := m)
      (uns := false) (f := vqrmulVal) rfl hc
    have shl := saturatesOrTraps_of_vFixed hr hz hn (i := .vqshrVqshrnVqshl h .qshl vd vs1 src m) (m := m)
      (uns := false) (f := vqShVal .qshl) rfl hc
    have shr := saturatesOrTraps_of_vFixed hr hz hn (i := .vqshrVqshrnVqshl h .qshr vd vs1 src m) (m := m)
      (uns := false) (f := vqShVal .qshr) rfl hc
    exact ⟨addSub .qadd, addSub .qsub, addSub .qaddu, addSub .qsubu, mul, shl, shr⟩
  case narrow =>
    rw [map_srcRegs] at hgroups
    exact saturatesOrTraps_of_vFixed (narrow := true) (uns := false) (f := vqShVal .qshrn) hr hz hn rfl
      ⟨hg, ht, hv, fun _ => hw8, hgroups⟩

end

end Sys2Proof.Proofs
end

section
/-! SUPPORT. Why VectorIntegerAndFixedPointResults fails: with a reserved group size in VSHAPE (R109) a fixed-point
instruction raises ILLEGAL_INSN. -/

namespace Sys2Proof.Proofs

open Sys2Proof.Machine Sys2Proof.Laws

/-- A group above 16 registers has no derived group of its own width (R107), so a fixed-point operation is refused. -/
theorem vFixed_reserved {x : Ctx} {wd : BitVec 32} {uns : Bool} {f : Nat → Nat → Nat → Nat → Int} {vd vs1 : BitVec 6}
    {src : VSrc} {m : VMask} {k : Core} (hw : 0 < tyWidth (vType x k)) (hg : 16 < vG k) :
    vFixed x wd false uns f vd vs1 src m k = .trap k (tIllegal wd) := by
  have hnone : vDerived (vG k) (tyWidth (vType x k)) (tyWidth (vType x k)) = none :=
    if_pos (Nat.mul_lt_mul_of_pos_right hg hw)
  simp [vFixed, hnone]

/-- With a group above 16 registers VQADD, VQSUB and their unsigned forms raise ILLEGAL_INSN (R107). -/
theorem exec_vqaddVqsub_reserved {s : State} {h : Issue} {op : VQAddOp} {vd vs1 : BitVec 6} {src : VSrc} {m : VMask}
    (hr : s.ready h.core.val = true) (hz : h.rsvz = 0)
    (hw : 0 < tyWidth (vType (s.ctxOf h.core.val) (s.core h.core.val))) (hg : 16 < vG (s.core h.core.val))
    (hc : s.canTrap h.core.val 0x01 = true) :
    ∃ u, exec (.vqaddVqsub h op vd vs1 src m) s = .next u ∧
      s.traps u h.core.val (tIllegal (wordOf (.vqaddVqsub h op vd vs1 src m))) :=
  exec_trap hr hz _ (t := tIllegal _) (vFixed_reserved hw hg) hc

/-- An instruction that raised a trap did not complete with its core's trap registers as they were: entry set IH. -/
theorem not_completes_of_traps {s u : State} {c : Nat} {t : Trap} {k : Core} (hc : s.canTrap c t.code = true)
    (ht : s.traps u c t) (hts : k.ts = (s.core c).ts) (htf : k.tf = (s.core c).tf) : ¬ s.completes u c k := by
  rintro ⟨k', ⟨-, -, hpass⟩, hk', -, -⟩
  obtain ⟨e, ⟨-, -, ⟨-, -, -, hih, -⟩, -⟩, he, -, -⟩ := ht
  have hts' : k'.ts = (s.core c).ts := (congrArg Core.ts hpass).trans hts
  have htf' : k'.tf = (s.core c).tf := (congrArg Core.tf hpass).trans htf
  have hregs : ∀ l, tregs e l = tregs (s.core c) l := by
    intro l
    rw [← he, hk']
    cases l
    · exact hts'
    · exact hts'
    · exact htf'
  rw [hregs] at hih
  simp [State.canTrap, hih] at hc

/-- Elements written leave the trap registers of their core. -/
theorem wroteElems_trapRegs {k k' : Core} {vd w n : Nat} {p : Nat → Bool} {f : Nat → Nat} (h : k.wroteElems k' vd w n p f) :
    k'.ts = k.ts ∧ k'.tf = k.tf := by
  obtain ⟨-, -, hframe⟩ := h
  rw [← hframe]
  exact ⟨rfl, rfl⟩

/-- Reset but for core 0, which has fetched its first line and holds the reserved GLOG code 5 in VSHAPE: groups of 32 registers
of 8-bit elements, none of them active. -/
def reservedGlog : State := State.reset.setCore 0
  { vec := { vshape := 5 }, mem := { icache := [(0, [{ line := 0, valid := 0xF, data := 0 }])] } }

/-- Refutes O19: VQADD.VV v0, v0, v0 in `reservedGlog` meets every hypothesis, but raises ILLEGAL_INSN. The statement does not
say that VSHAPE holds no reserved code, which R109 keeps out of it; with that hypothesis
`fixedPointInstructionsSaturateOrTrap` gives its second half, and `integerVectorInstructionsWriteModulo` the first without it. -/
theorem not_vectorIntegerAndFixedPointResults : ¬ Obligations.VectorIntegerAndFixedPointResults := by
  rintro ⟨-, hfixed⟩
  have hready : reservedGlog.ready 0 = true := by decide +kernel
  have hcan : reservedGlog.canTrap 0 0x01 = true := by decide +kernel
  have haligned : ∀ n, (reservedGlog.core 0).aligned (List.replicate n 0) := by
    intro n v hv
    rw [List.eq_of_mem_replicate hv]
    exact Nat.zero_mod _
  obtain ⟨⟨hqadd, -⟩, -⟩ := (hfixed reservedGlog ⟨0, 0⟩ 0 0 (.vec 0) ⟨0, false⟩ hready rfl (by decide +kernel)
    (.inl (by decide +kernel)) (by decide +kernel) (haligned 2)).1 (haligned 1)
  obtain ⟨t, k', hnext, hdone, hwrote⟩ := hqadd false (fun _ => rfl) (by
    simp [Core.active, show vCnt (reservedGlog.core 0) = 0 by decide +kernel])
  have hwidth : 0 < tyWidth (vType (reservedGlog.ctxOf 0) (reservedGlog.core 0)) := by decide +kernel
  have hgroup : 16 < vG (reservedGlog.core 0) := by decide +kernel
  obtain ⟨u, hnext', htraps⟩ := exec_vqaddVqsub_reserved (h := ⟨0, 0⟩) (op := .qadd) (vd := 0) (vs1 := 0) (src := .vec 0)
    (m := ⟨0, false⟩) hready rfl hwidth hgroup hcan
  have hut : u = t := Host.Outcome.next.inj (hnext'.symm.trans hnext)
  subst hut
  obtain ⟨hts, htf⟩ := wroteElems_trapRegs hwrote
  exact not_completes_of_traps hcan htraps hts htf hdone

end Sys2Proof.Proofs
end
